-- ==== Sys2Proof/Word.lean ====
section
/-!
DEFINITION. Word types and the plainest arithmetic of the manual's pseudocode (spec/00_scope.md R9 to R15).
-/

namespace Sys2Proof

/-- One byte, the unit of memory (R10). -/
abbrev Byte := BitVec 8

/-- The 32-bit value of one register in one lane (R12). -/
abbrev Word := BitVec 32

/-- The 64-bit value of a register pair, a plane descriptor or a wide system register. -/
abbrev DWord := BitVec 64

/-- Bits `[lo + len - 1 : lo]` of the number `n` (R9). -/
def fld (n lo len : Nat) : Nat := n / 2 ^ lo % 2 ^ len

/-- The same bits as a bit vector of their own width. -/
def fb (n lo len : Nat) : BitVec len := BitVec.ofNat len (n / 2 ^ lo)

/-- Concatenation of fields, each given as (width, value), the first in the highest bits (R15). -/
def pack (l : List (Nat × Nat)) : Nat := l.foldl (fun acc p => acc * 2 ^ p.1 + p.2) 0

/-- One flag as a 1-bit number. -/
def bit (b : Bool) : Nat := if b then 1 else 0

/-- 0 or 1 in 32 bits. -/
def flag (b : Bool) : Word := if b then 1 else 0

/-- `⌈a / b⌉` on natural numbers. -/
def ceilDiv (a b : Nat) : Nat := (a + b - 1) / b

end Sys2Proof
end

