-- ==== Sys2Proof/Machine/Agents.lean ====
section
/-!
DEFINITION. The agents that execute a step, the engine classes, and the requests that cross the fabric: the names that the
instructions of Sys2Proof/Syntax.lean take as arguments.
-/

namespace Sys2Proof

/-- Who executes a step: a coach (its sub-group is named beside it), a remote function on an executor (R264), a Celud
thread (R378), or one of the two threads of a dray kernel (R332). -/
inductive Ctx where
  | none
  | coach (team coach : Nat)
  | remote (ex : Nat)
  | thread (team thread : Nat)
  | drayA (chan : Nat)
  | drayX (chan : Nat)
deriving DecidableEq, Repr

/-- The engine classes that a stop order waits for (R306). -/
inductive EngineClass where
  | issue | matrix | copies | drays | gather | envelope | mvstack
deriving DecidableEq, Repr

/-- A request that crosses the fabric (R394, R395): a copy that carries its bytes, a reduction packet, or a call. -/
inductive FabricReq where
  | copy (oid va xf srcFmt dstFmt : Nat) (scalar : BitVec 32) (cls : Nat) (bytes : List (BitVec 8))
  | reduce (oid pa fmt op : Nat) (elems : List (BitVec 8))
  | call (oid codeBase codeLen entry layer target nret cls : Nat) (payload : List (BitVec 32))
deriving DecidableEq, Repr

/-- Who writes a register of the device's window (R390, R392): the host over the main link or over the management sideband,
or the coachwork firmware. -/
inductive Link where
  | main | sideband | firmware
deriving DecidableEq, Repr

/-- Where the translator keeps a value (R386): a V register, the first of a pair for i64, an S register, or the spill area
of the lane. -/
inductive Place where
  | v (n : Nat)
  | s (n : Nat)
  | spill (off : Nat)
deriving DecidableEq, Repr

/-- A memory word of a Celud program in its translation (R382, R385): its index, the offset of the native word that makes
the access, where each live register of each copy stands there: register, copy, place; and the copy whose access it is, or
none where a loop over the copies or the lanes form makes it for every copy. -/
structure Point where
  word : Nat
  pc : Nat
  live : List (Nat × Nat × Place)
  copy : Option Nat := .none
deriving DecidableEq, Repr

/-- A point is the access of copy `k` by memory word `ix` (R385). -/
def Point.serves (p : Point) (ix k : Nat) : Bool := p.word = ix && (p.copy = none || p.copy = some k)

/-- Where the loader places the sections of an object that it relocates: GLOBAL bases of code, .const and .data (R377). -/
structure Bases where
  code : Nat := 0
  const : Nat := 0
  data : Nat := 0
deriving DecidableEq, Repr

/-- A record that is fetched: of queue `q`, and where the loader places an object that it relocates (R297, R377). -/
structure Fetch where
  q : Nat
  place : Bases := {}
deriving DecidableEq, Repr

/-- What the fabric relay is asked to send: a request, and the GLOBAL address of the bytes of a copy or packet (R395). -/
structure RelayReq where
  src : Nat
  req : FabricReq
deriving DecidableEq, Repr

/-- Where a translation keeps the values of a Celud program: its memory words, and the size of the spill area (R386). -/
structure Keep where
  points : List Point := []
  spill : Nat := 0
deriving DecidableEq, Repr

/-- What the Dzitum translator makes of a Celud program (R384 to R387): the native words, and where they keep its values. -/
structure Translation extends Keep where
  code : List (BitVec 32) := []
deriving DecidableEq, Repr

end Sys2Proof
end

