-- ==== Sys2Proof/Syntax.lean ====
section
/-!
DEFINITION. The instructions: one constructor per row of spec/opcode_table.json.
The constructors of the native words carry SW (R166) and the fields of their format (R168, R169); the dray words those
of R333; the Celud words those of R381 with their literal; the events of the device (rows without a word) name the
agent, register or request that they concern, and the choices that the device, the firmware or a peer makes in them.
-/

namespace Sys2Proof

/-- The operations and events of the part (spec/opcode_table.json). -/
inductive Instr where
  /-- UADD, R192: Uniform 32-bit add modulo 2^32. -/
  | uadd (sw : Bool) (d : BitVec 8) (a : BitVec 8) (b : BitVec 8)
  /-- USUB, R192: Uniform 32-bit subtract modulo 2^32. -/
  | usub (sw : Bool) (d : BitVec 8) (a : BitVec 8) (b : BitVec 8)
  /-- UMUL, R192: Uniform 32-bit multiply, low word. -/
  | umul (sw : Bool) (d : BitVec 8) (a : BitVec 8) (b : BitVec 8)
  /-- UMULH, R192: Uniform signed multiply, high word. -/
  | umulh (sw : Bool) (d : BitVec 8) (a : BitVec 8) (b : BitVec 8)
  /-- UMULHU, R192: Uniform unsigned multiply, high word. -/
  | umulhu (sw : Bool) (d : BitVec 8) (a : BitVec 8) (b : BitVec 8)
  /-- UDIV, R193: Uniform signed division truncating toward zero, never trapping. -/
  | udiv (sw : Bool) (d : BitVec 8) (a : BitVec 8) (b : BitVec 8)
  /-- UREM, R193: Uniform signed remainder, never trapping. -/
  | urem (sw : Bool) (d : BitVec 8) (a : BitVec 8) (b : BitVec 8)
  /-- UAND, R192: Uniform bitwise AND. -/
  | uand (sw : Bool) (d : BitVec 8) (a : BitVec 8) (b : BitVec 8)
  /-- UOR, R192: Uniform bitwise OR. -/
  | uor (sw : Bool) (d : BitVec 8) (a : BitVec 8) (b : BitVec 8)
  /-- UXOR, R192: Uniform bitwise XOR. -/
  | uxor (sw : Bool) (d : BitVec 8) (a : BitVec 8) (b : BitVec 8)
  /-- USHL, R194: Uniform left shift by a register amount, not reduced modulo 32. -/
  | ushl (sw : Bool) (d : BitVec 8) (a : BitVec 8) (b : BitVec 8)
  /-- USHR, R194: Uniform logical right shift by a register amount. -/
  | ushr (sw : Bool) (d : BitVec 8) (a : BitVec 8) (b : BitVec 8)
  /-- USAR, R194: Uniform arithmetic right shift by a register amount. -/
  | usar (sw : Bool) (d : BitVec 8) (a : BitVec 8) (b : BitVec 8)
  /-- UMIN, R192: Uniform signed minimum. -/
  | umin (sw : Bool) (d : BitVec 8) (a : BitVec 8) (b : BitVec 8)
  /-- UMAX, R192: Uniform signed maximum. -/
  | umax (sw : Bool) (d : BitVec 8) (a : BitVec 8) (b : BitVec 8)
  /-- UCEQ, R195: Uniform compare equal, writing 1 or 0. -/
  | uceq (sw : Bool) (d : BitVec 8) (a : BitVec 8) (b : BitVec 8)
  /-- UCLT, R195: Uniform signed compare less-than. -/
  | uclt (sw : Bool) (d : BitVec 8) (a : BitVec 8) (b : BitVec 8)
  /-- UCLTU, R195: Uniform unsigned compare less-than. -/
  | ucltu (sw : Bool) (d : BitVec 8) (a : BitVec 8) (b : BitVec 8)
  /-- USEL, R195: Uniform select on the old destination value as condition. -/
  | usel (sw : Bool) (d : BitVec 8) (a : BitVec 8) (b : BitVec 8)
  /-- UADDP, R198: Adds a sign-extended register to a 64-bit pair. -/
  | uaddp (sw : Bool) (d : BitVec 8) (a : BitVec 8) (b : BitVec 8)
  /-- UADD_IMM, R196: Uniform add of a sign-extended immediate. -/
  | uaddImm (sw : Bool) (d : BitVec 8) (a : BitVec 8) (imm : BitVec 8)
  /-- UAND_IMM, R196: Uniform AND with a sign-extended immediate. -/
  | uandImm (sw : Bool) (d : BitVec 8) (a : BitVec 8) (imm : BitVec 8)
  /-- UOR_IMM, R196: Uniform OR with a zero-extended immediate. -/
  | uorImm (sw : Bool) (d : BitVec 8) (a : BitVec 8) (imm : BitVec 8)
  /-- USHL_IMM, R197: Uniform left shift by an immediate amount 0-63. -/
  | ushlImm (sw : Bool) (d : BitVec 8) (a : BitVec 8) (n : BitVec 6)
  /-- USHR_IMM, R197: Uniform logical right shift by an immediate amount. -/
  | ushrImm (sw : Bool) (d : BitVec 8) (a : BitVec 8) (n : BitVec 6)
  /-- USAR_IMM, R197: Uniform arithmetic right shift by an immediate amount. -/
  | usarImm (sw : Bool) (d : BitVec 8) (a : BitVec 8) (n : BitVec 6)
  /-- UADDPI, R198: Adds a sign-extended immediate to a 64-bit pair. -/
  | uaddpi (sw : Bool) (d : BitVec 8) (a : BitVec 8) (imm : BitVec 8)
  /-- UMOVI, R199: Writes a 16-bit sign-extended or IMMX-extended constant to a register. -/
  | umovi (sw : Bool) (d : BitVec 8) (imm : BitVec 16)
  /-- BZ, R201: Uniform branch taken when the tested register is zero, after the trailer. -/
  | bz (sw : Bool) (d : BitVec 8) (off : BitVec 16)
  /-- BNZ, R201: Uniform branch taken when the tested register is non-zero. -/
  | bnz (sw : Bool) (d : BitVec 8) (off : BitVec 16)
  /-- SRRD, R214: Reads a system register into a register or pair. -/
  | srrd (sw : Bool) (d : BitVec 8) (num : BitVec 16)
  /-- SRWR, R214: Writes a system register, applying its field access types and clamps (SLICE, ETOL, ECAP, VI, FRBUF). -/
  | srwr (sw : Bool) (d : BitVec 8) (num : BitVec 16)
  /-- BRA, R202: Unconditional branch by a word offset after the trailer. -/
  | bra (sw : Bool) (off : BitVec 18)
  /-- CALL, R202: Writes the return offset to S63 and branches. -/
  | call (sw : Bool) (off : BitVec 18)
  /-- CALLR, R203: Calls the code offset held in a register, writing S63. -/
  | callr (sw : Bool) (reg : BitVec 8)
  /-- BRR, R203: Branches to the code offset held in a register. -/
  | brr (sw : Bool) (reg : BitVec 8)
  /-- RET, R203: Returns to the code offset held in a register, S63 by default. -/
  | ret (sw : Bool) (reg : BitVec 8)
  /-- END, R205: Ends the sub-group's member lanes once its results, accesses and engine requests are done, as a system-scope release. -/
  | endLanes (sw : Bool)
  /-- TRAP, R211: Program trap entering the handler of the TRAP class after the trailer. -/
  | trap (sw : Bool) (reg : BitVec 8) (code : BitVec 10)
  /-- RFE, R320: Leaves the handler, restores the context and resumes, parks or abandons per FRBUF.ACT. -/
  | rfe (sw : Bool)
  /-- REPLAY_TOKEN, R324: Chip-scope fence, then wakes wait-table entries holding the given token. -/
  | replayToken (sw : Bool) (reg : BitVec 8)
  /-- REPLAY_PAGE, R324: Chip-scope fence, TLB shootdown, then wakes page-fault entries of the page holding the address. -/
  | replayPage (sw : Bool) (reg : BitVec 8)
  /-- ICINV, R254: Invalidates the instruction caches of cores within the scope. -/
  | icinv (sw : Bool) (sc : BitVec 3)
  /-- FENCE, R252: Acquire, release or full fence at a scope for every member lane. -/
  | fence (sw : Bool) (kind : BitVec 2) (sc : BitVec 3)
  /-- OPFENCE, R253: Makes the coach's register and observed scratchpad writes visible to the matrix unit. -/
  | opfence (sw : Bool)
  /-- WAITANY, R258: Parks until any tag of the mask is set and writes the lowest such index. -/
  | waitany (sw : Bool) (reg : BitVec 8) (k : BitVec 6)
  /-- WAITALL, R258: Parks until every tag of the mask is set. -/
  | waitall (sw : Bool) (reg : BitVec 8)
  /-- FFRDY, R259: Writes the lowest ready tag of the mask without parking. -/
  | ffrdy (sw : Bool) (reg : BitVec 8) (k : BitVec 6)
  /-- RCWAIT, R267: Parks until a remote call's reply or deadline and consumes the call. -/
  | rcwait (sw : Bool) (reg : BitVec 8) (k : BitVec 6)
  /-- RCPROBE, R268: Reports a call's recorded final disposition or PENDING, sending a probe if needed. -/
  | rcprobe (sw : Bool) (reg : BitVec 8) (k : BitVec 6)
  /-- EXRD, R208: Reads EXEC into a register. -/
  | exrd (sw : Bool) (reg : BitVec 8)
  /-- EXWR, R208: Writes EXEC from a register ANDed with the membership. -/
  | exwr (sw : Bool) (reg : BitVec 8)
  /-- EXLD, R208: Loads EXEC from a mask register ANDed with the membership. -/
  | exld (sw : Bool) (ma : BitVec 3)
  /-- EXSV, R208: Saves EXEC into a mask register. -/
  | exsv (sw : Bool) (ma : BitVec 3)
  /-- MAND, R208: AND of two mask registers. -/
  | mand (sw : Bool) (ma : BitVec 3) (mb : BitVec 3) (mc : BitVec 3)
  /-- MOR, R208: OR of two mask registers. -/
  | mor (sw : Bool) (ma : BitVec 3) (mb : BitVec 3) (mc : BitVec 3)
  /-- MXOR, R208: XOR of two mask registers. -/
  | mxor (sw : Bool) (ma : BitVec 3) (mb : BitVec 3) (mc : BitVec 3)
  /-- MNOT, R208: NOT of a mask register. -/
  | mnot (sw : Bool) (ma : BitVec 3) (mb : BitVec 3)
  /-- MRD, R208: Reads a mask register into a register. -/
  | mrd (sw : Bool) (reg : BitVec 8) (ma : BitVec 3)
  /-- MWR, R208: Writes a mask register from a register. -/
  | mwr (sw : Bool) (reg : BitVec 8) (ma : BitVec 3)
  /-- MPOP, R208: Counts the 1 bits of a mask register. -/
  | mpop (sw : Bool) (reg : BitVec 8) (ma : BitVec 3)
  /-- BARARV, R210: Arrives at a named barrier and continues. -/
  | bararv (sw : Bool) (reg : BitVec 8) (ci : BitVec 1) (cnt : BitVec 5) (bar : BitVec 4)
  /-- BARSYNC, R210: Arrives at a named barrier and parks until its phase changes. -/
  | barsync (sw : Bool) (reg : BitVec 8) (ci : BitVec 1) (cnt : BitVec 5) (bar : BitVec 4)
  /-- ULDB, R246: Uniform 1-byte load, once for the coach. -/
  | uldb (sw : Bool) (d : BitVec 8) (a : BitVec 8) (wh : BitVec 3) (abs : BitVec 1)
  /-- ULDH, R246: Uniform 2-byte load. -/
  | uldh (sw : Bool) (d : BitVec 8) (a : BitVec 8) (wh : BitVec 3) (abs : BitVec 1)
  /-- ULDW, R246: Uniform 4-byte load. -/
  | uldw (sw : Bool) (d : BitVec 8) (a : BitVec 8) (wh : BitVec 3) (abs : BitVec 1)
  /-- ULDD, R246: Uniform 8-byte load into a pair. -/
  | uldd (sw : Bool) (d : BitVec 8) (a : BitVec 8) (wh : BitVec 3) (abs : BitVec 1)
  /-- ULDQ, R246: Uniform 16-byte load into a block of 4. -/
  | uldq (sw : Bool) (d : BitVec 8) (a : BitVec 8) (wh : BitVec 3) (abs : BitVec 1)
  /-- USTB, R246: Uniform 1-byte store. -/
  | ustb (sw : Bool) (d : BitVec 8) (a : BitVec 8) (wh : BitVec 3) (abs : BitVec 1)
  /-- USTH, R246: Uniform 2-byte store. -/
  | usth (sw : Bool) (d : BitVec 8) (a : BitVec 8) (wh : BitVec 3) (abs : BitVec 1)
  /-- USTW, R246: Uniform 4-byte store. -/
  | ustw (sw : Bool) (d : BitVec 8) (a : BitVec 8) (wh : BitVec 3) (abs : BitVec 1)
  /-- USTD, R246: Uniform 8-byte store from a pair. -/
  | ustd (sw : Bool) (d : BitVec 8) (a : BitVec 8) (wh : BitVec 3) (abs : BitVec 1)
  /-- USTQ, R246: Uniform 16-byte store from a block of 4. -/
  | ustq (sw : Bool) (d : BitVec 8) (a : BitVec 8) (wh : BitVec 3) (abs : BitVec 1)
  /-- ULDW_ACQ, R247: Uniform 4-byte acquire load at a scope. -/
  | uldwAcq (sw : Bool) (d : BitVec 8) (a : BitVec 8) (wh : BitVec 3) (sc : BitVec 3)
  /-- ULDD_ACQ, R247: Uniform 8-byte acquire load at a scope. -/
  | ulddAcq (sw : Bool) (d : BitVec 8) (a : BitVec 8) (wh : BitVec 3) (sc : BitVec 3)
  /-- USTW_REL, R247: Uniform 4-byte release store at a scope. -/
  | ustwRel (sw : Bool) (d : BitVec 8) (a : BitVec 8) (wh : BitVec 3) (sc : BitVec 3)
  /-- USTD_REL, R247: Uniform 8-byte release store at a scope. -/
  | ustdRel (sw : Bool) (d : BitVec 8) (a : BitVec 8) (wh : BitVec 3) (sc : BitVec 3)
  /-- ULDCW, R248: Uniform 4-byte load-consume that taints its destination. -/
  | uldcw (sw : Bool) (d : BitVec 8) (a : BitVec 8) (wh : BitVec 3) (sc : BitVec 3)
  /-- ULDCD, R248: Uniform 8-byte load-consume. -/
  | uldcd (sw : Bool) (d : BitVec 8) (a : BitVec 8) (wh : BitVec 3) (sc : BitVec 3)
  /-- UAADD, R250: Uniform atomic add on a 32-bit word. -/
  | uaadd (sw : Bool) (d : BitVec 6) (a : BitVec 6) (wh : BitVec 3) (ord : BitVec 2) (sc : BitVec 3)
  /-- UAMIN, R250: Uniform atomic signed minimum. -/
  | uamin (sw : Bool) (d : BitVec 6) (a : BitVec 6) (wh : BitVec 3) (ord : BitVec 2) (sc : BitVec 3)
  /-- UAMAX, R250: Uniform atomic signed maximum. -/
  | uamax (sw : Bool) (d : BitVec 6) (a : BitVec 6) (wh : BitVec 3) (ord : BitVec 2) (sc : BitVec 3)
  /-- UAAND, R250: Uniform atomic AND. -/
  | uaand (sw : Bool) (d : BitVec 6) (a : BitVec 6) (wh : BitVec 3) (ord : BitVec 2) (sc : BitVec 3)
  /-- UAOR, R250: Uniform atomic OR. -/
  | uaor (sw : Bool) (d : BitVec 6) (a : BitVec 6) (wh : BitVec 3) (ord : BitVec 2) (sc : BitVec 3)
  /-- UAXOR, R250: Uniform atomic XOR. -/
  | uaxor (sw : Bool) (d : BitVec 6) (a : BitVec 6) (wh : BitVec 3) (ord : BitVec 2) (sc : BitVec 3)
  /-- UAXCHG, R250: Uniform atomic exchange. -/
  | uaxchg (sw : Bool) (d : BitVec 6) (a : BitVec 6) (wh : BitVec 3) (ord : BitVec 2) (sc : BitVec 3)
  /-- UACAS, R250: Uniform atomic compare-and-swap. -/
  | uacas (sw : Bool) (d : BitVec 6) (a : BitVec 6) (wh : BitVec 3) (ord : BitVec 2) (sc : BitVec 3)
  /-- COPY, R256: Checks and admits an asynchronous tagged copy with a transform between layers, writing its status. -/
  | copy (sw : Bool) (b : BitVec 8) (sl : BitVec 3) (dl : BitVec 3) (xf : BitVec 3) (tag : BitVec 6)
  /-- GSJOB, R260: Checks and admits a tagged gather or scatter job on a stack's engine. -/
  | gsjob (sw : Bool) (b : BitVec 8) (dir : BitVec 1) (iw : BitVec 2) (es : BitVec 3) (dl : BitVec 3) (tag : BitVec 6)
  /-- RCALL, R262: Checks and admits a remote call to an executor, writing a token or refusal. -/
  | rcall (sw : Bool) (b : BitVec 8) (narg : BitVec 5) (nret : BitVec 4) (sc : BitVec 3)
  /-- MMA, R284: Collective one-step matrix multiply-accumulate from V-register fragments into an accumulator tile. -/
  | mma (sw : Bool) (b : BitVec 8) (f : BitVec 8) (rb : BitVec 1) (za : BitVec 1) (rm : BitVec 2)
  /-- MLOOP, R285: Collective multi-step matrix multiply-accumulate from scratchpad. -/
  | mloop (sw : Bool) (b : BitVec 8) (za : BitVec 1) (rm : BitVec 2)
  /-- MWAIT, R282: Parks until every matched matrix job completes, then acquires their results. -/
  | mwait (sw : Bool)
  /-- MDRAIN, R286: Converts accumulator entries and writes them out, optionally merging a tile maximum. -/
  | mdrain (sw : Bool) (b : BitVec 8) (tm : BitVec 1) (sat : BitVec 1) (rm : BitVec 2)
  /-- MVSTACK, R288: Tagged vector-matrix product on a stack's bank-multiplier path. -/
  | mvstack (sw : Bool) (b : BitVec 8)
  /-- QUANT2, R287: Dual quantisation of a tile into row- and column-blocked outputs with scales. -/
  | quant2 (sw : Bool) (b : BitVec 8)
  /-- TIDSET, R289: Writes one word of a tensor identifier. -/
  | tidset (sw : Bool) (v : BitVec 8) (x : BitVec 8) (wd : BitVec 4)
  /-- TIDGET, R289: Reads one word of a tensor identifier as a long result. -/
  | tidget (sw : Bool) (d : BitVec 8) (x : BitVec 8) (wd : BitVec 4)
  /-- IMMX, R207: Prefix supplying the high immediate bits of the next instruction. -/
  | immx (imm : BitVec 24)
  /-- RUNEND, R206: Trailer that posts await slots, applies the run's transfer, wait mask and switch park, then ends the run. -/
  | runend (post : BitVec 8) (wait : BitVec 8)
  /-- IADD, R224: Lane 32-bit add. -/
  | iadd (sw : Bool) (d : BitVec 8) (a : BitVec 8) (b : BitVec 8)
  /-- ISUB, R224: Lane 32-bit subtract. -/
  | isub (sw : Bool) (d : BitVec 8) (a : BitVec 8) (b : BitVec 8)
  /-- IMUL, R224: Lane multiply, low word. -/
  | imul (sw : Bool) (d : BitVec 8) (a : BitVec 8) (b : BitVec 8)
  /-- IMULH, R224: Lane signed multiply, high word. -/
  | imulh (sw : Bool) (d : BitVec 8) (a : BitVec 8) (b : BitVec 8)
  /-- IMULHU, R224: Lane unsigned multiply, high word. -/
  | imulhu (sw : Bool) (d : BitVec 8) (a : BitVec 8) (b : BitVec 8)
  /-- IMIN, R224: Lane signed minimum. -/
  | imin (sw : Bool) (d : BitVec 8) (a : BitVec 8) (b : BitVec 8)
  /-- IMAX, R224: Lane signed maximum. -/
  | imax (sw : Bool) (d : BitVec 8) (a : BitVec 8) (b : BitVec 8)
  /-- IAND, R224: Lane bitwise AND. -/
  | iand (sw : Bool) (d : BitVec 8) (a : BitVec 8) (b : BitVec 8)
  /-- IOR, R224: Lane bitwise OR. -/
  | ior (sw : Bool) (d : BitVec 8) (a : BitVec 8) (b : BitVec 8)
  /-- IXOR, R224: Lane bitwise XOR. -/
  | ixor (sw : Bool) (d : BitVec 8) (a : BitVec 8) (b : BitVec 8)
  /-- ISHL, R224: Lane left shift by a per-lane amount. -/
  | ishl (sw : Bool) (d : BitVec 8) (a : BitVec 8) (b : BitVec 8)
  /-- ISHR, R224: Lane logical right shift by a per-lane amount. -/
  | ishr (sw : Bool) (d : BitVec 8) (a : BitVec 8) (b : BitVec 8)
  /-- ISAR, R224: Lane arithmetic right shift by a per-lane amount. -/
  | isar (sw : Bool) (d : BitVec 8) (a : BitVec 8) (b : BitVec 8)
  /-- ICEQ, R225: Lane compare equal. -/
  | iceq (sw : Bool) (d : BitVec 8) (a : BitVec 8) (b : BitVec 8)
  /-- ICLT, R225: Lane signed less-than. -/
  | iclt (sw : Bool) (d : BitVec 8) (a : BitVec 8) (b : BitVec 8)
  /-- ICLTU, R225: Lane unsigned less-than. -/
  | icltu (sw : Bool) (d : BitVec 8) (a : BitVec 8) (b : BitVec 8)
  /-- ISEL, R225: Lane select on the old destination value. -/
  | isel (sw : Bool) (d : BitVec 8) (a : BitVec 8) (b : BitVec 8)
  /-- P8ADD, R229: Packed saturating 8-bit add. -/
  | p8add (sw : Bool) (d : BitVec 8) (a : BitVec 8) (b : BitVec 8)
  /-- P8SUB, R229: Packed saturating 8-bit subtract. -/
  | p8sub (sw : Bool) (d : BitVec 8) (a : BitVec 8) (b : BitVec 8)
  /-- P8MAX, R229: Packed 8-bit signed maximum. -/
  | p8max (sw : Bool) (d : BitVec 8) (a : BitVec 8) (b : BitVec 8)
  /-- P8MIN, R229: Packed 8-bit signed minimum. -/
  | p8min (sw : Bool) (d : BitVec 8) (a : BitVec 8) (b : BitVec 8)
  /-- P16ADD, R229: Packed saturating 16-bit add. -/
  | p16add (sw : Bool) (d : BitVec 8) (a : BitVec 8) (b : BitVec 8)
  /-- P16SUB, R229: Packed saturating 16-bit subtract. -/
  | p16sub (sw : Bool) (d : BitVec 8) (a : BitVec 8) (b : BitVec 8)
  /-- P16MUL, R229: Packed saturating 16-bit multiply. -/
  | p16mul (sw : Bool) (d : BitVec 8) (a : BitVec 8) (b : BitVec 8)
  /-- FADD, R232: FP32 add rounded once. -/
  | fadd (sw : Bool) (d : BitVec 8) (a : BitVec 8) (b : BitVec 8)
  /-- FSUB, R232: FP32 subtract. -/
  | fsub (sw : Bool) (d : BitVec 8) (a : BitVec 8) (b : BitVec 8)
  /-- FMUL, R232: FP32 multiply. -/
  | fmul (sw : Bool) (d : BitVec 8) (a : BitVec 8) (b : BitVec 8)
  /-- FFMA, R232: FP32 fused multiply-add into the old destination. -/
  | ffma (sw : Bool) (d : BitVec 8) (a : BitVec 8) (b : BitVec 8)
  /-- FMIN, R233: FP32 minimum ignoring NaN. -/
  | fmin (sw : Bool) (d : BitVec 8) (a : BitVec 8) (b : BitVec 8)
  /-- FMAX, R233: FP32 maximum ignoring NaN. -/
  | fmax (sw : Bool) (d : BitVec 8) (a : BitVec 8) (b : BitVec 8)
  /-- FCEQ, R233: FP32 compare equal. -/
  | fceq (sw : Bool) (d : BitVec 8) (a : BitVec 8) (b : BitVec 8)
  /-- FCLT, R233: FP32 compare less-than. -/
  | fclt (sw : Bool) (d : BitVec 8) (a : BitVec 8) (b : BitVec 8)
  /-- FCLE, R233: FP32 compare less-or-equal. -/
  | fcle (sw : Bool) (d : BitVec 8) (a : BitVec 8) (b : BitVec 8)
  /-- HADD2, R234: Packed FP16 add. -/
  | hadd2 (sw : Bool) (d : BitVec 8) (a : BitVec 8) (b : BitVec 8)
  /-- HFMA2, R234: Packed FP16 fused multiply-add. -/
  | hfma2 (sw : Bool) (d : BitVec 8) (a : BitVec 8) (b : BitVec 8)
  /-- BADD2, R234: Packed BF16 add. -/
  | badd2 (sw : Bool) (d : BitVec 8) (a : BitVec 8) (b : BitVec 8)
  /-- BFMA2, R234: Packed BF16 fused multiply-add. -/
  | bfma2 (sw : Bool) (d : BitVec 8) (a : BitVec 8) (b : BitVec 8)
  /-- IADD_IMM, R226: Lane add of a sign-extended immediate. -/
  | iaddImm (sw : Bool) (d : BitVec 8) (a : BitVec 8) (imm : BitVec 8)
  /-- IAND_IMM, R226: Lane AND with a sign-extended immediate. -/
  | iandImm (sw : Bool) (d : BitVec 8) (a : BitVec 8) (imm : BitVec 8)
  /-- IOR_IMM, R226: Lane OR with a zero-extended immediate. -/
  | iorImm (sw : Bool) (d : BitVec 8) (a : BitVec 8) (imm : BitVec 8)
  /-- ISHL_IMM, R227: Lane left shift by an immediate amount. -/
  | ishlImm (sw : Bool) (d : BitVec 8) (a : BitVec 8) (n : BitVec 6)
  /-- ISHR_IMM, R227: Lane logical right shift by an immediate amount. -/
  | ishrImm (sw : Bool) (d : BitVec 8) (a : BitVec 8) (n : BitVec 6)
  /-- ISAR_IMM, R227: Lane arithmetic right shift by an immediate amount. -/
  | isarImm (sw : Bool) (d : BitVec 8) (a : BitVec 8) (n : BitVec 6)
  /-- P8SHL, R230: Packed 8-bit left shift by an immediate. -/
  | p8shl (sw : Bool) (d : BitVec 8) (a : BitVec 8) (n : BitVec 5)
  /-- P8SHR, R230: Packed 8-bit logical right shift. -/
  | p8shr (sw : Bool) (d : BitVec 8) (a : BitVec 8) (n : BitVec 5)
  /-- P8SAR, R230: Packed 8-bit arithmetic right shift. -/
  | p8sar (sw : Bool) (d : BitVec 8) (a : BitVec 8) (n : BitVec 5)
  /-- P16SHL, R230: Packed 16-bit left shift. -/
  | p16shl (sw : Bool) (d : BitVec 8) (a : BitVec 8) (n : BitVec 5)
  /-- P16SHR, R230: Packed 16-bit logical right shift. -/
  | p16shr (sw : Bool) (d : BitVec 8) (a : BitVec 8) (n : BitVec 5)
  /-- P16SAR, R230: Packed 16-bit arithmetic right shift. -/
  | p16sar (sw : Bool) (d : BitVec 8) (a : BitVec 8) (n : BitVec 5)
  /-- EXP2, R235: Correctly rounded 2^x, long result. -/
  | exp2 (sw : Bool) (d : BitVec 8) (a : BitVec 8)
  /-- LOG2, R235: Correctly rounded log2 x. -/
  | log2 (sw : Bool) (d : BitVec 8) (a : BitVec 8)
  /-- RCP, R235: Correctly rounded reciprocal. -/
  | rcp (sw : Bool) (d : BitVec 8) (a : BitVec 8)
  /-- RSQRT, R235: Correctly rounded reciprocal square root. -/
  | rsqrt (sw : Bool) (d : BitVec 8) (a : BitVec 8)
  /-- SIN, R235: Correctly rounded sin(2πx). -/
  | sin (sw : Bool) (d : BitVec 8) (a : BitVec 8)
  /-- COS, R235: Correctly rounded cos(2πx). -/
  | cos (sw : Bool) (d : BitVec 8) (a : BitVec 8)
  /-- CVT, R236: Packed format conversion without saturation. -/
  | cvt (sw : Bool) (d : BitVec 8) (a : BitVec 8) (rm : BitVec 2) (tgt : BitVec 3) (src : BitVec 3)
  /-- CVTS, R236: Packed format conversion with saturation. -/
  | cvts (sw : Bool) (d : BitVec 8) (a : BitVec 8) (rm : BitVec 2) (tgt : BitVec 3) (src : BitVec 3)
  /-- VRD, R239: Reads the V register indexed by VI plus an offset, bounds-checked. -/
  | vrd (sw : Bool) (d : BitVec 8) (k : BitVec 8)
  /-- VWR, R239: Writes the V register indexed by VI plus an offset, bounds-checked. -/
  | vwr (sw : Bool) (a : BitVec 8) (k : BitVec 8)
  /-- LPUSH, R71: Pushes values to indexed lanes, lowest source winning, and writes the loser mask. -/
  | lpush (sw : Bool) (d : BitVec 6) (a : BitVec 6) (x : BitVec 8) (mk : BitVec 3)
  /-- LPULL, R238: Reads a register from an indexed lane of the coach. -/
  | lpull (sw : Bool) (d : BitVec 8) (a : BitVec 8) (b : BitVec 8)
  /-- IMOVI, R228: Writes a constant into each active lane. -/
  | imovi (sw : Bool) (d : BitVec 8) (imm : BitVec 16)
  /-- BVZ, R241: Lane-conditional branch on zero, splitting the sub-group when lanes disagree. -/
  | bvz (sw : Bool) (d : BitVec 8) (off : BitVec 16)
  /-- BVNZ, R241: Lane-conditional branch on non-zero, splitting the sub-group when lanes disagree. -/
  | bvnz (sw : Bool) (d : BitVec 8) (off : BitVec 16)
  /-- LDB, R246: Lane 1-byte load, zero-extended. -/
  | ldb (sw : Bool) (d : BitVec 8) (a : BitVec 8) (wh : BitVec 3) (abs : BitVec 1)
  /-- LDH, R246: Lane 2-byte load. -/
  | ldh (sw : Bool) (d : BitVec 8) (a : BitVec 8) (wh : BitVec 3) (abs : BitVec 1)
  /-- LDW, R246: Lane 4-byte load. -/
  | ldw (sw : Bool) (d : BitVec 8) (a : BitVec 8) (wh : BitVec 3) (abs : BitVec 1)
  /-- LDD, R246: Lane 8-byte load into a pair. -/
  | ldd (sw : Bool) (d : BitVec 8) (a : BitVec 8) (wh : BitVec 3) (abs : BitVec 1)
  /-- LDQ, R246: Lane 16-byte load into a block of 4. -/
  | ldq (sw : Bool) (d : BitVec 8) (a : BitVec 8) (wh : BitVec 3) (abs : BitVec 1)
  /-- STB, R246: Lane 1-byte store. -/
  | stb (sw : Bool) (d : BitVec 8) (a : BitVec 8) (wh : BitVec 3) (abs : BitVec 1)
  /-- STH, R246: Lane 2-byte store. -/
  | sth (sw : Bool) (d : BitVec 8) (a : BitVec 8) (wh : BitVec 3) (abs : BitVec 1)
  /-- STW, R246: Lane 4-byte store. -/
  | stw (sw : Bool) (d : BitVec 8) (a : BitVec 8) (wh : BitVec 3) (abs : BitVec 1)
  /-- STD, R246: Lane 8-byte store from a pair. -/
  | std (sw : Bool) (d : BitVec 8) (a : BitVec 8) (wh : BitVec 3) (abs : BitVec 1)
  /-- STQ, R246: Lane 16-byte store from a block of 4. -/
  | stq (sw : Bool) (d : BitVec 8) (a : BitVec 8) (wh : BitVec 3) (abs : BitVec 1)
  /-- LDW_ACQ, R247: Lane 4-byte acquire load at a scope. -/
  | ldwAcq (sw : Bool) (d : BitVec 8) (a : BitVec 8) (wh : BitVec 3) (sc : BitVec 3)
  /-- LDD_ACQ, R247: Lane 8-byte acquire load at a scope. -/
  | lddAcq (sw : Bool) (d : BitVec 8) (a : BitVec 8) (wh : BitVec 3) (sc : BitVec 3)
  /-- STW_REL, R247: Lane 4-byte release store at a scope. -/
  | stwRel (sw : Bool) (d : BitVec 8) (a : BitVec 8) (wh : BitVec 3) (sc : BitVec 3)
  /-- STD_REL, R247: Lane 8-byte release store at a scope. -/
  | stdRel (sw : Bool) (d : BitVec 8) (a : BitVec 8) (wh : BitVec 3) (sc : BitVec 3)
  /-- LDCW, R248: Lane 4-byte load-consume that taints its destination. -/
  | ldcw (sw : Bool) (d : BitVec 8) (a : BitVec 8) (wh : BitVec 3) (sc : BitVec 3)
  /-- LDCD, R248: Lane 8-byte load-consume. -/
  | ldcd (sw : Bool) (d : BitVec 8) (a : BitVec 8) (wh : BitVec 3) (sc : BitVec 3)
  /-- AADD, R250: Lane atomic add, lanes in increasing order. -/
  | aadd (sw : Bool) (d : BitVec 6) (a : BitVec 8) (wh : BitVec 3) (ord : BitVec 2) (sc : BitVec 3)
  /-- AMIN, R250: Lane atomic signed minimum. -/
  | amin (sw : Bool) (d : BitVec 6) (a : BitVec 8) (wh : BitVec 3) (ord : BitVec 2) (sc : BitVec 3)
  /-- AMAX, R250: Lane atomic signed maximum. -/
  | amax (sw : Bool) (d : BitVec 6) (a : BitVec 8) (wh : BitVec 3) (ord : BitVec 2) (sc : BitVec 3)
  /-- AAND, R250: Lane atomic AND. -/
  | aand (sw : Bool) (d : BitVec 6) (a : BitVec 8) (wh : BitVec 3) (ord : BitVec 2) (sc : BitVec 3)
  /-- AOR, R250: Lane atomic OR. -/
  | aor (sw : Bool) (d : BitVec 6) (a : BitVec 8) (wh : BitVec 3) (ord : BitVec 2) (sc : BitVec 3)
  /-- AXOR, R250: Lane atomic XOR. -/
  | axor (sw : Bool) (d : BitVec 6) (a : BitVec 8) (wh : BitVec 3) (ord : BitVec 2) (sc : BitVec 3)
  /-- AXCHG, R250: Lane atomic exchange. -/
  | axchg (sw : Bool) (d : BitVec 6) (a : BitVec 8) (wh : BitVec 3) (ord : BitVec 2) (sc : BitVec 3)
  /-- ACAS, R250: Lane atomic compare-and-swap. -/
  | acas (sw : Bool) (d : BitVec 6) (a : BitVec 8) (wh : BitVec 3) (ord : BitVec 2) (sc : BitVec 3)
  /-- PSHIFT, R271: Shifts a plane by n toward a direction with zero or register fill. -/
  | pshift (sw : Bool) (d : BitVec 3) (a : BitVec 3) (sk : BitVec 3) (dir : BitVec 2) (fl : BitVec 1) (n : BitVec 8)
  /-- PROT, R271: Rotates a plane by n toward a direction. -/
  | prot (sw : Bool) (d : BitVec 3) (a : BitVec 3) (dir : BitVec 2) (n : BitVec 8)
  /-- PSPREAD, R64: Copies one row or column across the whole plane. -/
  | pspread (sw : Bool) (d : BitVec 3) (a : BitVec 3) (axis : BitVec 1) (r : BitVec 10)
  /-- PFOLD, R65: Reduces every line along an axis into the edge row or column. -/
  | pfold (sw : Bool) (d : BitVec 3) (a : BitVec 3) (op : BitVec 2) (dir : BitVec 2)
  /-- PREFOLD, R68: Copies a plane into another folding. -/
  | prefold (sw : Bool) (d : BitVec 3) (a : BitVec 3)
  /-- PADD, R272: Element-wise plane add. -/
  | padd (sw : Bool) (d : BitVec 3) (a : BitVec 3) (b : BitVec 3)
  /-- PSUB, R272: Element-wise plane subtract. -/
  | psub (sw : Bool) (d : BitVec 3) (a : BitVec 3) (b : BitVec 3)
  /-- PMUL, R272: Element-wise plane multiply. -/
  | pmul (sw : Bool) (d : BitVec 3) (a : BitVec 3) (b : BitVec 3)
  /-- PMAX, R272: Element-wise plane maximum. -/
  | pmax (sw : Bool) (d : BitVec 3) (a : BitVec 3) (b : BitVec 3)
  /-- PMIN, R272: Element-wise plane minimum. -/
  | pmin (sw : Bool) (d : BitVec 3) (a : BitVec 3) (b : BitVec 3)
  /-- PDSET, R274: Writes a plane descriptor from an S pair. -/
  | pdset (sw : Bool) (d : BitVec 3) (x : BitVec 8)
  /-- PDGET, R274: Reads a plane descriptor into a V pair. -/
  | pdget (sw : Bool) (a : BitVec 3) (x : BitVec 8)
  /-- ENVCLR, R365: Clears an envelope register to no lines on a given or full domain. -/
  | envclr (sw : Bool) (d : BitVec 4) (r : BitVec 8) (given : BitVec 1)
  /-- ENVINS, R366: Inserts one line per active lane into an envelope. -/
  | envins (sw : Bool) (d : BitVec 4) (a : BitVec 8)
  /-- ENVSUM, R367: Sum of two envelopes on their common domain. -/
  | envsum (sw : Bool) (a : BitVec 4) (d : BitVec 4) (b : BitVec 4)
  /-- ENVMAX, R367: Maximum of two envelopes on their common domain. -/
  | envmax (sw : Bool) (a : BitVec 4) (d : BitVec 4) (b : BitVec 4)
  /-- ENVCONV, R368: Infimal convolution of two envelopes. -/
  | envconv (sw : Bool) (a : BitVec 4) (d : BitVec 4) (b : BitVec 4)
  /-- ENVLEG, R369: Legendre conjugate of an envelope. -/
  | envleg (sw : Bool) (a : BitVec 4) (d : BitVec 4)
  /-- ENVEVAL, R370: Evaluates an envelope at each lane's point, long result. -/
  | enveval (sw : Bool) (d : BitVec 8) (x : BitVec 8) (a : BitVec 4)
  /-- ENVLD, R372: Loads and checks an envelope image from memory. -/
  | envld (sw : Bool) (wh : BitVec 3) (d : BitVec 4) (r : BitVec 8)
  /-- ENVST, R371: Stores an envelope image to memory. -/
  | envst (sw : Bool) (wh : BitVec 3) (d : BitVec 4) (r : BitVec 8)
  /-- ENVSIMP, R374: Removes envelope lines within tolerance ETOL. -/
  | envsimp (sw : Bool) (a : BitVec 4) (d : BitVec 4)
  /-- SMXACC, R141: One online-softmax accumulation step per lane. -/
  | smxacc (sw : Bool) (p : BitVec 8) (a : BitVec 8) (nm1 : BitVec 4)
  /-- SMXFIN, R142: Finishes online softmax into log-sum and reciprocal. -/
  | smxfin (sw : Bool) (d : BitVec 8) (p : BitVec 8)
  /-- AEND, R334: Ends the dray address thread. -/
  | aend
  /-- JMOVI, R334: Moves a zero-extended constant into a J register. -/
  | jmovi (d : BitVec 4) (v : BitVec 18)
  /-- JADDI, R334: Adds a sign-extended constant to a J register. -/
  | jaddi (d : BitVec 4) (a : BitVec 4) (v : BitVec 18)
  /-- JADD, R334: Adds two J registers. -/
  | jadd (d : BitVec 4) (a : BitVec 4) (b : BitVec 4)
  /-- JLOOP, R334: Decrements a J register and branches while non-zero. -/
  | jloop (d : BitVec 4) (o : BitVec 18)
  /-- OPEN, R334: Enqueues a row-open command. -/
  | drayOpen (r : BitVec 4)
  /-- READ, R334: Enqueues a read of 1-4 sectors of a row. -/
  | drayRead (r : BitVec 4) (c : BitVec 4) (n : BitVec 2)
  /-- WBACK, R334: Enqueues a write-back of a bank accumulator to a row. -/
  | drayWback (k : BitVec 4) (r : BitVec 4) (c : BitVec 4) (f : BitVec 1)
  /-- CLOSE, R334: Enqueues a row-close command. -/
  | drayClose (r : BitVec 4)
  /-- XEND, R337: Ends the dray arithmetic thread. -/
  | xend
  /-- XPOP, R337: Pops one or two data-queue entries into an H register, waiting for them. -/
  | xpop (d : BitVec 4) (f : BitVec 1)
  /-- XADD, R337: Lane-wise FP32 add on H registers. -/
  | xadd (d : BitVec 4) (a : BitVec 4) (b : BitVec 4) (f : BitVec 1)
  /-- XMUL, R337: Lane-wise FP32 multiply. -/
  | xmul (d : BitVec 4) (a : BitVec 4) (b : BitVec 4) (f : BitVec 1)
  /-- XFMA, R337: Lane-wise FP32 fused multiply-add. -/
  | xfma (d : BitVec 4) (a : BitVec 4) (b : BitVec 4) (f : BitVec 1)
  /-- XMAX, R337: Lane-wise FP32 maximum. -/
  | xmax (d : BitVec 4) (a : BitVec 4) (b : BitVec 4) (f : BitVec 1)
  /-- XMIN, R337: Lane-wise FP32 minimum. -/
  | xmin (d : BitVec 4) (a : BitVec 4) (b : BitVec 4) (f : BitVec 1)
  /-- XSET, R337: Sets a bank accumulator once its release count is zero. -/
  | xset (k : BitVec 4) (a : BitVec 4)
  /-- XACC, R337: Accumulates into a bank accumulator once its release count is zero. -/
  | xacc (k : BitVec 4) (a : BitVec 4)
  /-- XREL, R337: Releases a bank accumulator to a WBACK. -/
  | xrel (k : BitVec 4)
  /-- XCMOVI, R337: Moves a constant into a counter. -/
  | xcmovi (d : BitVec 4) (v : BitVec 13)
  /-- XLOOP, R337: Decrements a counter and branches while non-zero. -/
  | xloop (d : BitVec 4) (o : BitVec 13)
  /-- CELUD_DECL, R380: Declares a Celud register's type. -/
  | celudDecl (d : BitVec 12) (ty : BitVec 3)
  /-- CELUD_TID, R382: Writes the thread index. -/
  | celudTid (d : BitVec 12)
  /-- CELUD_NTHR, R382: Writes the thread count. -/
  | celudNthr (d : BitVec 12)
  /-- CELUD_MOV, R382: Copies a register or literal. -/
  | celudMov (lit : Option (BitVec 64)) (d : BitVec 12) (a : BitVec 12)
  /-- CELUD_ADD, R382: i32 add. -/
  | celudAdd (lit : Option (BitVec 64)) (d : BitVec 12) (a : BitVec 12) (b : BitVec 12)
  /-- CELUD_SUB, R382: i32 subtract. -/
  | celudSub (lit : Option (BitVec 64)) (d : BitVec 12) (a : BitVec 12) (b : BitVec 12)
  /-- CELUD_MUL, R382: i32 multiply. -/
  | celudMul (lit : Option (BitVec 64)) (d : BitVec 12) (a : BitVec 12) (b : BitVec 12)
  /-- CELUD_MULH, R382: i32 signed multiply high. -/
  | celudMulh (lit : Option (BitVec 64)) (d : BitVec 12) (a : BitVec 12) (b : BitVec 12)
  /-- CELUD_MIN, R382: i32 signed minimum. -/
  | celudMin (lit : Option (BitVec 64)) (d : BitVec 12) (a : BitVec 12) (b : BitVec 12)
  /-- CELUD_MAX, R382: i32 signed maximum. -/
  | celudMax (lit : Option (BitVec 64)) (d : BitVec 12) (a : BitVec 12) (b : BitVec 12)
  /-- CELUD_AND, R382: i32 AND. -/
  | celudAnd (lit : Option (BitVec 64)) (d : BitVec 12) (a : BitVec 12) (b : BitVec 12)
  /-- CELUD_OR, R382: i32 OR. -/
  | celudOr (lit : Option (BitVec 64)) (d : BitVec 12) (a : BitVec 12) (b : BitVec 12)
  /-- CELUD_XOR, R382: i32 XOR. -/
  | celudXor (lit : Option (BitVec 64)) (d : BitVec 12) (a : BitVec 12) (b : BitVec 12)
  /-- CELUD_SHL, R382: i32 left shift. -/
  | celudShl (lit : Option (BitVec 64)) (d : BitVec 12) (a : BitVec 12) (b : BitVec 12)
  /-- CELUD_SHR, R382: i32 logical right shift. -/
  | celudShr (lit : Option (BitVec 64)) (d : BitVec 12) (a : BitVec 12) (b : BitVec 12)
  /-- CELUD_SAR, R382: i32 arithmetic right shift. -/
  | celudSar (lit : Option (BitVec 64)) (d : BitVec 12) (a : BitVec 12) (b : BitVec 12)
  /-- CELUD_CEQ, R382: i32 compare equal to pred. -/
  | celudCeq (lit : Option (BitVec 64)) (d : BitVec 12) (a : BitVec 12) (b : BitVec 12)
  /-- CELUD_CLT, R382: i32 signed less-than to pred. -/
  | celudClt (lit : Option (BitVec 64)) (d : BitVec 12) (a : BitVec 12) (b : BitVec 12)
  /-- CELUD_CLTU, R382: i32 unsigned less-than to pred. -/
  | celudCltu (lit : Option (BitVec 64)) (d : BitVec 12) (a : BitVec 12) (b : BitVec 12)
  /-- CELUD_SEL, R382: Select on a pred. -/
  | celudSel (lit : Option (BitVec 64)) (d : BitVec 12) (a : BitVec 12) (b : BitVec 12) (c : BitVec 12)
  /-- CELUD_ADD64, R382: i64 add modulo 2^64. -/
  | celudAdd64 (lit : Option (BitVec 64)) (d : BitVec 12) (a : BitVec 12) (b : BitVec 12)
  /-- CELUD_FADD, R382: f32 add. -/
  | celudFadd (lit : Option (BitVec 64)) (d : BitVec 12) (a : BitVec 12) (b : BitVec 12)
  /-- CELUD_FSUB, R382: f32 subtract. -/
  | celudFsub (lit : Option (BitVec 64)) (d : BitVec 12) (a : BitVec 12) (b : BitVec 12)
  /-- CELUD_FMUL, R382: f32 multiply. -/
  | celudFmul (lit : Option (BitVec 64)) (d : BitVec 12) (a : BitVec 12) (b : BitVec 12)
  /-- CELUD_FFMA, R382: f32 fused multiply-add. -/
  | celudFfma (lit : Option (BitVec 64)) (d : BitVec 12) (a : BitVec 12) (b : BitVec 12)
  /-- CELUD_FMIN, R382: f32 minimum. -/
  | celudFmin (lit : Option (BitVec 64)) (d : BitVec 12) (a : BitVec 12) (b : BitVec 12)
  /-- CELUD_FMAX, R382: f32 maximum. -/
  | celudFmax (lit : Option (BitVec 64)) (d : BitVec 12) (a : BitVec 12) (b : BitVec 12)
  /-- CELUD_FCEQ, R382: f32 compare equal. -/
  | celudFceq (lit : Option (BitVec 64)) (d : BitVec 12) (a : BitVec 12) (b : BitVec 12)
  /-- CELUD_FCLT, R382: f32 compare less-than. -/
  | celudFclt (lit : Option (BitVec 64)) (d : BitVec 12) (a : BitVec 12) (b : BitVec 12)
  /-- CELUD_FCLE, R382: f32 compare less-or-equal. -/
  | celudFcle (lit : Option (BitVec 64)) (d : BitVec 12) (a : BitVec 12) (b : BitVec 12)
  /-- CELUD_SFN, R382: Special function on f32. -/
  | celudSfn (lit : Option (BitVec 64)) (d : BitVec 12) (a : BitVec 12) (fn : BitVec 3)
  /-- CELUD_CVT, R382: Format conversion. -/
  | celudCvt (lit : Option (BitVec 64)) (d : BitVec 12) (a : BitVec 12) (i8 : BitVec 8) (sat : Bool)
  /-- CELUD_HADD2, R382: Packed FP16 add. -/
  | celudHadd2 (lit : Option (BitVec 64)) (d : BitVec 12) (a : BitVec 12) (b : BitVec 12)
  /-- CELUD_HFMA2, R382: Packed FP16 fused multiply-add. -/
  | celudHfma2 (lit : Option (BitVec 64)) (d : BitVec 12) (a : BitVec 12) (b : BitVec 12)
  /-- CELUD_BADD2, R382: Packed BF16 add. -/
  | celudBadd2 (lit : Option (BitVec 64)) (d : BitVec 12) (a : BitVec 12) (b : BitVec 12)
  /-- CELUD_BFMA2, R382: Packed BF16 fused multiply-add. -/
  | celudBfma2 (lit : Option (BitVec 64)) (d : BitVec 12) (a : BitVec 12) (b : BitVec 12)
  /-- CELUD_DOT2, R382: Two-term FP16 dot product accumulated in f32. -/
  | celudDot2 (lit : Option (BitVec 64)) (d : BitVec 12) (a : BitVec 12) (b : BitVec 12)
  /-- CELUD_LD, R382: Load with optional ordering and revision. -/
  | celudLd (sc : BitVec 3) (ord : BitVec 2) (rev : BitVec 2) (lit : Option (BitVec 64)) (d : BitVec 12) (a : BitVec 12) (space : BitVec 3) (size : BitVec 2) (hint : BitVec 2)
  /-- CELUD_ST, R382: Store with optional ordering and revision. -/
  | celudSt (sc : BitVec 3) (ord : BitVec 2) (rev : BitVec 2) (lit : Option (BitVec 64)) (a : BitVec 12) (b : BitVec 12) (space : BitVec 3) (size : BitVec 2) (hint : BitVec 2)
  /-- CELUD_LDC, R382: Load-consume. -/
  | celudLdc (sc : BitVec 3) (rev : BitVec 2) (lit : Option (BitVec 64)) (d : BitVec 12) (a : BitVec 12) (space : BitVec 3) (size : BitVec 2) (hint : BitVec 2)
  /-- CELUD_ATOM, R382: Atomic read-modify-write. -/
  | celudAtom (sc : BitVec 3) (ord : BitVec 2) (rev : BitVec 2) (lit : Option (BitVec 64)) (d : BitVec 12) (a : BitVec 12) (b : BitVec 12) (space : BitVec 3) (hint : BitVec 2) (op : BitVec 3)
  /-- CELUD_FENCE, R382: Fence of a kind and scope. -/
  | celudFence (sc : BitVec 3) (kind : BitVec 2)
  /-- CELUD_BAR, R379: Team-wide barrier for all threads. -/
  | celudBar
  /-- CELUD_JMP, R382: Unconditional jump of every thread. -/
  | celudJmp (target : BitVec 64)
  /-- CELUD_BRZ, R382: Thread branches if zero. -/
  | celudBrz (a : BitVec 12) (target : BitVec 64)
  /-- CELUD_BRNZ, R382: Thread branches if non-zero. -/
  | celudBrnz (a : BitVec 12) (target : BitVec 64)
  /-- CELUD_END, R382: The thread ends. -/
  | celudEnd
  /-- ISSUE_DECISION, R32: A half not in a run selects a ready coach by overdue, greedy and age order and issues its next run. -/
  | issueDecision (half : Nat)
  /-- COACH_OVERDUE, R32: A ready coach's wait count reaches 56 and it becomes overdue. -/
  | coachOverdue (team : Nat) (coach : Nat)
  /-- SUBGROUP_OVERDUE, R38: A sub-group's pass-over count reaches 16 and it becomes overdue. -/
  | subgroupOverdue (team : Nat) (coach : Nat) (sub : Nat)
  /-- LONG_RESULT_RETURN, R178: A long result returns, completing await slots and ending parks that waited for it. -/
  | longResultReturn (ctx : Ctx) (ix : Nat)
  /-- MEMBER_LANES_END, R42: END's park ends and the sub-group's lanes end, freeing the coach when all have ended. -/
  | memberLanesEnd (ctx : Ctx) (sub : Nat)
  /-- HANDLER_ENTRY, R319: After long results return, the context is saved, the frame written and the handler sub-group started. -/
  | handlerEntry (team : Nat) (coach : Nat)
  /-- OVERRUN, R50: A node's class bound expires; its coaches stop at the next trailer and it completes with OVERRUN. -/
  | overrun (node : Nat)
  /-- COPY_COMPLETION, R257: A copy's effects are performed and its tag bit becomes 1. -/
  | copyCompletion (req : Nat)
  /-- GSJOB_COMPLETION, R261: A gather-scatter job completes and sets its tag. -/
  | gsjobCompletion (req : Nat)
  /-- DRAY_REQUEST_COMPLETION, R344: A dray request's sectors are written and its completion counts toward its tag. -/
  | drayRequestCompletion (req : Nat) (chan : Nat)
  /-- MVSTACK_COMPLETION, R288: The bank-multiplier path returns Y and sets the tag. -/
  | mvstackCompletion (req : Nat)
  /-- MATRIX_JOB_COMPLETION, R282: A matrix-unit job completes; the next job starts and waiting MWAITs may end. -/
  | matrixJobCompletion (core : Nat)
  /-- MATRIX_RENDEZVOUS, R281: 4,096 cycles pass without all participants; the rendezvous is cancelled and each arrived coach traps. -/
  | matrixRendezvous (team : Nat) (rdv : Nat)
  /-- REMOTE_FUNCTION_START, R353: An executor starts the next admitted call in admission order. -/
  | remoteFunctionStart (ex : Nat)
  /-- REPLY, R267: A remote function's reply arrives at the caller's core and ends an RCWAIT park. -/
  | reply (call : Nat)
  /-- CALL_LOST, R267: A call's class deadline passes without a reply; RCWAIT returns LOST. -/
  | callLost (call : Nat)
  /-- PROBE_ANSWER, R268: An executor's answer to a probe arrives and the core records the disposition. -/
  | probeAnswer (call : Nat)
  /-- SWAP_REQUEST, R95: A page swap is requested and stays pending while snapshots are held. -/
  | swapRequest (oid : Nat) (va : Nat) (pa : Nat)
  /-- SWAP_BEGIN, R95: No snapshot remains; translations are held, fence and shootdown run, data moves and the new leaf installs. -/
  | swapBegin (swap : Nat)
  /-- QTAIL_WRITE, R293: A host write of QTAIL notifies the queue or is ignored with ERR set. -/
  | qtailWrite (q : Nat) (v : BitVec 32)
  /-- QUEUE_ENABLE, R292: Writing QCFG.EN from 0 to 1 starts fetching at the first unfetched record. -/
  | queueEnable (q : Nat) (v : BitVec 32)
  /-- QUEUE_DISABLE, R292: Writing QCFG.EN to 0 stops fetching at once; fetched nodes run on. -/
  | queueDisable (q : Nat) (v : BitVec 32)
  /-- QCFG_ERR_CLEAR, R291: Writing 1 to QCFG.ERR clears it. -/
  | qcfgErrClear (q : Nat) (v : BitVec 32)
  /-- REGISTER_WRITE, R13: A write to a register without behaviour of its own stores RW fields and ignores others. -/
  | registerWrite (link : Link) (off : Nat) (size : Nat) (v : BitVec 64)
  /-- RECORD_FETCH, R297: The device fetches node records round-robin into the ready pool when room exists. -/
  | recordFetch (x : Fetch)
  /-- DZITUM_TRANSLATION, R384: The translator lowers a Celud object; on completion the node may become ready or is invalid. -/
  | dzitumTranslation (node : Nat) (code : List (BitVec 32)) (keep : Keep)
  /-- NODE_ADMISSION, R298: At a dispatch opportunity the highest-priority ready node is admitted with reservations or refused with a hint. -/
  | nodeAdmission (node : Nat)
  /-- TEAM_LAUNCH, R30: A team of an admitted node is placed and its coaches start at the entry point. -/
  | teamLaunch (node : Nat) (cores : List Nat) (areas : List Nat)
  /-- NODE_COMPLETION, R299: A node's teams or jobs end; completion release, status word and PROG advance. -/
  | nodeCompletion (node : Nat)
  /-- SLICE_EXPIRY, R308: A team's effective slice expires while another team waits for its core. -/
  | sliceExpiry (team : Nat)
  /-- TEAM_RESUME, R326: A saved team is restored and resumes, possibly on another core. -/
  | teamResume (team : Nat) (core : Nat)
  /-- STOP_ORDER, R306: A pre-emption stop order for a team is sent to its engines. -/
  | stopOrder (team : Nat)
  /-- ENGINE_ACKNOWLEDGEMENT, R306: An engine stops at its unit and acknowledges; the last acknowledgement completes the stop and saves the team. -/
  | engineAcknowledgement (team : Nat) (engine : EngineClass)
  /-- EVICTION, R310: The firmware evicts a team, stopping every engine; requests lose their bounds. -/
  | eviction (team : Nat)
  /-- QUEUE_SWITCH_OUT, R311: A queue's admitted nodes are evicted and its state saved. -/
  | queueSwitchOut (q : Nat)
  /-- QUEUE_RESUME, R311: A switched-out queue resumes its nodes and fetching. -/
  | queueResume (q : Nat)
  /-- OPEN_COMMAND, R334: The channel opens a row, closing any open row of the bank. -/
  | openCommand (chan : Nat)
  /-- READ_COMMAND, R334: The channel places row sectors into the data queue once it has room. -/
  | readCommand (chan : Nat)
  /-- WBACK_COMMAND, R334: The channel writes a released bank accumulator to a row. -/
  | wbackCommand (chan : Nat)
  /-- CLOSE_COMMAND, R334: The channel closes a row, applying pending reduction packets. -/
  | closeCommand (chan : Nat)
  /-- ARBITRATION_WINDOW, R341: At a row boundary the kernel suspends, held rows close and waiting ordinary accesses are served. -/
  | arbitrationWindow (chan : Nat)
  /-- WINDOW_EXPIRY, R341: After 64 ns the window reopens the held rows and the kernel resumes. -/
  | windowExpiry (chan : Nat)
  /-- DRAY_KERNEL_END, R338: Both threads have ended and the queue is empty; open rows close. -/
  | drayKernelEnd (chan : Nat)
  /-- REDUCTION_PACKET, R345: A fabric reduction packet is applied, buffered for a held row, or refused. -/
  | reductionPacket (oid : Nat) (pa : Nat) (fmt : Nat) (op : Nat) (elems : List (BitVec 8))
  /-- CLOCK_RATIO_CHANGE, R346: A stack's clock ratio changes at a drain point. -/
  | clockRatioChange (stack : Nat) (num : Nat) (den : Nat)
  /-- SHOOT, R392: Writing SHOOT.GO shoots down an owner's TLB entries for a page. -/
  | shoot (oid : Nat) (vpn : Nat)
  /-- REPTOK, R392: Writing REPTOK performs a token replay for an owner. -/
  | reptok (oid : Nat) (token : BitVec 32)
  /-- PWRCAP_WRITE, R403: Writing PWRCAP clamps the cap and rescales admission capacities. -/
  | pwrcapWrite (watts : BitVec 16) (caps : List (Nat × Nat))
  /-- APCTL_ERR_CLEAR, R392: Writing 1 to APCTL.ERR clears it. -/
  | apctlErrClear
  /-- APERTURE_ACCESS, R391: A host access in the GLOBAL aperture is translated under the aperture OID. -/
  | apertureAccess (store : Bool) (off : Nat) (size : Nat) (v : BitVec 64)
  /-- FABRIC_REQUEST, R394: A copy or call arriving over the fabric is reserved and run. -/
  | fabricRequest (req : FabricReq)
  /-- UCIE_RETRAIN, R389: A UCIe module retrains or fails training; capacity and sideband adjust. -/
  | ucieRetrain (m : Nat) (trained : Bool)
  /-- LANE_RETRAIN, R393: A fabric lane retrains, counted as a hardware fault. -/
  | laneRetrain (lane : Nat)
  /-- SOFT_ERROR, R321: An uncorrectable soft error in read data stops the node with UNHANDLED. -/
  | softError (region : Nat) (corrected : Bool) (node : Nat)
  /-- POWER_ON, R397: The boot ROM verifies and measures the images or enters recovery. -/
  | powerOn
  /-- ATTEST, R399: Returns a signed attestation report for a nonce. -/
  | attest
  /-- GETEK, R398: Returns the signed ML-KEM encapsulation key. -/
  | getek
  /-- LOADKEY, R398: Unwraps and loads an owner's XTS key. -/
  | loadkey
  /-- WITHDRAW, R400: Evicts an owner's teams, aborts unstarted calls and erases its key. -/
  | withdraw
  /-- TRIP, R404: Over-temperature or over-power stops every engine and enters recovery. -/
  | trip
  /-- LIFETIME_LOG_WRITE, R402: The lifetime counters are written to MRAM at least once per second. -/
  | lifetimeLogWrite
  /-- HELD_TRANSLATION_RELEASE, R95: The swap's data move ends, the new leaf is installed and the held translations of the page are released to the new location. -/
  | heldTranslationRelease (swap : Nat)
  /-- GRANULE_ASSIGNMENT, R79: The coachwork firmware assigns a 1 MiB CHIP granule to an owner identifier. -/
  | granuleAssignment (granule : Nat) (oid : Nat)
  /-- TRANSLATION_ROOT_WRITE, R84: The axle firmware writes the translation root of an owner identifier. -/
  | translationRootWrite (oid : Nat) (pa : Nat)
  /-- QUEUE_OID_PMAX_SET, R291: The coachwork firmware sets a queue's QCFG.OID and QCFG.PMAX. -/
  | queueOidPmaxSet (q : Nat) (oid : Nat) (pmax : Nat)
  /-- FABRIC_RELAY_REQUEST, R395: The coachwork firmware's fabric relay issues an outbound copy, reduction packet or call to a peer on behalf of an owner. -/
  | fabricRelayRequest (r : RelayReq)
  /-- HANDLER_IMAGE_LOAD, R397: A handler image is loaded after boot and its digest extends MEAS3. -/
  | handlerImageLoad (oid : Nat) (vbase : Nat) (len : Nat) (pool : Nat)
  /-- POWER_LOSS, R402: Package power is lost, and lifetime counts not yet written to MRAM are lost. -/
  | powerLoss
  /-- DROOP_EVENT, R402: A supply droop below nominal occurs and its lifetime counter bin is incremented. -/
  | droopEvent (mv : Nat)
deriving DecidableEq, Repr, Inhabited

end Sys2Proof
end

