-- ==== Sys2Proof/WellFormed.lean ====
section
/-!
DEFINITION. Which instructions are free of reserved codes: the parts of R174 that the word alone decides.
A word that fails here is not decoded and traps ILLEGAL. The register uses that depend on the allotment of the coach or
on its team (R170, R277, R358) are checked by the meanings.
-/

namespace Sys2Proof

/-- A register field that names an even register (R170). -/
def evenReg {n : Nat} (r : BitVec n) : Bool := r.toNat % 2 == 0

/-- A field that names S0, S8, … or S56 (R255, R278). -/
def sBlock (b : BitVec 8) : Bool := decide (192 ≤ b.toNat) && b.toNat % 8 == 0

/-- A field that names an even S register (R262). -/
def sEven (b : BitVec 8) : Bool := decide (192 ≤ b.toNat) && b.toNat % 2 == 0

/-- A Celud register number; 4095 means none (R380). -/
def celudReg (r : BitVec 12) : Bool := r != 4095

/-- The scopes that an ordering Celud word may name: 0b001 to 0b110 (R381). -/
def celudScope (s : BitVec 3) : Bool := s != 0 && s != 7

/-- The last register source of a Celud word: 4095 exactly when a literal replaces it (R381). -/
def celudLast (lit : Option (BitVec 64)) (r : BitVec 12) : Bool := if lit.isSome then r == 4095 else r != 4095

/-- No field of the instruction holds a code that the manual reserves (R174, R381). -/
def Instr.wellFormed : Instr → Bool
  | .uadd _ _ _ _ => true
  | .usub _ _ _ _ => true
  | .umul _ _ _ _ => true
  | .umulh _ _ _ _ => true
  | .umulhu _ _ _ _ => true
  | .udiv _ _ _ _ => true
  | .urem _ _ _ _ => true
  | .uand _ _ _ _ => true
  | .uor _ _ _ _ => true
  | .uxor _ _ _ _ => true
  | .ushl _ _ _ _ => true
  | .ushr _ _ _ _ => true
  | .usar _ _ _ _ => true
  | .umin _ _ _ _ => true
  | .umax _ _ _ _ => true
  | .uceq _ _ _ _ => true
  | .uclt _ _ _ _ => true
  | .ucltu _ _ _ _ => true
  | .usel _ _ _ _ => true
  | .uaddp _ _ _ _ => true
  | .uaddImm _ _ _ _ => true
  | .uandImm _ _ _ _ => true
  | .uorImm _ _ _ _ => true
  | .ushlImm _ _ _ _ => true
  | .ushrImm _ _ _ _ => true
  | .usarImm _ _ _ _ => true
  | .uaddpi _ _ _ _ => true
  | .umovi _ _ _ => true
  | .bz _ _ _ => true
  | .bnz _ _ _ => true
  | .srrd _ _ _ => true
  | .srwr _ _ _ => true
  | .bra _ _ => true
  | .call _ _ => true
  | .callr _ _ => true
  | .brr _ _ => true
  | .ret _ _ => true
  | .endLanes _ => true
  | .trap _ _ _ => true
  | .rfe _ => true
  | .replayToken _ _ => true
  | .replayPage _ _ => true
  | .icinv _ sc => sc != 7
  | .fence _ kind sc => kind != 0 && sc != 7
  | .opfence _ => true
  | .waitany _ _ _ => true
  | .waitall _ _ => true
  | .ffrdy _ _ _ => true
  | .rcwait _ _ k => decide (k.toNat ≤ 55)
  | .rcprobe _ _ k => decide (k.toNat ≤ 55)
  | .exrd _ _ => true
  | .exwr _ _ => true
  | .exld _ _ => true
  | .exsv _ _ => true
  | .mand _ _ _ _ => true
  | .mor _ _ _ _ => true
  | .mxor _ _ _ _ => true
  | .mnot _ _ _ => true
  | .mrd _ _ _ => true
  | .mwr _ _ _ => true
  | .mpop _ _ _ => true
  | .bararv _ reg ci cnt _ => if ci == 1 then reg == 0 else cnt == 0
  | .barsync _ reg ci cnt _ => if ci == 1 then reg == 0 else cnt == 0
  | .uldb _ _ a _ abs => abs == 0 || a == 0
  | .uldh _ _ a _ abs => abs == 0 || a == 0
  | .uldw _ _ a _ abs => abs == 0 || a == 0
  | .uldd _ _ a _ abs => abs == 0 || a == 0
  | .uldq _ _ a _ abs => abs == 0 || a == 0
  | .ustb _ _ a _ abs => abs == 0 || a == 0
  | .usth _ _ a _ abs => abs == 0 || a == 0
  | .ustw _ _ a _ abs => abs == 0 || a == 0
  | .ustd _ _ a _ abs => abs == 0 || a == 0
  | .ustq _ _ a _ abs => abs == 0 || a == 0
  | .uldwAcq _ _ _ _ sc => sc != 7
  | .ulddAcq _ _ _ _ sc => sc != 7
  | .ustwRel _ _ _ _ sc => sc != 7
  | .ustdRel _ _ _ _ sc => sc != 7
  | .uldcw _ _ _ _ sc => sc != 7
  | .uldcd _ _ _ _ sc => sc != 7
  | .uaadd _ _ _ _ ord sc => (ord != 0 || sc == 0) && sc != 7
  | .uamin _ _ _ _ ord sc => (ord != 0 || sc == 0) && sc != 7
  | .uamax _ _ _ _ ord sc => (ord != 0 || sc == 0) && sc != 7
  | .uaand _ _ _ _ ord sc => (ord != 0 || sc == 0) && sc != 7
  | .uaor _ _ _ _ ord sc => (ord != 0 || sc == 0) && sc != 7
  | .uaxor _ _ _ _ ord sc => (ord != 0 || sc == 0) && sc != 7
  | .uaxchg _ _ _ _ ord sc => (ord != 0 || sc == 0) && sc != 7
  | .uacas _ d _ _ ord sc => (ord != 0 || sc == 0) && sc != 7 && evenReg d
  | .copy _ b sl dl xf _ => sBlock b && decide (sl.toNat ≤ 4) && decide (dl.toNat ≤ 4) && xf != 7
  | .gsjob _ b _ iw _ dl _ => sBlock b && decide (iw.toNat < 2) && decide (dl.toNat < 4)
  | .rcall _ b narg nret sc => sEven b && decide (narg.toNat ≤ 16) && decide (nret.toNat ≤ 8) && sc != 7 && decide (b.toNat - 192 + 3 + narg.toNat ≤ 63)
  | .mma _ b _ _ _ _ => sBlock b
  | .mloop _ b _ _ => sBlock b
  | .mwait _ => true
  | .mdrain _ b _ _ _ => sBlock b
  | .mvstack _ b => sBlock b
  | .quant2 _ b => sBlock b
  | .tidset _ _ _ _ => true
  | .tidget _ _ _ _ => true
  | .immx _ => true
  | .runend _ _ => true
  | .iadd _ _ _ _ => true
  | .isub _ _ _ _ => true
  | .imul _ _ _ _ => true
  | .imulh _ _ _ _ => true
  | .imulhu _ _ _ _ => true
  | .imin _ _ _ _ => true
  | .imax _ _ _ _ => true
  | .iand _ _ _ _ => true
  | .ior _ _ _ _ => true
  | .ixor _ _ _ _ => true
  | .ishl _ _ _ _ => true
  | .ishr _ _ _ _ => true
  | .isar _ _ _ _ => true
  | .iceq _ _ _ _ => true
  | .iclt _ _ _ _ => true
  | .icltu _ _ _ _ => true
  | .isel _ _ _ _ => true
  | .p8add _ _ _ _ => true
  | .p8sub _ _ _ _ => true
  | .p8max _ _ _ _ => true
  | .p8min _ _ _ _ => true
  | .p16add _ _ _ _ => true
  | .p16sub _ _ _ _ => true
  | .p16mul _ _ _ _ => true
  | .fadd _ _ _ _ => true
  | .fsub _ _ _ _ => true
  | .fmul _ _ _ _ => true
  | .ffma _ _ _ _ => true
  | .fmin _ _ _ _ => true
  | .fmax _ _ _ _ => true
  | .fceq _ _ _ _ => true
  | .fclt _ _ _ _ => true
  | .fcle _ _ _ _ => true
  | .hadd2 _ _ _ _ => true
  | .hfma2 _ _ _ _ => true
  | .badd2 _ _ _ _ => true
  | .bfma2 _ _ _ _ => true
  | .iaddImm _ _ _ _ => true
  | .iandImm _ _ _ _ => true
  | .iorImm _ _ _ _ => true
  | .ishlImm _ _ _ _ => true
  | .ishrImm _ _ _ _ => true
  | .isarImm _ _ _ _ => true
  | .p8shl _ _ _ _ => true
  | .p8shr _ _ _ _ => true
  | .p8sar _ _ _ _ => true
  | .p16shl _ _ _ _ => true
  | .p16shr _ _ _ _ => true
  | .p16sar _ _ _ _ => true
  | .exp2 _ _ _ => true
  | .log2 _ _ _ => true
  | .rcp _ _ _ => true
  | .rsqrt _ _ _ => true
  | .sin _ _ _ => true
  | .cos _ _ _ => true
  | .cvt _ _ _ _ _ _ => true
  | .cvts _ _ _ _ _ _ => true
  | .vrd _ _ _ => true
  | .vwr _ _ _ => true
  | .lpush _ _ _ _ _ => true
  | .lpull _ _ _ _ => true
  | .imovi _ _ _ => true
  | .bvz _ _ _ => true
  | .bvnz _ _ _ => true
  | .ldb _ _ a _ abs => abs == 0 || a == 0
  | .ldh _ _ a _ abs => abs == 0 || a == 0
  | .ldw _ _ a _ abs => abs == 0 || a == 0
  | .ldd _ _ a _ abs => abs == 0 || a == 0
  | .ldq _ _ a _ abs => abs == 0 || a == 0
  | .stb _ _ a _ abs => abs == 0 || a == 0
  | .sth _ _ a _ abs => abs == 0 || a == 0
  | .stw _ _ a _ abs => abs == 0 || a == 0
  | .std _ _ a _ abs => abs == 0 || a == 0
  | .stq _ _ a _ abs => abs == 0 || a == 0
  | .ldwAcq _ _ _ _ sc => sc != 7
  | .lddAcq _ _ _ _ sc => sc != 7
  | .stwRel _ _ _ _ sc => sc != 7
  | .stdRel _ _ _ _ sc => sc != 7
  | .ldcw _ _ _ _ sc => sc != 7
  | .ldcd _ _ _ _ sc => sc != 7
  | .aadd _ _ _ _ ord sc => (ord != 0 || sc == 0) && sc != 7
  | .amin _ _ _ _ ord sc => (ord != 0 || sc == 0) && sc != 7
  | .amax _ _ _ _ ord sc => (ord != 0 || sc == 0) && sc != 7
  | .aand _ _ _ _ ord sc => (ord != 0 || sc == 0) && sc != 7
  | .aor _ _ _ _ ord sc => (ord != 0 || sc == 0) && sc != 7
  | .axor _ _ _ _ ord sc => (ord != 0 || sc == 0) && sc != 7
  | .axchg _ _ _ _ ord sc => (ord != 0 || sc == 0) && sc != 7
  | .acas _ d _ _ ord sc => (ord != 0 || sc == 0) && sc != 7 && evenReg d
  | .pshift _ _ _ sk _ fl _ => fl == 1 || sk == 0
  | .prot _ _ _ _ _ => true
  | .pspread _ _ _ _ _ => true
  | .pfold _ _ _ op _ => op != 3
  | .prefold _ _ _ => true
  | .padd _ _ _ _ => true
  | .psub _ _ _ _ => true
  | .pmul _ _ _ _ => true
  | .pmax _ _ _ _ => true
  | .pmin _ _ _ _ => true
  | .pdset _ _ x => sEven x && decide (x.toNat ≤ 246)
  | .pdget _ _ _ => true
  | .envclr _ _ r given => given == 1 || r == 0
  | .envins _ _ _ => true
  | .envsum _ _ _ _ => true
  | .envmax _ _ _ _ => true
  | .envconv _ _ _ _ => true
  | .envleg _ _ _ => true
  | .enveval _ _ _ _ => true
  | .envld _ wh _ _ => wh != 4
  | .envst _ wh _ _ => wh != 4
  | .envsimp _ _ _ => true
  | .smxacc _ _ _ _ => true
  | .smxfin _ _ _ => true
  | .aend => true
  | .jmovi _ _ => true
  | .jaddi _ _ _ => true
  | .jadd _ _ _ => true
  | .jloop _ _ => true
  | .drayOpen _ => true
  | .drayRead _ _ _ => true
  | .drayWback _ _ _ _ => true
  | .drayClose _ => true
  | .xend => true
  | .xpop _ _ => true
  | .xadd _ _ _ _ => true
  | .xmul _ _ _ _ => true
  | .xfma _ _ _ _ => true
  | .xmax _ _ _ _ => true
  | .xmin _ _ _ _ => true
  | .xset _ _ => true
  | .xacc _ _ => true
  | .xrel _ => true
  | .xcmovi _ _ => true
  | .xloop _ _ => true
  | .celudDecl d ty => celudReg d && decide (ty.toNat < 6)
  | .celudTid d => celudReg d
  | .celudNthr d => celudReg d
  | .celudMov lit d a => celudReg d && celudLast lit a
  | .celudAdd lit d a b => celudReg d && celudReg a && celudLast lit b
  | .celudSub lit d a b => celudReg d && celudReg a && celudLast lit b
  | .celudMul lit d a b => celudReg d && celudReg a && celudLast lit b
  | .celudMulh lit d a b => celudReg d && celudReg a && celudLast lit b
  | .celudMin lit d a b => celudReg d && celudReg a && celudLast lit b
  | .celudMax lit d a b => celudReg d && celudReg a && celudLast lit b
  | .celudAnd lit d a b => celudReg d && celudReg a && celudLast lit b
  | .celudOr lit d a b => celudReg d && celudReg a && celudLast lit b
  | .celudXor lit d a b => celudReg d && celudReg a && celudLast lit b
  | .celudShl lit d a b => celudReg d && celudReg a && celudLast lit b
  | .celudShr lit d a b => celudReg d && celudReg a && celudLast lit b
  | .celudSar lit d a b => celudReg d && celudReg a && celudLast lit b
  | .celudCeq lit d a b => celudReg d && celudReg a && celudLast lit b
  | .celudClt lit d a b => celudReg d && celudReg a && celudLast lit b
  | .celudCltu lit d a b => celudReg d && celudReg a && celudLast lit b
  | .celudSel lit d a b c => celudReg d && celudReg a && celudLast lit b && celudReg c
  | .celudAdd64 lit d a b => celudReg d && celudReg a && celudLast lit b
  | .celudFadd lit d a b => celudReg d && celudReg a && celudLast lit b
  | .celudFsub lit d a b => celudReg d && celudReg a && celudLast lit b
  | .celudFmul lit d a b => celudReg d && celudReg a && celudLast lit b
  | .celudFfma lit d a b => celudReg d && celudReg a && celudLast lit b
  | .celudFmin lit d a b => celudReg d && celudReg a && celudLast lit b
  | .celudFmax lit d a b => celudReg d && celudReg a && celudLast lit b
  | .celudFceq lit d a b => celudReg d && celudReg a && celudLast lit b
  | .celudFclt lit d a b => celudReg d && celudReg a && celudLast lit b
  | .celudFcle lit d a b => celudReg d && celudReg a && celudLast lit b
  | .celudSfn lit d a fn => decide (fn.toNat < 6) && celudReg d && celudLast lit a
  | .celudCvt lit d a _ _ => celudReg d && celudLast lit a
  | .celudHadd2 lit d a b => celudReg d && celudReg a && celudLast lit b
  | .celudHfma2 lit d a b => celudReg d && celudReg a && celudLast lit b
  | .celudBadd2 lit d a b => celudReg d && celudReg a && celudLast lit b
  | .celudBfma2 lit d a b => celudReg d && celudReg a && celudLast lit b
  | .celudDot2 lit d a b => celudReg d && celudReg a && celudLast lit b
  | .celudLd sc ord _ _ d a space _ _ => (if ord == 0 then sc == 0 else celudScope sc) && decide (space.toNat ≤ 4) && decide (ord.toNat ≤ 1) && celudReg d && celudReg a
  | .celudSt sc ord _ _ a b space _ _ => (if ord == 0 then sc == 0 else celudScope sc) && decide (space.toNat ≤ 4) && (ord == 0 || ord == 2) && celudReg a && celudReg b
  | .celudLdc sc _ _ d a space size _ => celudScope sc && decide (space.toNat ≤ 4) && decide (2 ≤ size.toNat) && celudReg d && celudReg a
  | .celudAtom sc ord _ _ d a b space _ _ => (if ord == 0 then sc == 0 else celudScope sc) && decide (space.toNat ≤ 4) && celudReg d && celudReg a && celudReg b
  | .celudFence sc kind => kind != 0 && celudScope sc
  | .celudBar => true
  | .celudJmp _ => true
  | .celudBrz a _ => celudReg a
  | .celudBrnz a _ => celudReg a
  | .celudEnd => true
  | .issueDecision _ => true
  | .coachOverdue _ _ => true
  | .subgroupOverdue _ _ _ => true
  | .longResultReturn _ _ => true
  | .memberLanesEnd _ _ => true
  | .handlerEntry _ _ => true
  | .overrun _ => true
  | .copyCompletion _ => true
  | .gsjobCompletion _ => true
  | .drayRequestCompletion _ _ => true
  | .mvstackCompletion _ => true
  | .matrixJobCompletion _ => true
  | .matrixRendezvous _ _ => true
  | .remoteFunctionStart _ => true
  | .reply _ => true
  | .callLost _ => true
  | .probeAnswer _ => true
  | .swapRequest _ _ _ => true
  | .swapBegin _ => true
  | .qtailWrite _ _ => true
  | .queueEnable _ _ => true
  | .queueDisable _ _ => true
  | .qcfgErrClear _ _ => true
  | .registerWrite _ _ _ _ => true
  | .recordFetch _ => true
  | .dzitumTranslation _ _ _ => true
  | .nodeAdmission _ => true
  | .teamLaunch _ _ _ => true
  | .nodeCompletion _ => true
  | .sliceExpiry _ => true
  | .teamResume _ _ => true
  | .stopOrder _ => true
  | .engineAcknowledgement _ _ => true
  | .eviction _ => true
  | .queueSwitchOut _ => true
  | .queueResume _ => true
  | .openCommand _ => true
  | .readCommand _ => true
  | .wbackCommand _ => true
  | .closeCommand _ => true
  | .arbitrationWindow _ => true
  | .windowExpiry _ => true
  | .drayKernelEnd _ => true
  | .reductionPacket _ _ _ _ _ => true
  | .clockRatioChange _ _ _ => true
  | .shoot _ _ => true
  | .reptok _ _ => true
  | .pwrcapWrite _ _ => true
  | .apctlErrClear => true
  | .apertureAccess _ _ _ _ => true
  | .fabricRequest _ => true
  | .ucieRetrain _ _ => true
  | .laneRetrain _ => true
  | .softError _ _ _ => true
  | .powerOn => true
  | .attest => true
  | .getek => true
  | .loadkey => true
  | .withdraw => true
  | .trip => true
  | .lifetimeLogWrite => true
  | .heldTranslationRelease _ => true
  | .granuleAssignment _ _ => true
  | .translationRootWrite _ _ => true
  | .queueOidPmaxSet _ _ _ => true
  | .fabricRelayRequest _ => true
  | .handlerImageLoad _ _ _ _ => true
  | .powerLoss => true
  | .droopEvent _ => true

end Sys2Proof
end

