-- ==== Sys2Proof/Decode.lean ====
section
/-!
DEFINITION. Decoding of native words (R166 to R187), dray words (R333 to R336) and Celud words (R381, R382), total on
every bit pattern, and the encoders written from the same tables.
Fields are read from the number of the word by `fld` and `fb`; an encoder packs the same fields from bit 31 down.
-/

namespace Sys2Proof

/-- The group of major 0x1F (R186, R187). -/
def decodeCtl (sw : Bool) (n : Nat) : Option Instr :=
  if fld n 18 6 == 0 then some (.bra sw (fb n 0 18))
  else if fld n 18 6 == 1 then some (.call sw (fb n 0 18))
  else if fld n 18 6 == 2 && fld n 0 10 == 0 then some (.callr sw (fb n 10 8))
  else if fld n 18 6 == 3 && fld n 0 10 == 0 then some (.brr sw (fb n 10 8))
  else if fld n 18 6 == 4 && fld n 0 10 == 0 then some (.ret sw (fb n 10 8))
  else if fld n 18 6 == 5 && fld n 0 18 == 0 then some (.endLanes sw)
  else if fld n 18 6 == 6 then some (.trap sw (fb n 10 8) (fb n 0 10))
  else if fld n 18 6 == 7 && fld n 0 18 == 0 then some (.rfe sw)
  else if fld n 18 6 == 8 && fld n 0 10 == 0 then some (.replayToken sw (fb n 10 8))
  else if fld n 18 6 == 8 && fld n 0 10 == 1 then some (.replayPage sw (fb n 10 8))
  else if fld n 18 6 == 9 && fld n 3 15 == 0 then some (.icinv sw (fb n 0 3))
  else if fld n 18 6 == 10 && fld n 5 13 == 0 then some (.fence sw (fb n 3 2) (fb n 0 3))
  else if fld n 18 6 == 11 && fld n 0 18 == 0 then some (.opfence sw)
  else if fld n 18 6 == 12 && fld n 6 4 == 0 then some (.waitany sw (fb n 10 8) (fb n 0 6))
  else if fld n 18 6 == 13 && fld n 0 10 == 0 then some (.waitall sw (fb n 10 8))
  else if fld n 18 6 == 14 && fld n 6 4 == 0 then some (.ffrdy sw (fb n 10 8) (fb n 0 6))
  else if fld n 18 6 == 15 && fld n 6 4 == 0 then some (.rcwait sw (fb n 10 8) (fb n 0 6))
  else if fld n 18 6 == 16 && fld n 6 4 == 0 then some (.rcprobe sw (fb n 10 8) (fb n 0 6))
  else none

/-- The group of major 0x20 (R186, R187). -/
def decodeMsk (sw : Bool) (n : Nat) : Option Instr :=
  if fld n 18 6 == 0 && fld n 0 10 == 0 then some (.exrd sw (fb n 10 8))
  else if fld n 18 6 == 1 && fld n 0 10 == 0 then some (.exwr sw (fb n 10 8))
  else if fld n 18 6 == 2 && fld n 10 8 == 0 && fld n 0 7 == 0 then some (.exld sw (fb n 7 3))
  else if fld n 18 6 == 3 && fld n 10 8 == 0 && fld n 0 7 == 0 then some (.exsv sw (fb n 7 3))
  else if fld n 18 6 == 4 && fld n 10 8 == 0 && fld n 0 1 == 0 then some (.mand sw (fb n 7 3) (fb n 4 3) (fb n 1 3))
  else if fld n 18 6 == 5 && fld n 10 8 == 0 && fld n 0 1 == 0 then some (.mor sw (fb n 7 3) (fb n 4 3) (fb n 1 3))
  else if fld n 18 6 == 6 && fld n 10 8 == 0 && fld n 0 1 == 0 then some (.mxor sw (fb n 7 3) (fb n 4 3) (fb n 1 3))
  else if fld n 18 6 == 7 && fld n 10 8 == 0 && fld n 0 4 == 0 then some (.mnot sw (fb n 7 3) (fb n 4 3))
  else if fld n 18 6 == 8 && fld n 0 7 == 0 then some (.mrd sw (fb n 10 8) (fb n 7 3))
  else if fld n 18 6 == 9 && fld n 0 7 == 0 then some (.mwr sw (fb n 10 8) (fb n 7 3))
  else if fld n 18 6 == 10 && fld n 0 7 == 0 then some (.mpop sw (fb n 10 8) (fb n 7 3))
  else none

/-- The group of major 0x22 (R186, R187). -/
def decodeUls (sw : Bool) (n : Nat) : Option Instr :=
  if fld n 4 1 == 0 && fld n 0 3 == 0 then some (.uldb sw (fb n 16 8) (fb n 8 8) (fb n 5 3) (fb n 3 1))
  else if fld n 4 1 == 0 && fld n 0 3 == 1 then some (.uldh sw (fb n 16 8) (fb n 8 8) (fb n 5 3) (fb n 3 1))
  else if fld n 4 1 == 0 && fld n 0 3 == 2 then some (.uldw sw (fb n 16 8) (fb n 8 8) (fb n 5 3) (fb n 3 1))
  else if fld n 4 1 == 0 && fld n 0 3 == 3 then some (.uldd sw (fb n 16 8) (fb n 8 8) (fb n 5 3) (fb n 3 1))
  else if fld n 4 1 == 0 && fld n 0 3 == 4 then some (.uldq sw (fb n 16 8) (fb n 8 8) (fb n 5 3) (fb n 3 1))
  else if fld n 4 1 == 1 && fld n 0 3 == 0 then some (.ustb sw (fb n 16 8) (fb n 8 8) (fb n 5 3) (fb n 3 1))
  else if fld n 4 1 == 1 && fld n 0 3 == 1 then some (.usth sw (fb n 16 8) (fb n 8 8) (fb n 5 3) (fb n 3 1))
  else if fld n 4 1 == 1 && fld n 0 3 == 2 then some (.ustw sw (fb n 16 8) (fb n 8 8) (fb n 5 3) (fb n 3 1))
  else if fld n 4 1 == 1 && fld n 0 3 == 3 then some (.ustd sw (fb n 16 8) (fb n 8 8) (fb n 5 3) (fb n 3 1))
  else if fld n 4 1 == 1 && fld n 0 3 == 4 then some (.ustq sw (fb n 16 8) (fb n 8 8) (fb n 5 3) (fb n 3 1))
  else none

/-- The group of major 0x25 (R186, R187). -/
def decodeUatom (sw : Bool) (n : Nat) : Option Instr :=
  if fld n 8 4 == 0 then some (.uaadd sw (fb n 18 6) (fb n 12 6) (fb n 5 3) (fb n 3 2) (fb n 0 3))
  else if fld n 8 4 == 2 then some (.uamin sw (fb n 18 6) (fb n 12 6) (fb n 5 3) (fb n 3 2) (fb n 0 3))
  else if fld n 8 4 == 4 then some (.uamax sw (fb n 18 6) (fb n 12 6) (fb n 5 3) (fb n 3 2) (fb n 0 3))
  else if fld n 8 4 == 6 then some (.uaand sw (fb n 18 6) (fb n 12 6) (fb n 5 3) (fb n 3 2) (fb n 0 3))
  else if fld n 8 4 == 8 then some (.uaor sw (fb n 18 6) (fb n 12 6) (fb n 5 3) (fb n 3 2) (fb n 0 3))
  else if fld n 8 4 == 10 then some (.uaxor sw (fb n 18 6) (fb n 12 6) (fb n 5 3) (fb n 3 2) (fb n 0 3))
  else if fld n 8 4 == 12 then some (.uaxchg sw (fb n 18 6) (fb n 12 6) (fb n 5 3) (fb n 3 2) (fb n 0 3))
  else if fld n 8 4 == 14 then some (.uacas sw (fb n 18 6) (fb n 12 6) (fb n 5 3) (fb n 3 2) (fb n 0 3))
  else none

/-- The group of major 0x29 (R186, R187). -/
def decodeMatx (sw : Bool) (n : Nat) : Option Instr :=
  if fld n 4 4 == 0 then some (.mma sw (fb n 16 8) (fb n 8 8) (fb n 3 1) (fb n 2 1) (fb n 0 2))
  else if fld n 3 13 == 2 then some (.mloop sw (fb n 16 8) (fb n 2 1) (fb n 0 2))
  else if fld n 0 24 == 32 then some (.mwait sw)
  else if fld n 4 12 == 3 then some (.mdrain sw (fb n 16 8) (fb n 3 1) (fb n 2 1) (fb n 0 2))
  else if fld n 0 16 == 64 then some (.mvstack sw (fb n 16 8))
  else if fld n 0 16 == 80 then some (.quant2 sw (fb n 16 8))
  else if fld n 4 4 == 6 then some (.tidset sw (fb n 16 8) (fb n 8 8) (fb n 0 4))
  else if fld n 4 4 == 7 then some (.tidget sw (fb n 16 8) (fb n 8 8) (fb n 0 4))
  else none

/-- The major map of the uniform pipe (R184). -/
def decodeUniform (sw : Bool) (n : Nat) : Nat → Option Instr
  | 0x01 => some (.uadd sw (fb n 16 8) (fb n 8 8) (fb n 0 8))
  | 0x02 => some (.usub sw (fb n 16 8) (fb n 8 8) (fb n 0 8))
  | 0x03 => some (.umul sw (fb n 16 8) (fb n 8 8) (fb n 0 8))
  | 0x04 => some (.umulh sw (fb n 16 8) (fb n 8 8) (fb n 0 8))
  | 0x05 => some (.umulhu sw (fb n 16 8) (fb n 8 8) (fb n 0 8))
  | 0x06 => some (.udiv sw (fb n 16 8) (fb n 8 8) (fb n 0 8))
  | 0x07 => some (.urem sw (fb n 16 8) (fb n 8 8) (fb n 0 8))
  | 0x08 => some (.uand sw (fb n 16 8) (fb n 8 8) (fb n 0 8))
  | 0x09 => some (.uor sw (fb n 16 8) (fb n 8 8) (fb n 0 8))
  | 0x0A => some (.uxor sw (fb n 16 8) (fb n 8 8) (fb n 0 8))
  | 0x0B => some (.ushl sw (fb n 16 8) (fb n 8 8) (fb n 0 8))
  | 0x0C => some (.ushr sw (fb n 16 8) (fb n 8 8) (fb n 0 8))
  | 0x0D => some (.usar sw (fb n 16 8) (fb n 8 8) (fb n 0 8))
  | 0x0E => some (.umin sw (fb n 16 8) (fb n 8 8) (fb n 0 8))
  | 0x0F => some (.umax sw (fb n 16 8) (fb n 8 8) (fb n 0 8))
  | 0x10 => some (.uceq sw (fb n 16 8) (fb n 8 8) (fb n 0 8))
  | 0x11 => some (.uclt sw (fb n 16 8) (fb n 8 8) (fb n 0 8))
  | 0x12 => some (.ucltu sw (fb n 16 8) (fb n 8 8) (fb n 0 8))
  | 0x13 => some (.usel sw (fb n 16 8) (fb n 8 8) (fb n 0 8))
  | 0x14 => some (.uaddp sw (fb n 16 8) (fb n 8 8) (fb n 0 8))
  | 0x15 => some (.uaddImm sw (fb n 16 8) (fb n 8 8) (fb n 0 8))
  | 0x16 => some (.uandImm sw (fb n 16 8) (fb n 8 8) (fb n 0 8))
  | 0x17 => some (.uorImm sw (fb n 16 8) (fb n 8 8) (fb n 0 8))
  | 0x18 => if fld n 6 2 == 0 then some (.ushlImm sw (fb n 16 8) (fb n 8 8) (fb n 0 6))
      else if fld n 6 2 == 1 then some (.ushrImm sw (fb n 16 8) (fb n 8 8) (fb n 0 6))
      else if fld n 6 2 == 2 then some (.usarImm sw (fb n 16 8) (fb n 8 8) (fb n 0 6))
      else none
  | 0x19 => some (.uaddpi sw (fb n 16 8) (fb n 8 8) (fb n 0 8))
  | 0x1A => some (.umovi sw (fb n 16 8) (fb n 0 16))
  | 0x1B => some (.bz sw (fb n 16 8) (fb n 0 16))
  | 0x1C => some (.bnz sw (fb n 16 8) (fb n 0 16))
  | 0x1D => some (.srrd sw (fb n 16 8) (fb n 0 16))
  | 0x1E => some (.srwr sw (fb n 16 8) (fb n 0 16))
  | 0x1F => decodeCtl sw n
  | 0x20 => decodeMsk sw n
  | 0x21 => if fld n 18 6 == 0 then some (.bararv sw (fb n 10 8) (fb n 9 1) (fb n 4 5) (fb n 0 4))
      else if fld n 18 6 == 1 then some (.barsync sw (fb n 10 8) (fb n 9 1) (fb n 4 5) (fb n 0 4))
      else none
  | 0x22 => decodeUls sw n
  | 0x23 => if fld n 3 2 == 0 then some (.uldwAcq sw (fb n 16 8) (fb n 8 8) (fb n 5 3) (fb n 0 3))
      else if fld n 3 2 == 1 then some (.ulddAcq sw (fb n 16 8) (fb n 8 8) (fb n 5 3) (fb n 0 3))
      else if fld n 3 2 == 2 then some (.ustwRel sw (fb n 16 8) (fb n 8 8) (fb n 5 3) (fb n 0 3))
      else if fld n 3 2 == 3 then some (.ustdRel sw (fb n 16 8) (fb n 8 8) (fb n 5 3) (fb n 0 3))
      else none
  | 0x24 => if fld n 3 2 == 0 then some (.uldcw sw (fb n 16 8) (fb n 8 8) (fb n 5 3) (fb n 0 3))
      else if fld n 3 2 == 1 then some (.uldcd sw (fb n 16 8) (fb n 8 8) (fb n 5 3) (fb n 0 3))
      else none
  | 0x25 => decodeUatom sw n
  | 0x26 => if fld n 0 1 == 0 then some (.copy sw (fb n 16 8) (fb n 13 3) (fb n 10 3) (fb n 7 3) (fb n 1 6))
      else none
  | 0x27 => if fld n 0 1 == 0 then some (.gsjob sw (fb n 16 8) (fb n 15 1) (fb n 13 2) (fb n 10 3) (fb n 7 3) (fb n 1 6))
      else none
  | 0x28 => if fld n 0 4 == 0 then some (.rcall sw (fb n 16 8) (fb n 11 5) (fb n 7 4) (fb n 4 3))
      else none
  | 0x29 => decodeMatx sw n
  | 0x3E => if !sw then some (.immx (fb n 0 24)) else none
  | 0x3F => if !sw && fld n 0 8 == 0 then some (.runend (fb n 16 8) (fb n 8 8)) else none
  | _ => none

/-- The group of major 0x2A (R186, R187). -/
def decodePshi (sw : Bool) (n : Nat) : Option Instr :=
  if fld n 5 3 == 0 then some (.p8shl sw (fb n 16 8) (fb n 8 8) (fb n 0 5))
  else if fld n 5 3 == 1 then some (.p8shr sw (fb n 16 8) (fb n 8 8) (fb n 0 5))
  else if fld n 5 3 == 2 then some (.p8sar sw (fb n 16 8) (fb n 8 8) (fb n 0 5))
  else if fld n 5 3 == 4 then some (.p16shl sw (fb n 16 8) (fb n 8 8) (fb n 0 5))
  else if fld n 5 3 == 5 then some (.p16shr sw (fb n 16 8) (fb n 8 8) (fb n 0 5))
  else if fld n 5 3 == 6 then some (.p16sar sw (fb n 16 8) (fb n 8 8) (fb n 0 5))
  else none

/-- The group of major 0x2B (R186, R187). -/
def decodeSfn (sw : Bool) (n : Nat) : Option Instr :=
  if fld n 0 8 == 0 then some (.exp2 sw (fb n 16 8) (fb n 8 8))
  else if fld n 0 8 == 1 then some (.log2 sw (fb n 16 8) (fb n 8 8))
  else if fld n 0 8 == 2 then some (.rcp sw (fb n 16 8) (fb n 8 8))
  else if fld n 0 8 == 3 then some (.rsqrt sw (fb n 16 8) (fb n 8 8))
  else if fld n 0 8 == 4 then some (.sin sw (fb n 16 8) (fb n 8 8))
  else if fld n 0 8 == 5 then some (.cos sw (fb n 16 8) (fb n 8 8))
  else none

/-- The group of major 0x35 (R186, R187). -/
def decodeLs (sw : Bool) (n : Nat) : Option Instr :=
  if fld n 4 1 == 0 && fld n 0 3 == 0 then some (.ldb sw (fb n 16 8) (fb n 8 8) (fb n 5 3) (fb n 3 1))
  else if fld n 4 1 == 0 && fld n 0 3 == 1 then some (.ldh sw (fb n 16 8) (fb n 8 8) (fb n 5 3) (fb n 3 1))
  else if fld n 4 1 == 0 && fld n 0 3 == 2 then some (.ldw sw (fb n 16 8) (fb n 8 8) (fb n 5 3) (fb n 3 1))
  else if fld n 4 1 == 0 && fld n 0 3 == 3 then some (.ldd sw (fb n 16 8) (fb n 8 8) (fb n 5 3) (fb n 3 1))
  else if fld n 4 1 == 0 && fld n 0 3 == 4 then some (.ldq sw (fb n 16 8) (fb n 8 8) (fb n 5 3) (fb n 3 1))
  else if fld n 4 1 == 1 && fld n 0 3 == 0 then some (.stb sw (fb n 16 8) (fb n 8 8) (fb n 5 3) (fb n 3 1))
  else if fld n 4 1 == 1 && fld n 0 3 == 1 then some (.sth sw (fb n 16 8) (fb n 8 8) (fb n 5 3) (fb n 3 1))
  else if fld n 4 1 == 1 && fld n 0 3 == 2 then some (.stw sw (fb n 16 8) (fb n 8 8) (fb n 5 3) (fb n 3 1))
  else if fld n 4 1 == 1 && fld n 0 3 == 3 then some (.std sw (fb n 16 8) (fb n 8 8) (fb n 5 3) (fb n 3 1))
  else if fld n 4 1 == 1 && fld n 0 3 == 4 then some (.stq sw (fb n 16 8) (fb n 8 8) (fb n 5 3) (fb n 3 1))
  else none

/-- The group of major 0x3A (R186, R187). -/
def decodePlane (sw : Bool) (n : Nat) : Option Instr :=
  if fld n 11 4 == 0 then some (.pshift sw (fb n 21 3) (fb n 18 3) (fb n 15 3) (fb n 9 2) (fb n 8 1) (fb n 0 8))
  else if fld n 11 7 == 1 && fld n 8 1 == 0 then some (.prot sw (fb n 21 3) (fb n 18 3) (fb n 9 2) (fb n 0 8))
  else if fld n 11 7 == 2 then some (.pspread sw (fb n 21 3) (fb n 18 3) (fb n 10 1) (fb n 0 10))
  else if fld n 17 1 == 0 && fld n 11 4 == 3 && fld n 0 9 == 0 then some (.pfold sw (fb n 21 3) (fb n 18 3) (fb n 15 2) (fb n 9 2))
  else if fld n 0 18 == 8192 then some (.prefold sw (fb n 21 3) (fb n 18 3))
  else if fld n 0 15 == 10240 then some (.padd sw (fb n 21 3) (fb n 18 3) (fb n 15 3))
  else if fld n 0 15 == 12288 then some (.psub sw (fb n 21 3) (fb n 18 3) (fb n 15 3))
  else if fld n 0 15 == 14336 then some (.pmul sw (fb n 21 3) (fb n 18 3) (fb n 15 3))
  else if fld n 0 15 == 16384 then some (.pmax sw (fb n 21 3) (fb n 18 3) (fb n 15 3))
  else if fld n 0 15 == 18432 then some (.pmin sw (fb n 21 3) (fb n 18 3) (fb n 15 3))
  else if fld n 8 13 == 80 then some (.pdset sw (fb n 21 3) (fb n 0 8))
  else if fld n 21 3 == 0 && fld n 8 10 == 88 then some (.pdget sw (fb n 18 3) (fb n 0 8))
  else none

/-- The group of major 0x3B (R186, R187). -/
def decodeEnv (sw : Bool) (n : Nat) : Option Instr :=
  if fld n 20 4 == 0 && fld n 1 7 == 0 then some (.envclr sw (fb n 16 4) (fb n 8 8) (fb n 0 1))
  else if fld n 20 4 == 0 && fld n 0 8 == 16 then some (.envins sw (fb n 16 4) (fb n 8 8))
  else if fld n 12 4 == 0 && fld n 0 8 == 32 then some (.envsum sw (fb n 20 4) (fb n 16 4) (fb n 8 4))
  else if fld n 12 4 == 0 && fld n 0 8 == 48 then some (.envmax sw (fb n 20 4) (fb n 16 4) (fb n 8 4))
  else if fld n 12 4 == 0 && fld n 0 8 == 64 then some (.envconv sw (fb n 20 4) (fb n 16 4) (fb n 8 4))
  else if fld n 0 16 == 80 then some (.envleg sw (fb n 20 4) (fb n 16 4))
  else if fld n 4 4 == 6 then some (.enveval sw (fb n 16 8) (fb n 8 8) (fb n 0 4))
  else if fld n 20 1 == 0 && fld n 0 8 == 112 then some (.envld sw (fb n 21 3) (fb n 16 4) (fb n 8 8))
  else if fld n 20 1 == 0 && fld n 0 8 == 128 then some (.envst sw (fb n 21 3) (fb n 16 4) (fb n 8 8))
  else if fld n 0 16 == 144 then some (.envsimp sw (fb n 20 4) (fb n 16 4))
  else none

/-- The major map of the lane pipe (R185). -/
def decodeLane (sw : Bool) (n : Nat) : Nat → Option Instr
  | 0x01 => some (.iadd sw (fb n 16 8) (fb n 8 8) (fb n 0 8))
  | 0x02 => some (.isub sw (fb n 16 8) (fb n 8 8) (fb n 0 8))
  | 0x03 => some (.imul sw (fb n 16 8) (fb n 8 8) (fb n 0 8))
  | 0x04 => some (.imulh sw (fb n 16 8) (fb n 8 8) (fb n 0 8))
  | 0x05 => some (.imulhu sw (fb n 16 8) (fb n 8 8) (fb n 0 8))
  | 0x06 => some (.imin sw (fb n 16 8) (fb n 8 8) (fb n 0 8))
  | 0x07 => some (.imax sw (fb n 16 8) (fb n 8 8) (fb n 0 8))
  | 0x08 => some (.iand sw (fb n 16 8) (fb n 8 8) (fb n 0 8))
  | 0x09 => some (.ior sw (fb n 16 8) (fb n 8 8) (fb n 0 8))
  | 0x0A => some (.ixor sw (fb n 16 8) (fb n 8 8) (fb n 0 8))
  | 0x0B => some (.ishl sw (fb n 16 8) (fb n 8 8) (fb n 0 8))
  | 0x0C => some (.ishr sw (fb n 16 8) (fb n 8 8) (fb n 0 8))
  | 0x0D => some (.isar sw (fb n 16 8) (fb n 8 8) (fb n 0 8))
  | 0x0E => some (.iceq sw (fb n 16 8) (fb n 8 8) (fb n 0 8))
  | 0x0F => some (.iclt sw (fb n 16 8) (fb n 8 8) (fb n 0 8))
  | 0x10 => some (.icltu sw (fb n 16 8) (fb n 8 8) (fb n 0 8))
  | 0x11 => some (.isel sw (fb n 16 8) (fb n 8 8) (fb n 0 8))
  | 0x12 => some (.p8add sw (fb n 16 8) (fb n 8 8) (fb n 0 8))
  | 0x13 => some (.p8sub sw (fb n 16 8) (fb n 8 8) (fb n 0 8))
  | 0x14 => some (.p8max sw (fb n 16 8) (fb n 8 8) (fb n 0 8))
  | 0x15 => some (.p8min sw (fb n 16 8) (fb n 8 8) (fb n 0 8))
  | 0x16 => some (.p16add sw (fb n 16 8) (fb n 8 8) (fb n 0 8))
  | 0x17 => some (.p16sub sw (fb n 16 8) (fb n 8 8) (fb n 0 8))
  | 0x18 => some (.p16mul sw (fb n 16 8) (fb n 8 8) (fb n 0 8))
  | 0x19 => some (.fadd sw (fb n 16 8) (fb n 8 8) (fb n 0 8))
  | 0x1A => some (.fsub sw (fb n 16 8) (fb n 8 8) (fb n 0 8))
  | 0x1B => some (.fmul sw (fb n 16 8) (fb n 8 8) (fb n 0 8))
  | 0x1C => some (.ffma sw (fb n 16 8) (fb n 8 8) (fb n 0 8))
  | 0x1D => some (.fmin sw (fb n 16 8) (fb n 8 8) (fb n 0 8))
  | 0x1E => some (.fmax sw (fb n 16 8) (fb n 8 8) (fb n 0 8))
  | 0x1F => some (.fceq sw (fb n 16 8) (fb n 8 8) (fb n 0 8))
  | 0x20 => some (.fclt sw (fb n 16 8) (fb n 8 8) (fb n 0 8))
  | 0x21 => some (.fcle sw (fb n 16 8) (fb n 8 8) (fb n 0 8))
  | 0x22 => some (.hadd2 sw (fb n 16 8) (fb n 8 8) (fb n 0 8))
  | 0x23 => some (.hfma2 sw (fb n 16 8) (fb n 8 8) (fb n 0 8))
  | 0x24 => some (.badd2 sw (fb n 16 8) (fb n 8 8) (fb n 0 8))
  | 0x25 => some (.bfma2 sw (fb n 16 8) (fb n 8 8) (fb n 0 8))
  | 0x26 => some (.iaddImm sw (fb n 16 8) (fb n 8 8) (fb n 0 8))
  | 0x27 => some (.iandImm sw (fb n 16 8) (fb n 8 8) (fb n 0 8))
  | 0x28 => some (.iorImm sw (fb n 16 8) (fb n 8 8) (fb n 0 8))
  | 0x29 => if fld n 6 2 == 0 then some (.ishlImm sw (fb n 16 8) (fb n 8 8) (fb n 0 6))
      else if fld n 6 2 == 1 then some (.ishrImm sw (fb n 16 8) (fb n 8 8) (fb n 0 6))
      else if fld n 6 2 == 2 then some (.isarImm sw (fb n 16 8) (fb n 8 8) (fb n 0 6))
      else none
  | 0x2A => decodePshi sw n
  | 0x2B => decodeSfn sw n
  | 0x2C => some (.cvt sw (fb n 16 8) (fb n 8 8) (fb n 6 2) (fb n 3 3) (fb n 0 3))
  | 0x2D => some (.cvts sw (fb n 16 8) (fb n 8 8) (fb n 6 2) (fb n 3 3) (fb n 0 3))
  | 0x2E => if fld n 8 8 == 0 then some (.vrd sw (fb n 16 8) (fb n 0 8))
      else none
  | 0x2F => if fld n 16 8 == 0 then some (.vwr sw (fb n 8 8) (fb n 0 8))
      else none
  | 0x30 => if fld n 3 1 == 0 then some (.lpush sw (fb n 18 6) (fb n 12 6) (fb n 4 8) (fb n 0 3))
      else none
  | 0x31 => some (.lpull sw (fb n 16 8) (fb n 8 8) (fb n 0 8))
  | 0x32 => some (.imovi sw (fb n 16 8) (fb n 0 16))
  | 0x33 => some (.bvz sw (fb n 16 8) (fb n 0 16))
  | 0x34 => some (.bvnz sw (fb n 16 8) (fb n 0 16))
  | 0x35 => decodeLs sw n
  | 0x36 => if fld n 3 2 == 0 then some (.ldwAcq sw (fb n 16 8) (fb n 8 8) (fb n 5 3) (fb n 0 3))
      else if fld n 3 2 == 1 then some (.lddAcq sw (fb n 16 8) (fb n 8 8) (fb n 5 3) (fb n 0 3))
      else if fld n 3 2 == 2 then some (.stwRel sw (fb n 16 8) (fb n 8 8) (fb n 5 3) (fb n 0 3))
      else if fld n 3 2 == 3 then some (.stdRel sw (fb n 16 8) (fb n 8 8) (fb n 5 3) (fb n 0 3))
      else none
  | 0x37 => if fld n 3 2 == 0 then some (.ldcw sw (fb n 16 8) (fb n 8 8) (fb n 5 3) (fb n 0 3))
      else if fld n 3 2 == 1 then some (.ldcd sw (fb n 16 8) (fb n 8 8) (fb n 5 3) (fb n 0 3))
      else none
  | 0x38 => if fld n 8 2 == 0 then some (.aadd sw (fb n 18 6) (fb n 10 8) (fb n 5 3) (fb n 3 2) (fb n 0 3))
      else if fld n 8 2 == 1 then some (.amin sw (fb n 18 6) (fb n 10 8) (fb n 5 3) (fb n 3 2) (fb n 0 3))
      else if fld n 8 2 == 2 then some (.amax sw (fb n 18 6) (fb n 10 8) (fb n 5 3) (fb n 3 2) (fb n 0 3))
      else if fld n 8 2 == 3 then some (.aand sw (fb n 18 6) (fb n 10 8) (fb n 5 3) (fb n 3 2) (fb n 0 3))
      else none
  | 0x39 => if fld n 8 2 == 0 then some (.aor sw (fb n 18 6) (fb n 10 8) (fb n 5 3) (fb n 3 2) (fb n 0 3))
      else if fld n 8 2 == 1 then some (.axor sw (fb n 18 6) (fb n 10 8) (fb n 5 3) (fb n 3 2) (fb n 0 3))
      else if fld n 8 2 == 2 then some (.axchg sw (fb n 18 6) (fb n 10 8) (fb n 5 3) (fb n 3 2) (fb n 0 3))
      else if fld n 8 2 == 3 then some (.acas sw (fb n 18 6) (fb n 10 8) (fb n 5 3) (fb n 3 2) (fb n 0 3))
      else none
  | 0x3A => decodePlane sw n
  | 0x3B => decodeEnv sw n
  | 0x3C => if fld n 4 4 == 0 then some (.smxacc sw (fb n 16 8) (fb n 8 8) (fb n 0 4))
      else if fld n 0 8 == 16 then some (.smxfin sw (fb n 16 8) (fb n 8 8))
      else none
  | _ => none

/-- The fields of a native word, reserved codes not yet refused (R166). -/
def decodeFields (n : Nat) : Option Instr :=
  if fld n 31 1 == 1 then decodeUniform (fld n 30 1 == 1) n (fld n 24 6)
  else decodeLane (fld n 30 1 == 1) n (fld n 24 6)

/-- The native instruction of a word, or nothing where the word traps ILLEGAL by itself (R174). -/
def decode (w : Word) : Option Instr := (decodeFields w.toNat).filter Instr.wellFormed

/-- The operations of the address thread (R334). -/
def decodeDrayA (n : Nat) : Nat → Option Instr
  | 0x00 => if fld n 0 26 == 0 then some (.aend) else none
  | 0x01 => if fld n 18 4 == 0 then some (.jmovi (fb n 22 4) (fb n 0 18)) else none
  | 0x02 => some (.jaddi (fb n 22 4) (fb n 18 4) (fb n 0 18))
  | 0x03 => if fld n 0 14 == 0 then some (.jadd (fb n 22 4) (fb n 18 4) (fb n 14 4)) else none
  | 0x04 => if fld n 18 4 == 0 then some (.jloop (fb n 22 4) (fb n 0 18)) else none
  | 0x05 => if fld n 22 4 == 0 && fld n 0 18 == 0 then some (.drayOpen (fb n 18 4)) else none
  | 0x06 => if fld n 22 4 == 0 && fld n 2 12 == 0 then some (.drayRead (fb n 18 4) (fb n 14 4) (fb n 0 2)) else none
  | 0x07 => if fld n 1 13 == 0 then some (.drayWback (fb n 22 4) (fb n 18 4) (fb n 14 4) (fb n 0 1)) else none
  | 0x08 => if fld n 22 4 == 0 && fld n 0 18 == 0 then some (.drayClose (fb n 18 4)) else none
  | _ => none

/-- The operations of the arithmetic thread (R336). -/
def decodeDrayX (n : Nat) : Nat → Option Instr
  | 0x00 => if fld n 0 26 == 0 then some (.xend) else none
  | 0x01 => if fld n 1 21 == 0 then some (.xpop (fb n 22 4) (fb n 0 1)) else none
  | 0x02 => if fld n 0 13 == 0 then some (.xadd (fb n 22 4) (fb n 18 4) (fb n 14 4) (fb n 13 1)) else none
  | 0x03 => if fld n 0 13 == 0 then some (.xmul (fb n 22 4) (fb n 18 4) (fb n 14 4) (fb n 13 1)) else none
  | 0x04 => if fld n 0 13 == 0 then some (.xfma (fb n 22 4) (fb n 18 4) (fb n 14 4) (fb n 13 1)) else none
  | 0x05 => if fld n 0 13 == 0 then some (.xmax (fb n 22 4) (fb n 18 4) (fb n 14 4) (fb n 13 1)) else none
  | 0x06 => if fld n 0 13 == 0 then some (.xmin (fb n 22 4) (fb n 18 4) (fb n 14 4) (fb n 13 1)) else none
  | 0x07 => if fld n 0 18 == 0 then some (.xset (fb n 22 4) (fb n 18 4)) else none
  | 0x08 => if fld n 0 18 == 0 then some (.xacc (fb n 22 4) (fb n 18 4)) else none
  | 0x09 => if fld n 0 22 == 0 then some (.xrel (fb n 22 4)) else none
  | 0x0A => if fld n 13 9 == 0 then some (.xcmovi (fb n 22 4) (fb n 0 13)) else none
  | 0x0B => if fld n 13 9 == 0 then some (.xloop (fb n 22 4) (fb n 0 13)) else none
  | _ => none

/-- The dray operation of a word (R333). -/
def decodeDray (w : Word) : Option Instr :=
  if fld w.toNat 31 1 == 1 then decodeDrayX w.toNat (fld w.toNat 26 5) else decodeDrayA w.toNat (fld w.toNat 26 5)

/-- A register field that the row does not use: zero or none (R381). -/
def celudUnused (n lo : Nat) : Bool := fld n lo 12 == 0 || fld n lo 12 == 4095

/-- The fields SCOPE, ORD and REV all zero, as in every word that is no memory word (R381). -/
def celudPlain (n : Nat) : Bool := fld n 49 7 == 0

/-- The Celud instruction of a word with number `n`, whose literal word, where LIT is 1, is `lit` (R381, R382). -/
noncomputable def decodeCeludFields (n : Nat) (lit : Option (BitVec 64)) : Nat → Option Instr
  | 0x01 => if celudPlain n && lit.isNone && celudUnused n 24 && celudUnused n 12 && fld n 3 9 == 0 then some (.celudDecl (fb n 36 12) (fb n 0 3)) else none
  | 0x02 => if celudPlain n && lit.isNone && celudUnused n 24 && celudUnused n 12 && celudUnused n 0 then some (.celudTid (fb n 36 12)) else none
  | 0x03 => if celudPlain n && lit.isNone && celudUnused n 24 && celudUnused n 12 && celudUnused n 0 then some (.celudNthr (fb n 36 12)) else none
  | 0x04 => if celudPlain n && celudUnused n 12 && celudUnused n 0 then some (.celudMov lit (fb n 36 12) (fb n 24 12)) else none
  | 0x10 => if celudPlain n && celudUnused n 0 then some (.celudAdd lit (fb n 36 12) (fb n 24 12) (fb n 12 12)) else none
  | 0x11 => if celudPlain n && celudUnused n 0 then some (.celudSub lit (fb n 36 12) (fb n 24 12) (fb n 12 12)) else none
  | 0x12 => if celudPlain n && celudUnused n 0 then some (.celudMul lit (fb n 36 12) (fb n 24 12) (fb n 12 12)) else none
  | 0x13 => if celudPlain n && celudUnused n 0 then some (.celudMulh lit (fb n 36 12) (fb n 24 12) (fb n 12 12)) else none
  | 0x14 => if celudPlain n && celudUnused n 0 then some (.celudMin lit (fb n 36 12) (fb n 24 12) (fb n 12 12)) else none
  | 0x15 => if celudPlain n && celudUnused n 0 then some (.celudMax lit (fb n 36 12) (fb n 24 12) (fb n 12 12)) else none
  | 0x16 => if celudPlain n && celudUnused n 0 then some (.celudAnd lit (fb n 36 12) (fb n 24 12) (fb n 12 12)) else none
  | 0x17 => if celudPlain n && celudUnused n 0 then some (.celudOr lit (fb n 36 12) (fb n 24 12) (fb n 12 12)) else none
  | 0x18 => if celudPlain n && celudUnused n 0 then some (.celudXor lit (fb n 36 12) (fb n 24 12) (fb n 12 12)) else none
  | 0x19 => if celudPlain n && celudUnused n 0 then some (.celudShl lit (fb n 36 12) (fb n 24 12) (fb n 12 12)) else none
  | 0x1A => if celudPlain n && celudUnused n 0 then some (.celudShr lit (fb n 36 12) (fb n 24 12) (fb n 12 12)) else none
  | 0x1B => if celudPlain n && celudUnused n 0 then some (.celudSar lit (fb n 36 12) (fb n 24 12) (fb n 12 12)) else none
  | 0x1C => if celudPlain n && celudUnused n 0 then some (.celudCeq lit (fb n 36 12) (fb n 24 12) (fb n 12 12)) else none
  | 0x1D => if celudPlain n && celudUnused n 0 then some (.celudClt lit (fb n 36 12) (fb n 24 12) (fb n 12 12)) else none
  | 0x1E => if celudPlain n && celudUnused n 0 then some (.celudCltu lit (fb n 36 12) (fb n 24 12) (fb n 12 12)) else none
  | 0x1F => if celudPlain n then some (.celudSel lit (fb n 36 12) (fb n 24 12) (fb n 12 12) (fb n 0 12)) else none
  | 0x20 => if celudPlain n && celudUnused n 0 then some (.celudAdd64 lit (fb n 36 12) (fb n 24 12) (fb n 12 12)) else none
  | 0x30 => if celudPlain n && celudUnused n 0 then some (.celudFadd lit (fb n 36 12) (fb n 24 12) (fb n 12 12)) else none
  | 0x31 => if celudPlain n && celudUnused n 0 then some (.celudFsub lit (fb n 36 12) (fb n 24 12) (fb n 12 12)) else none
  | 0x32 => if celudPlain n && celudUnused n 0 then some (.celudFmul lit (fb n 36 12) (fb n 24 12) (fb n 12 12)) else none
  | 0x33 => if celudPlain n && celudUnused n 0 then some (.celudFfma lit (fb n 36 12) (fb n 24 12) (fb n 12 12)) else none
  | 0x34 => if celudPlain n && celudUnused n 0 then some (.celudFmin lit (fb n 36 12) (fb n 24 12) (fb n 12 12)) else none
  | 0x35 => if celudPlain n && celudUnused n 0 then some (.celudFmax lit (fb n 36 12) (fb n 24 12) (fb n 12 12)) else none
  | 0x36 => if celudPlain n && celudUnused n 0 then some (.celudFceq lit (fb n 36 12) (fb n 24 12) (fb n 12 12)) else none
  | 0x37 => if celudPlain n && celudUnused n 0 then some (.celudFclt lit (fb n 36 12) (fb n 24 12) (fb n 12 12)) else none
  | 0x38 => if celudPlain n && celudUnused n 0 then some (.celudFcle lit (fb n 36 12) (fb n 24 12) (fb n 12 12)) else none
  | 0x39 => if celudPlain n && celudUnused n 12 && fld n 3 9 == 0 then some (.celudSfn lit (fb n 36 12) (fb n 24 12) (fb n 0 3)) else none
  | 0x3A => if celudPlain n && celudUnused n 12 && fld n 9 3 == 0 then some (.celudCvt lit (fb n 36 12) (fb n 24 12) (fb n 0 8) (fld n 8 1 == 1)) else none
  | 0x40 => if celudPlain n && celudUnused n 0 then some (.celudHadd2 lit (fb n 36 12) (fb n 24 12) (fb n 12 12)) else none
  | 0x41 => if celudPlain n && celudUnused n 0 then some (.celudHfma2 lit (fb n 36 12) (fb n 24 12) (fb n 12 12)) else none
  | 0x42 => if celudPlain n && celudUnused n 0 then some (.celudBadd2 lit (fb n 36 12) (fb n 24 12) (fb n 12 12)) else none
  | 0x43 => if celudPlain n && celudUnused n 0 then some (.celudBfma2 lit (fb n 36 12) (fb n 24 12) (fb n 12 12)) else none
  | 0x44 => if celudPlain n && celudUnused n 0 then some (.celudDot2 lit (fb n 36 12) (fb n 24 12) (fb n 12 12)) else none
  | 0x50 => if celudUnused n 12 && fld n 7 5 == 0 then some (.celudLd (fb n 53 3) (fb n 51 2) (fb n 49 2) lit (fb n 36 12) (fb n 24 12) (fb n 0 3) (fb n 3 2) (fb n 5 2)) else none
  | 0x51 => if celudUnused n 36 && fld n 7 5 == 0 then some (.celudSt (fb n 53 3) (fb n 51 2) (fb n 49 2) lit (fb n 24 12) (fb n 12 12) (fb n 0 3) (fb n 3 2) (fb n 5 2)) else none
  | 0x52 => if fld n 51 2 == 0 && celudUnused n 12 && fld n 7 5 == 0 then some (.celudLdc (fb n 53 3) (fb n 49 2) lit (fb n 36 12) (fb n 24 12) (fb n 0 3) (fb n 3 2) (fb n 5 2)) else none
  | 0x53 => if fld n 10 2 == 0 && fld n 3 2 == 0 then some (.celudAtom (fb n 53 3) (fb n 51 2) (fb n 49 2) lit (fb n 36 12) (fb n 24 12) (fb n 12 12) (fb n 0 3) (fb n 5 2) (fb n 7 3)) else none
  | 0x54 => if fld n 49 2 == 0 && lit.isNone && celudUnused n 36 && celudUnused n 24 && celudUnused n 12 && celudUnused n 0 then some (.celudFence (fb n 53 3) (fb n 51 2)) else none
  | 0x60 => if celudPlain n && lit.isNone && celudUnused n 36 && celudUnused n 24 && celudUnused n 12 && celudUnused n 0 then some (.celudBar) else none
  | 0x61 => if celudPlain n && celudUnused n 36 && celudUnused n 24 && celudUnused n 12 && celudUnused n 0 then lit.map fun t => .celudJmp t else none
  | 0x62 => if celudPlain n && celudUnused n 36 && celudUnused n 12 && celudUnused n 0 then lit.map fun t => .celudBrz (fb n 24 12) t else none
  | 0x63 => if celudPlain n && celudUnused n 36 && celudUnused n 12 && celudUnused n 0 then lit.map fun t => .celudBrnz (fb n 24 12) t else none
  | 0x6F => if celudPlain n && lit.isNone && celudUnused n 36 && celudUnused n 24 && celudUnused n 12 && celudUnused n 0 then some (.celudEnd) else none
  | _ => none

/-- The Celud instruction that begins with word `w`, where `next` is the word after it (the literal when LIT is 1).
Compiled Lean code cannot build a constructor numbered above 244 of a type, so this function stands for proofs alone;
what the machine runs is `isCelud`, which asks whether a word is that of an instruction at hand. -/
noncomputable def decodeCelud (w next : BitVec 64) : Option Instr :=
  (decodeCeludFields w.toNat (if fld w.toNat 48 1 == 1 then some next else none) (fld w.toNat 56 8)).filter
    Instr.wellFormed

/-- The instruction that the decoder reads from an instruction of `nbits` bits with value `w`: a native word, else a
dray word (their words share one numbering, and a dray word is only ever read by a dray, R333). The table gives the
Celud rows no bits; their decoder is `decodeCelud`. -/
def decodeTableWord (nbits w : Nat) : Option Instr :=
  if nbits == 32 then
    match decode (BitVec.ofNat 32 w) with
    | some i => some i
    | none => decodeDray (BitVec.ofNat 32 w)
  else none

/-- The native word of an instruction, from the layouts of R168 and R169. -/
def encodeFields : Instr → Option Nat
  | .uadd sw d a b => some (pack [(1, 1), (1, bit sw), (6, 1), (8, d.toNat), (8, a.toNat), (8, b.toNat)])
  | .usub sw d a b => some (pack [(1, 1), (1, bit sw), (6, 2), (8, d.toNat), (8, a.toNat), (8, b.toNat)])
  | .umul sw d a b => some (pack [(1, 1), (1, bit sw), (6, 3), (8, d.toNat), (8, a.toNat), (8, b.toNat)])
  | .umulh sw d a b => some (pack [(1, 1), (1, bit sw), (6, 4), (8, d.toNat), (8, a.toNat), (8, b.toNat)])
  | .umulhu sw d a b => some (pack [(1, 1), (1, bit sw), (6, 5), (8, d.toNat), (8, a.toNat), (8, b.toNat)])
  | .udiv sw d a b => some (pack [(1, 1), (1, bit sw), (6, 6), (8, d.toNat), (8, a.toNat), (8, b.toNat)])
  | .urem sw d a b => some (pack [(1, 1), (1, bit sw), (6, 7), (8, d.toNat), (8, a.toNat), (8, b.toNat)])
  | .uand sw d a b => some (pack [(1, 1), (1, bit sw), (6, 8), (8, d.toNat), (8, a.toNat), (8, b.toNat)])
  | .uor sw d a b => some (pack [(1, 1), (1, bit sw), (6, 9), (8, d.toNat), (8, a.toNat), (8, b.toNat)])
  | .uxor sw d a b => some (pack [(1, 1), (1, bit sw), (6, 10), (8, d.toNat), (8, a.toNat), (8, b.toNat)])
  | .ushl sw d a b => some (pack [(1, 1), (1, bit sw), (6, 11), (8, d.toNat), (8, a.toNat), (8, b.toNat)])
  | .ushr sw d a b => some (pack [(1, 1), (1, bit sw), (6, 12), (8, d.toNat), (8, a.toNat), (8, b.toNat)])
  | .usar sw d a b => some (pack [(1, 1), (1, bit sw), (6, 13), (8, d.toNat), (8, a.toNat), (8, b.toNat)])
  | .umin sw d a b => some (pack [(1, 1), (1, bit sw), (6, 14), (8, d.toNat), (8, a.toNat), (8, b.toNat)])
  | .umax sw d a b => some (pack [(1, 1), (1, bit sw), (6, 15), (8, d.toNat), (8, a.toNat), (8, b.toNat)])
  | .uceq sw d a b => some (pack [(1, 1), (1, bit sw), (6, 16), (8, d.toNat), (8, a.toNat), (8, b.toNat)])
  | .uclt sw d a b => some (pack [(1, 1), (1, bit sw), (6, 17), (8, d.toNat), (8, a.toNat), (8, b.toNat)])
  | .ucltu sw d a b => some (pack [(1, 1), (1, bit sw), (6, 18), (8, d.toNat), (8, a.toNat), (8, b.toNat)])
  | .usel sw d a b => some (pack [(1, 1), (1, bit sw), (6, 19), (8, d.toNat), (8, a.toNat), (8, b.toNat)])
  | .uaddp sw d a b => some (pack [(1, 1), (1, bit sw), (6, 20), (8, d.toNat), (8, a.toNat), (8, b.toNat)])
  | .uaddImm sw d a imm => some (pack [(1, 1), (1, bit sw), (6, 21), (8, d.toNat), (8, a.toNat), (8, imm.toNat)])
  | .uandImm sw d a imm => some (pack [(1, 1), (1, bit sw), (6, 22), (8, d.toNat), (8, a.toNat), (8, imm.toNat)])
  | .uorImm sw d a imm => some (pack [(1, 1), (1, bit sw), (6, 23), (8, d.toNat), (8, a.toNat), (8, imm.toNat)])
  | .ushlImm sw d a n => some (pack [(1, 1), (1, bit sw), (6, 24), (8, d.toNat), (8, a.toNat), (2, 0), (6, n.toNat)])
  | .ushrImm sw d a n => some (pack [(1, 1), (1, bit sw), (6, 24), (8, d.toNat), (8, a.toNat), (2, 1), (6, n.toNat)])
  | .usarImm sw d a n => some (pack [(1, 1), (1, bit sw), (6, 24), (8, d.toNat), (8, a.toNat), (2, 2), (6, n.toNat)])
  | .uaddpi sw d a imm => some (pack [(1, 1), (1, bit sw), (6, 25), (8, d.toNat), (8, a.toNat), (8, imm.toNat)])
  | .umovi sw d imm => some (pack [(1, 1), (1, bit sw), (6, 26), (8, d.toNat), (16, imm.toNat)])
  | .bz sw d off => some (pack [(1, 1), (1, bit sw), (6, 27), (8, d.toNat), (16, off.toNat)])
  | .bnz sw d off => some (pack [(1, 1), (1, bit sw), (6, 28), (8, d.toNat), (16, off.toNat)])
  | .srrd sw d num => some (pack [(1, 1), (1, bit sw), (6, 29), (8, d.toNat), (16, num.toNat)])
  | .srwr sw d num => some (pack [(1, 1), (1, bit sw), (6, 30), (8, d.toNat), (16, num.toNat)])
  | .bra sw off => some (pack [(1, 1), (1, bit sw), (6, 31), (6, 0), (18, off.toNat)])
  | .call sw off => some (pack [(1, 1), (1, bit sw), (6, 31), (6, 1), (18, off.toNat)])
  | .callr sw reg => some (pack [(1, 1), (1, bit sw), (6, 31), (6, 2), (8, reg.toNat), (10, 0)])
  | .brr sw reg => some (pack [(1, 1), (1, bit sw), (6, 31), (6, 3), (8, reg.toNat), (10, 0)])
  | .ret sw reg => some (pack [(1, 1), (1, bit sw), (6, 31), (6, 4), (8, reg.toNat), (10, 0)])
  | .endLanes sw => some (pack [(1, 1), (1, bit sw), (6, 31), (6, 5), (18, 0)])
  | .trap sw reg code => some (pack [(1, 1), (1, bit sw), (6, 31), (6, 6), (8, reg.toNat), (10, code.toNat)])
  | .rfe sw => some (pack [(1, 1), (1, bit sw), (6, 31), (6, 7), (18, 0)])
  | .replayToken sw reg => some (pack [(1, 1), (1, bit sw), (6, 31), (6, 8), (8, reg.toNat), (10, 0)])
  | .replayPage sw reg => some (pack [(1, 1), (1, bit sw), (6, 31), (6, 8), (8, reg.toNat), (10, 1)])
  | .icinv sw sc => some (pack [(1, 1), (1, bit sw), (6, 31), (6, 9), (15, 0), (3, sc.toNat)])
  | .fence sw kind sc => some (pack [(1, 1), (1, bit sw), (6, 31), (6, 10), (13, 0), (2, kind.toNat), (3, sc.toNat)])
  | .opfence sw => some (pack [(1, 1), (1, bit sw), (6, 31), (6, 11), (18, 0)])
  | .waitany sw reg k => some (pack [(1, 1), (1, bit sw), (6, 31), (6, 12), (8, reg.toNat), (4, 0), (6, k.toNat)])
  | .waitall sw reg => some (pack [(1, 1), (1, bit sw), (6, 31), (6, 13), (8, reg.toNat), (10, 0)])
  | .ffrdy sw reg k => some (pack [(1, 1), (1, bit sw), (6, 31), (6, 14), (8, reg.toNat), (4, 0), (6, k.toNat)])
  | .rcwait sw reg k => some (pack [(1, 1), (1, bit sw), (6, 31), (6, 15), (8, reg.toNat), (4, 0), (6, k.toNat)])
  | .rcprobe sw reg k => some (pack [(1, 1), (1, bit sw), (6, 31), (6, 16), (8, reg.toNat), (4, 0), (6, k.toNat)])
  | .exrd sw reg => some (pack [(1, 1), (1, bit sw), (6, 32), (6, 0), (8, reg.toNat), (10, 0)])
  | .exwr sw reg => some (pack [(1, 1), (1, bit sw), (6, 32), (6, 1), (8, reg.toNat), (10, 0)])
  | .exld sw ma => some (pack [(1, 1), (1, bit sw), (6, 32), (6, 2), (8, 0), (3, ma.toNat), (7, 0)])
  | .exsv sw ma => some (pack [(1, 1), (1, bit sw), (6, 32), (6, 3), (8, 0), (3, ma.toNat), (7, 0)])
  | .mand sw ma mb mc => some (pack [(1, 1), (1, bit sw), (6, 32), (6, 4), (8, 0), (3, ma.toNat), (3, mb.toNat), (3, mc.toNat), (1, 0)])
  | .mor sw ma mb mc => some (pack [(1, 1), (1, bit sw), (6, 32), (6, 5), (8, 0), (3, ma.toNat), (3, mb.toNat), (3, mc.toNat), (1, 0)])
  | .mxor sw ma mb mc => some (pack [(1, 1), (1, bit sw), (6, 32), (6, 6), (8, 0), (3, ma.toNat), (3, mb.toNat), (3, mc.toNat), (1, 0)])
  | .mnot sw ma mb => some (pack [(1, 1), (1, bit sw), (6, 32), (6, 7), (8, 0), (3, ma.toNat), (3, mb.toNat), (4, 0)])
  | .mrd sw reg ma => some (pack [(1, 1), (1, bit sw), (6, 32), (6, 8), (8, reg.toNat), (3, ma.toNat), (7, 0)])
  | .mwr sw reg ma => some (pack [(1, 1), (1, bit sw), (6, 32), (6, 9), (8, reg.toNat), (3, ma.toNat), (7, 0)])
  | .mpop sw reg ma => some (pack [(1, 1), (1, bit sw), (6, 32), (6, 10), (8, reg.toNat), (3, ma.toNat), (7, 0)])
  | .bararv sw reg ci cnt bar => some (pack [(1, 1), (1, bit sw), (6, 33), (6, 0), (8, reg.toNat), (1, ci.toNat), (5, cnt.toNat), (4, bar.toNat)])
  | .barsync sw reg ci cnt bar => some (pack [(1, 1), (1, bit sw), (6, 33), (6, 1), (8, reg.toNat), (1, ci.toNat), (5, cnt.toNat), (4, bar.toNat)])
  | .uldb sw d a wh abs => some (pack [(1, 1), (1, bit sw), (6, 34), (8, d.toNat), (8, a.toNat), (3, wh.toNat), (1, 0), (1, abs.toNat), (3, 0)])
  | .uldh sw d a wh abs => some (pack [(1, 1), (1, bit sw), (6, 34), (8, d.toNat), (8, a.toNat), (3, wh.toNat), (1, 0), (1, abs.toNat), (3, 1)])
  | .uldw sw d a wh abs => some (pack [(1, 1), (1, bit sw), (6, 34), (8, d.toNat), (8, a.toNat), (3, wh.toNat), (1, 0), (1, abs.toNat), (3, 2)])
  | .uldd sw d a wh abs => some (pack [(1, 1), (1, bit sw), (6, 34), (8, d.toNat), (8, a.toNat), (3, wh.toNat), (1, 0), (1, abs.toNat), (3, 3)])
  | .uldq sw d a wh abs => some (pack [(1, 1), (1, bit sw), (6, 34), (8, d.toNat), (8, a.toNat), (3, wh.toNat), (1, 0), (1, abs.toNat), (3, 4)])
  | .ustb sw d a wh abs => some (pack [(1, 1), (1, bit sw), (6, 34), (8, d.toNat), (8, a.toNat), (3, wh.toNat), (1, 1), (1, abs.toNat), (3, 0)])
  | .usth sw d a wh abs => some (pack [(1, 1), (1, bit sw), (6, 34), (8, d.toNat), (8, a.toNat), (3, wh.toNat), (1, 1), (1, abs.toNat), (3, 1)])
  | .ustw sw d a wh abs => some (pack [(1, 1), (1, bit sw), (6, 34), (8, d.toNat), (8, a.toNat), (3, wh.toNat), (1, 1), (1, abs.toNat), (3, 2)])
  | .ustd sw d a wh abs => some (pack [(1, 1), (1, bit sw), (6, 34), (8, d.toNat), (8, a.toNat), (3, wh.toNat), (1, 1), (1, abs.toNat), (3, 3)])
  | .ustq sw d a wh abs => some (pack [(1, 1), (1, bit sw), (6, 34), (8, d.toNat), (8, a.toNat), (3, wh.toNat), (1, 1), (1, abs.toNat), (3, 4)])
  | .uldwAcq sw d a wh sc => some (pack [(1, 1), (1, bit sw), (6, 35), (8, d.toNat), (8, a.toNat), (3, wh.toNat), (2, 0), (3, sc.toNat)])
  | .ulddAcq sw d a wh sc => some (pack [(1, 1), (1, bit sw), (6, 35), (8, d.toNat), (8, a.toNat), (3, wh.toNat), (2, 1), (3, sc.toNat)])
  | .ustwRel sw d a wh sc => some (pack [(1, 1), (1, bit sw), (6, 35), (8, d.toNat), (8, a.toNat), (3, wh.toNat), (2, 2), (3, sc.toNat)])
  | .ustdRel sw d a wh sc => some (pack [(1, 1), (1, bit sw), (6, 35), (8, d.toNat), (8, a.toNat), (3, wh.toNat), (2, 3), (3, sc.toNat)])
  | .uldcw sw d a wh sc => some (pack [(1, 1), (1, bit sw), (6, 36), (8, d.toNat), (8, a.toNat), (3, wh.toNat), (2, 0), (3, sc.toNat)])
  | .uldcd sw d a wh sc => some (pack [(1, 1), (1, bit sw), (6, 36), (8, d.toNat), (8, a.toNat), (3, wh.toNat), (2, 1), (3, sc.toNat)])
  | .uaadd sw d a wh ord sc => some (pack [(1, 1), (1, bit sw), (6, 37), (6, d.toNat), (6, a.toNat), (4, 0), (3, wh.toNat), (2, ord.toNat), (3, sc.toNat)])
  | .uamin sw d a wh ord sc => some (pack [(1, 1), (1, bit sw), (6, 37), (6, d.toNat), (6, a.toNat), (4, 2), (3, wh.toNat), (2, ord.toNat), (3, sc.toNat)])
  | .uamax sw d a wh ord sc => some (pack [(1, 1), (1, bit sw), (6, 37), (6, d.toNat), (6, a.toNat), (4, 4), (3, wh.toNat), (2, ord.toNat), (3, sc.toNat)])
  | .uaand sw d a wh ord sc => some (pack [(1, 1), (1, bit sw), (6, 37), (6, d.toNat), (6, a.toNat), (4, 6), (3, wh.toNat), (2, ord.toNat), (3, sc.toNat)])
  | .uaor sw d a wh ord sc => some (pack [(1, 1), (1, bit sw), (6, 37), (6, d.toNat), (6, a.toNat), (4, 8), (3, wh.toNat), (2, ord.toNat), (3, sc.toNat)])
  | .uaxor sw d a wh ord sc => some (pack [(1, 1), (1, bit sw), (6, 37), (6, d.toNat), (6, a.toNat), (4, 10), (3, wh.toNat), (2, ord.toNat), (3, sc.toNat)])
  | .uaxchg sw d a wh ord sc => some (pack [(1, 1), (1, bit sw), (6, 37), (6, d.toNat), (6, a.toNat), (4, 12), (3, wh.toNat), (2, ord.toNat), (3, sc.toNat)])
  | .uacas sw d a wh ord sc => some (pack [(1, 1), (1, bit sw), (6, 37), (6, d.toNat), (6, a.toNat), (4, 14), (3, wh.toNat), (2, ord.toNat), (3, sc.toNat)])
  | .copy sw b sl dl xf tag => some (pack [(1, 1), (1, bit sw), (6, 38), (8, b.toNat), (3, sl.toNat), (3, dl.toNat), (3, xf.toNat), (6, tag.toNat), (1, 0)])
  | .gsjob sw b dir iw es dl tag => some (pack [(1, 1), (1, bit sw), (6, 39), (8, b.toNat), (1, dir.toNat), (2, iw.toNat), (3, es.toNat), (3, dl.toNat), (6, tag.toNat), (1, 0)])
  | .rcall sw b narg nret sc => some (pack [(1, 1), (1, bit sw), (6, 40), (8, b.toNat), (5, narg.toNat), (4, nret.toNat), (3, sc.toNat), (4, 0)])
  | .mma sw b f rb za rm => some (pack [(1, 1), (1, bit sw), (6, 41), (8, b.toNat), (8, f.toNat), (4, 0), (1, rb.toNat), (1, za.toNat), (2, rm.toNat)])
  | .mloop sw b za rm => some (pack [(1, 1), (1, bit sw), (6, 41), (8, b.toNat), (13, 2), (1, za.toNat), (2, rm.toNat)])
  | .mwait sw => some (pack [(1, 1), (1, bit sw), (6, 41), (24, 32)])
  | .mdrain sw b tm sat rm => some (pack [(1, 1), (1, bit sw), (6, 41), (8, b.toNat), (12, 3), (1, tm.toNat), (1, sat.toNat), (2, rm.toNat)])
  | .mvstack sw b => some (pack [(1, 1), (1, bit sw), (6, 41), (8, b.toNat), (16, 64)])
  | .quant2 sw b => some (pack [(1, 1), (1, bit sw), (6, 41), (8, b.toNat), (16, 80)])
  | .tidset sw v x wd => some (pack [(1, 1), (1, bit sw), (6, 41), (8, v.toNat), (8, x.toNat), (4, 6), (4, wd.toNat)])
  | .tidget sw d x wd => some (pack [(1, 1), (1, bit sw), (6, 41), (8, d.toNat), (8, x.toNat), (4, 7), (4, wd.toNat)])
  | .immx imm => some (pack [(1, 1), (1, 0), (6, 62), (24, imm.toNat)])
  | .runend post wait => some (pack [(1, 1), (1, 0), (6, 63), (8, post.toNat), (8, wait.toNat), (8, 0)])
  | .iadd sw d a b => some (pack [(1, 0), (1, bit sw), (6, 1), (8, d.toNat), (8, a.toNat), (8, b.toNat)])
  | .isub sw d a b => some (pack [(1, 0), (1, bit sw), (6, 2), (8, d.toNat), (8, a.toNat), (8, b.toNat)])
  | .imul sw d a b => some (pack [(1, 0), (1, bit sw), (6, 3), (8, d.toNat), (8, a.toNat), (8, b.toNat)])
  | .imulh sw d a b => some (pack [(1, 0), (1, bit sw), (6, 4), (8, d.toNat), (8, a.toNat), (8, b.toNat)])
  | .imulhu sw d a b => some (pack [(1, 0), (1, bit sw), (6, 5), (8, d.toNat), (8, a.toNat), (8, b.toNat)])
  | .imin sw d a b => some (pack [(1, 0), (1, bit sw), (6, 6), (8, d.toNat), (8, a.toNat), (8, b.toNat)])
  | .imax sw d a b => some (pack [(1, 0), (1, bit sw), (6, 7), (8, d.toNat), (8, a.toNat), (8, b.toNat)])
  | .iand sw d a b => some (pack [(1, 0), (1, bit sw), (6, 8), (8, d.toNat), (8, a.toNat), (8, b.toNat)])
  | .ior sw d a b => some (pack [(1, 0), (1, bit sw), (6, 9), (8, d.toNat), (8, a.toNat), (8, b.toNat)])
  | .ixor sw d a b => some (pack [(1, 0), (1, bit sw), (6, 10), (8, d.toNat), (8, a.toNat), (8, b.toNat)])
  | .ishl sw d a b => some (pack [(1, 0), (1, bit sw), (6, 11), (8, d.toNat), (8, a.toNat), (8, b.toNat)])
  | .ishr sw d a b => some (pack [(1, 0), (1, bit sw), (6, 12), (8, d.toNat), (8, a.toNat), (8, b.toNat)])
  | .isar sw d a b => some (pack [(1, 0), (1, bit sw), (6, 13), (8, d.toNat), (8, a.toNat), (8, b.toNat)])
  | .iceq sw d a b => some (pack [(1, 0), (1, bit sw), (6, 14), (8, d.toNat), (8, a.toNat), (8, b.toNat)])
  | .iclt sw d a b => some (pack [(1, 0), (1, bit sw), (6, 15), (8, d.toNat), (8, a.toNat), (8, b.toNat)])
  | .icltu sw d a b => some (pack [(1, 0), (1, bit sw), (6, 16), (8, d.toNat), (8, a.toNat), (8, b.toNat)])
  | .isel sw d a b => some (pack [(1, 0), (1, bit sw), (6, 17), (8, d.toNat), (8, a.toNat), (8, b.toNat)])
  | .p8add sw d a b => some (pack [(1, 0), (1, bit sw), (6, 18), (8, d.toNat), (8, a.toNat), (8, b.toNat)])
  | .p8sub sw d a b => some (pack [(1, 0), (1, bit sw), (6, 19), (8, d.toNat), (8, a.toNat), (8, b.toNat)])
  | .p8max sw d a b => some (pack [(1, 0), (1, bit sw), (6, 20), (8, d.toNat), (8, a.toNat), (8, b.toNat)])
  | .p8min sw d a b => some (pack [(1, 0), (1, bit sw), (6, 21), (8, d.toNat), (8, a.toNat), (8, b.toNat)])
  | .p16add sw d a b => some (pack [(1, 0), (1, bit sw), (6, 22), (8, d.toNat), (8, a.toNat), (8, b.toNat)])
  | .p16sub sw d a b => some (pack [(1, 0), (1, bit sw), (6, 23), (8, d.toNat), (8, a.toNat), (8, b.toNat)])
  | .p16mul sw d a b => some (pack [(1, 0), (1, bit sw), (6, 24), (8, d.toNat), (8, a.toNat), (8, b.toNat)])
  | .fadd sw d a b => some (pack [(1, 0), (1, bit sw), (6, 25), (8, d.toNat), (8, a.toNat), (8, b.toNat)])
  | .fsub sw d a b => some (pack [(1, 0), (1, bit sw), (6, 26), (8, d.toNat), (8, a.toNat), (8, b.toNat)])
  | .fmul sw d a b => some (pack [(1, 0), (1, bit sw), (6, 27), (8, d.toNat), (8, a.toNat), (8, b.toNat)])
  | .ffma sw d a b => some (pack [(1, 0), (1, bit sw), (6, 28), (8, d.toNat), (8, a.toNat), (8, b.toNat)])
  | .fmin sw d a b => some (pack [(1, 0), (1, bit sw), (6, 29), (8, d.toNat), (8, a.toNat), (8, b.toNat)])
  | .fmax sw d a b => some (pack [(1, 0), (1, bit sw), (6, 30), (8, d.toNat), (8, a.toNat), (8, b.toNat)])
  | .fceq sw d a b => some (pack [(1, 0), (1, bit sw), (6, 31), (8, d.toNat), (8, a.toNat), (8, b.toNat)])
  | .fclt sw d a b => some (pack [(1, 0), (1, bit sw), (6, 32), (8, d.toNat), (8, a.toNat), (8, b.toNat)])
  | .fcle sw d a b => some (pack [(1, 0), (1, bit sw), (6, 33), (8, d.toNat), (8, a.toNat), (8, b.toNat)])
  | .hadd2 sw d a b => some (pack [(1, 0), (1, bit sw), (6, 34), (8, d.toNat), (8, a.toNat), (8, b.toNat)])
  | .hfma2 sw d a b => some (pack [(1, 0), (1, bit sw), (6, 35), (8, d.toNat), (8, a.toNat), (8, b.toNat)])
  | .badd2 sw d a b => some (pack [(1, 0), (1, bit sw), (6, 36), (8, d.toNat), (8, a.toNat), (8, b.toNat)])
  | .bfma2 sw d a b => some (pack [(1, 0), (1, bit sw), (6, 37), (8, d.toNat), (8, a.toNat), (8, b.toNat)])
  | .iaddImm sw d a imm => some (pack [(1, 0), (1, bit sw), (6, 38), (8, d.toNat), (8, a.toNat), (8, imm.toNat)])
  | .iandImm sw d a imm => some (pack [(1, 0), (1, bit sw), (6, 39), (8, d.toNat), (8, a.toNat), (8, imm.toNat)])
  | .iorImm sw d a imm => some (pack [(1, 0), (1, bit sw), (6, 40), (8, d.toNat), (8, a.toNat), (8, imm.toNat)])
  | .ishlImm sw d a n => some (pack [(1, 0), (1, bit sw), (6, 41), (8, d.toNat), (8, a.toNat), (2, 0), (6, n.toNat)])
  | .ishrImm sw d a n => some (pack [(1, 0), (1, bit sw), (6, 41), (8, d.toNat), (8, a.toNat), (2, 1), (6, n.toNat)])
  | .isarImm sw d a n => some (pack [(1, 0), (1, bit sw), (6, 41), (8, d.toNat), (8, a.toNat), (2, 2), (6, n.toNat)])
  | .p8shl sw d a n => some (pack [(1, 0), (1, bit sw), (6, 42), (8, d.toNat), (8, a.toNat), (3, 0), (5, n.toNat)])
  | .p8shr sw d a n => some (pack [(1, 0), (1, bit sw), (6, 42), (8, d.toNat), (8, a.toNat), (3, 1), (5, n.toNat)])
  | .p8sar sw d a n => some (pack [(1, 0), (1, bit sw), (6, 42), (8, d.toNat), (8, a.toNat), (3, 2), (5, n.toNat)])
  | .p16shl sw d a n => some (pack [(1, 0), (1, bit sw), (6, 42), (8, d.toNat), (8, a.toNat), (3, 4), (5, n.toNat)])
  | .p16shr sw d a n => some (pack [(1, 0), (1, bit sw), (6, 42), (8, d.toNat), (8, a.toNat), (3, 5), (5, n.toNat)])
  | .p16sar sw d a n => some (pack [(1, 0), (1, bit sw), (6, 42), (8, d.toNat), (8, a.toNat), (3, 6), (5, n.toNat)])
  | .exp2 sw d a => some (pack [(1, 0), (1, bit sw), (6, 43), (8, d.toNat), (8, a.toNat), (8, 0)])
  | .log2 sw d a => some (pack [(1, 0), (1, bit sw), (6, 43), (8, d.toNat), (8, a.toNat), (8, 1)])
  | .rcp sw d a => some (pack [(1, 0), (1, bit sw), (6, 43), (8, d.toNat), (8, a.toNat), (8, 2)])
  | .rsqrt sw d a => some (pack [(1, 0), (1, bit sw), (6, 43), (8, d.toNat), (8, a.toNat), (8, 3)])
  | .sin sw d a => some (pack [(1, 0), (1, bit sw), (6, 43), (8, d.toNat), (8, a.toNat), (8, 4)])
  | .cos sw d a => some (pack [(1, 0), (1, bit sw), (6, 43), (8, d.toNat), (8, a.toNat), (8, 5)])
  | .cvt sw d a rm tgt src => some (pack [(1, 0), (1, bit sw), (6, 44), (8, d.toNat), (8, a.toNat), (2, rm.toNat), (3, tgt.toNat), (3, src.toNat)])
  | .cvts sw d a rm tgt src => some (pack [(1, 0), (1, bit sw), (6, 45), (8, d.toNat), (8, a.toNat), (2, rm.toNat), (3, tgt.toNat), (3, src.toNat)])
  | .vrd sw d k => some (pack [(1, 0), (1, bit sw), (6, 46), (8, d.toNat), (8, 0), (8, k.toNat)])
  | .vwr sw a k => some (pack [(1, 0), (1, bit sw), (6, 47), (8, 0), (8, a.toNat), (8, k.toNat)])
  | .lpush sw d a x mk => some (pack [(1, 0), (1, bit sw), (6, 48), (6, d.toNat), (6, a.toNat), (8, x.toNat), (1, 0), (3, mk.toNat)])
  | .lpull sw d a b => some (pack [(1, 0), (1, bit sw), (6, 49), (8, d.toNat), (8, a.toNat), (8, b.toNat)])
  | .imovi sw d imm => some (pack [(1, 0), (1, bit sw), (6, 50), (8, d.toNat), (16, imm.toNat)])
  | .bvz sw d off => some (pack [(1, 0), (1, bit sw), (6, 51), (8, d.toNat), (16, off.toNat)])
  | .bvnz sw d off => some (pack [(1, 0), (1, bit sw), (6, 52), (8, d.toNat), (16, off.toNat)])
  | .ldb sw d a wh abs => some (pack [(1, 0), (1, bit sw), (6, 53), (8, d.toNat), (8, a.toNat), (3, wh.toNat), (1, 0), (1, abs.toNat), (3, 0)])
  | .ldh sw d a wh abs => some (pack [(1, 0), (1, bit sw), (6, 53), (8, d.toNat), (8, a.toNat), (3, wh.toNat), (1, 0), (1, abs.toNat), (3, 1)])
  | .ldw sw d a wh abs => some (pack [(1, 0), (1, bit sw), (6, 53), (8, d.toNat), (8, a.toNat), (3, wh.toNat), (1, 0), (1, abs.toNat), (3, 2)])
  | .ldd sw d a wh abs => some (pack [(1, 0), (1, bit sw), (6, 53), (8, d.toNat), (8, a.toNat), (3, wh.toNat), (1, 0), (1, abs.toNat), (3, 3)])
  | .ldq sw d a wh abs => some (pack [(1, 0), (1, bit sw), (6, 53), (8, d.toNat), (8, a.toNat), (3, wh.toNat), (1, 0), (1, abs.toNat), (3, 4)])
  | .stb sw d a wh abs => some (pack [(1, 0), (1, bit sw), (6, 53), (8, d.toNat), (8, a.toNat), (3, wh.toNat), (1, 1), (1, abs.toNat), (3, 0)])
  | .sth sw d a wh abs => some (pack [(1, 0), (1, bit sw), (6, 53), (8, d.toNat), (8, a.toNat), (3, wh.toNat), (1, 1), (1, abs.toNat), (3, 1)])
  | .stw sw d a wh abs => some (pack [(1, 0), (1, bit sw), (6, 53), (8, d.toNat), (8, a.toNat), (3, wh.toNat), (1, 1), (1, abs.toNat), (3, 2)])
  | .std sw d a wh abs => some (pack [(1, 0), (1, bit sw), (6, 53), (8, d.toNat), (8, a.toNat), (3, wh.toNat), (1, 1), (1, abs.toNat), (3, 3)])
  | .stq sw d a wh abs => some (pack [(1, 0), (1, bit sw), (6, 53), (8, d.toNat), (8, a.toNat), (3, wh.toNat), (1, 1), (1, abs.toNat), (3, 4)])
  | .ldwAcq sw d a wh sc => some (pack [(1, 0), (1, bit sw), (6, 54), (8, d.toNat), (8, a.toNat), (3, wh.toNat), (2, 0), (3, sc.toNat)])
  | .lddAcq sw d a wh sc => some (pack [(1, 0), (1, bit sw), (6, 54), (8, d.toNat), (8, a.toNat), (3, wh.toNat), (2, 1), (3, sc.toNat)])
  | .stwRel sw d a wh sc => some (pack [(1, 0), (1, bit sw), (6, 54), (8, d.toNat), (8, a.toNat), (3, wh.toNat), (2, 2), (3, sc.toNat)])
  | .stdRel sw d a wh sc => some (pack [(1, 0), (1, bit sw), (6, 54), (8, d.toNat), (8, a.toNat), (3, wh.toNat), (2, 3), (3, sc.toNat)])
  | .ldcw sw d a wh sc => some (pack [(1, 0), (1, bit sw), (6, 55), (8, d.toNat), (8, a.toNat), (3, wh.toNat), (2, 0), (3, sc.toNat)])
  | .ldcd sw d a wh sc => some (pack [(1, 0), (1, bit sw), (6, 55), (8, d.toNat), (8, a.toNat), (3, wh.toNat), (2, 1), (3, sc.toNat)])
  | .aadd sw d a wh ord sc => some (pack [(1, 0), (1, bit sw), (6, 56), (6, d.toNat), (8, a.toNat), (2, 0), (3, wh.toNat), (2, ord.toNat), (3, sc.toNat)])
  | .amin sw d a wh ord sc => some (pack [(1, 0), (1, bit sw), (6, 56), (6, d.toNat), (8, a.toNat), (2, 1), (3, wh.toNat), (2, ord.toNat), (3, sc.toNat)])
  | .amax sw d a wh ord sc => some (pack [(1, 0), (1, bit sw), (6, 56), (6, d.toNat), (8, a.toNat), (2, 2), (3, wh.toNat), (2, ord.toNat), (3, sc.toNat)])
  | .aand sw d a wh ord sc => some (pack [(1, 0), (1, bit sw), (6, 56), (6, d.toNat), (8, a.toNat), (2, 3), (3, wh.toNat), (2, ord.toNat), (3, sc.toNat)])
  | .aor sw d a wh ord sc => some (pack [(1, 0), (1, bit sw), (6, 57), (6, d.toNat), (8, a.toNat), (2, 0), (3, wh.toNat), (2, ord.toNat), (3, sc.toNat)])
  | .axor sw d a wh ord sc => some (pack [(1, 0), (1, bit sw), (6, 57), (6, d.toNat), (8, a.toNat), (2, 1), (3, wh.toNat), (2, ord.toNat), (3, sc.toNat)])
  | .axchg sw d a wh ord sc => some (pack [(1, 0), (1, bit sw), (6, 57), (6, d.toNat), (8, a.toNat), (2, 2), (3, wh.toNat), (2, ord.toNat), (3, sc.toNat)])
  | .acas sw d a wh ord sc => some (pack [(1, 0), (1, bit sw), (6, 57), (6, d.toNat), (8, a.toNat), (2, 3), (3, wh.toNat), (2, ord.toNat), (3, sc.toNat)])
  | .pshift sw d a sk dir fl n => some (pack [(1, 0), (1, bit sw), (6, 58), (3, d.toNat), (3, a.toNat), (3, sk.toNat), (4, 0), (2, dir.toNat), (1, fl.toNat), (8, n.toNat)])
  | .prot sw d a dir n => some (pack [(1, 0), (1, bit sw), (6, 58), (3, d.toNat), (3, a.toNat), (7, 1), (2, dir.toNat), (1, 0), (8, n.toNat)])
  | .pspread sw d a axis r => some (pack [(1, 0), (1, bit sw), (6, 58), (3, d.toNat), (3, a.toNat), (7, 2), (1, axis.toNat), (10, r.toNat)])
  | .pfold sw d a op dir => some (pack [(1, 0), (1, bit sw), (6, 58), (3, d.toNat), (3, a.toNat), (1, 0), (2, op.toNat), (4, 3), (2, dir.toNat), (9, 0)])
  | .prefold sw d a => some (pack [(1, 0), (1, bit sw), (6, 58), (3, d.toNat), (3, a.toNat), (18, 8192)])
  | .padd sw d a b => some (pack [(1, 0), (1, bit sw), (6, 58), (3, d.toNat), (3, a.toNat), (3, b.toNat), (15, 10240)])
  | .psub sw d a b => some (pack [(1, 0), (1, bit sw), (6, 58), (3, d.toNat), (3, a.toNat), (3, b.toNat), (15, 12288)])
  | .pmul sw d a b => some (pack [(1, 0), (1, bit sw), (6, 58), (3, d.toNat), (3, a.toNat), (3, b.toNat), (15, 14336)])
  | .pmax sw d a b => some (pack [(1, 0), (1, bit sw), (6, 58), (3, d.toNat), (3, a.toNat), (3, b.toNat), (15, 16384)])
  | .pmin sw d a b => some (pack [(1, 0), (1, bit sw), (6, 58), (3, d.toNat), (3, a.toNat), (3, b.toNat), (15, 18432)])
  | .pdset sw d x => some (pack [(1, 0), (1, bit sw), (6, 58), (3, d.toNat), (13, 80), (8, x.toNat)])
  | .pdget sw a x => some (pack [(1, 0), (1, bit sw), (6, 58), (3, 0), (3, a.toNat), (10, 88), (8, x.toNat)])
  | .envclr sw d r given => some (pack [(1, 0), (1, bit sw), (6, 59), (4, 0), (4, d.toNat), (8, r.toNat), (7, 0), (1, given.toNat)])
  | .envins sw d a => some (pack [(1, 0), (1, bit sw), (6, 59), (4, 0), (4, d.toNat), (8, a.toNat), (8, 16)])
  | .envsum sw a d b => some (pack [(1, 0), (1, bit sw), (6, 59), (4, a.toNat), (4, d.toNat), (4, 0), (4, b.toNat), (8, 32)])
  | .envmax sw a d b => some (pack [(1, 0), (1, bit sw), (6, 59), (4, a.toNat), (4, d.toNat), (4, 0), (4, b.toNat), (8, 48)])
  | .envconv sw a d b => some (pack [(1, 0), (1, bit sw), (6, 59), (4, a.toNat), (4, d.toNat), (4, 0), (4, b.toNat), (8, 64)])
  | .envleg sw a d => some (pack [(1, 0), (1, bit sw), (6, 59), (4, a.toNat), (4, d.toNat), (16, 80)])
  | .enveval sw d x a => some (pack [(1, 0), (1, bit sw), (6, 59), (8, d.toNat), (8, x.toNat), (4, 6), (4, a.toNat)])
  | .envld sw wh d r => some (pack [(1, 0), (1, bit sw), (6, 59), (3, wh.toNat), (1, 0), (4, d.toNat), (8, r.toNat), (8, 112)])
  | .envst sw wh d r => some (pack [(1, 0), (1, bit sw), (6, 59), (3, wh.toNat), (1, 0), (4, d.toNat), (8, r.toNat), (8, 128)])
  | .envsimp sw a d => some (pack [(1, 0), (1, bit sw), (6, 59), (4, a.toNat), (4, d.toNat), (16, 144)])
  | .smxacc sw p a nm1 => some (pack [(1, 0), (1, bit sw), (6, 60), (8, p.toNat), (8, a.toNat), (4, 0), (4, nm1.toNat)])
  | .smxfin sw d p => some (pack [(1, 0), (1, bit sw), (6, 60), (8, d.toNat), (8, p.toNat), (8, 16)])
  | _ => none

/-- The native word of an instruction, if it is a native one. -/
def encode (i : Instr) : Option Word := (encodeFields i).map (BitVec.ofNat 32)

/-- The dray word of an operation (R333). -/
def encodeDray : Instr → Option Word
  | .aend => some (BitVec.ofNat 32 (pack [(1, 0), (5, 0), (26, 0)]))
  | .jmovi d v => some (BitVec.ofNat 32 (pack [(1, 0), (5, 1), (4, d.toNat), (4, 0), (18, v.toNat)]))
  | .jaddi d a v => some (BitVec.ofNat 32 (pack [(1, 0), (5, 2), (4, d.toNat), (4, a.toNat), (18, v.toNat)]))
  | .jadd d a b => some (BitVec.ofNat 32 (pack [(1, 0), (5, 3), (4, d.toNat), (4, a.toNat), (4, b.toNat), (14, 0)]))
  | .jloop d o => some (BitVec.ofNat 32 (pack [(1, 0), (5, 4), (4, d.toNat), (4, 0), (18, o.toNat)]))
  | .drayOpen r => some (BitVec.ofNat 32 (pack [(1, 0), (5, 5), (4, 0), (4, r.toNat), (18, 0)]))
  | .drayRead r c n => some (BitVec.ofNat 32 (pack [(1, 0), (5, 6), (4, 0), (4, r.toNat), (4, c.toNat), (12, 0), (2, n.toNat)]))
  | .drayWback k r c f => some (BitVec.ofNat 32 (pack [(1, 0), (5, 7), (4, k.toNat), (4, r.toNat), (4, c.toNat), (13, 0), (1, f.toNat)]))
  | .drayClose r => some (BitVec.ofNat 32 (pack [(1, 0), (5, 8), (4, 0), (4, r.toNat), (18, 0)]))
  | .xend => some (BitVec.ofNat 32 (pack [(1, 1), (5, 0), (26, 0)]))
  | .xpop d f => some (BitVec.ofNat 32 (pack [(1, 1), (5, 1), (4, d.toNat), (21, 0), (1, f.toNat)]))
  | .xadd d a b f => some (BitVec.ofNat 32 (pack [(1, 1), (5, 2), (4, d.toNat), (4, a.toNat), (4, b.toNat), (1, f.toNat), (13, 0)]))
  | .xmul d a b f => some (BitVec.ofNat 32 (pack [(1, 1), (5, 3), (4, d.toNat), (4, a.toNat), (4, b.toNat), (1, f.toNat), (13, 0)]))
  | .xfma d a b f => some (BitVec.ofNat 32 (pack [(1, 1), (5, 4), (4, d.toNat), (4, a.toNat), (4, b.toNat), (1, f.toNat), (13, 0)]))
  | .xmax d a b f => some (BitVec.ofNat 32 (pack [(1, 1), (5, 5), (4, d.toNat), (4, a.toNat), (4, b.toNat), (1, f.toNat), (13, 0)]))
  | .xmin d a b f => some (BitVec.ofNat 32 (pack [(1, 1), (5, 6), (4, d.toNat), (4, a.toNat), (4, b.toNat), (1, f.toNat), (13, 0)]))
  | .xset k a => some (BitVec.ofNat 32 (pack [(1, 1), (5, 7), (4, k.toNat), (4, a.toNat), (18, 0)]))
  | .xacc k a => some (BitVec.ofNat 32 (pack [(1, 1), (5, 8), (4, k.toNat), (4, a.toNat), (18, 0)]))
  | .xrel k => some (BitVec.ofNat 32 (pack [(1, 1), (5, 9), (4, k.toNat), (22, 0)]))
  | .xcmovi d v => some (BitVec.ofNat 32 (pack [(1, 1), (5, 10), (4, d.toNat), (9, 0), (13, v.toNat)]))
  | .xloop d o => some (BitVec.ofNat 32 (pack [(1, 1), (5, 11), (4, d.toNat), (9, 0), (13, o.toNat)]))
  | _ => none

/-- The first word of a Celud instruction (R381): OPC, SCOPE, ORD, REV, LIT, D, A, B, C. -/
def celudWord (opc scope ord rev : Nat) (lit : Option (BitVec 64)) (d a b c : Nat) : BitVec 64 × Option (BitVec 64) :=
  (BitVec.ofNat 64 (pack [(8, opc), (3, scope), (2, ord), (2, rev), (1, bit lit.isSome), (12, d), (12, a), (12, b), (12, c)]), lit)

/-- The word and the literal word of a Celud instruction. -/
def encodeCelud : Instr → Option (BitVec 64 × Option (BitVec 64))
  | .celudDecl d ty => some (celudWord 0x01 0 0 0 none d.toNat 0 0 ty.toNat)
  | .celudTid d => some (celudWord 0x02 0 0 0 none d.toNat 0 0 0)
  | .celudNthr d => some (celudWord 0x03 0 0 0 none d.toNat 0 0 0)
  | .celudMov lit d a => some (celudWord 0x04 0 0 0 lit d.toNat a.toNat (if lit.isSome then 4095 else 0) 0)
  | .celudAdd lit d a b => some (celudWord 0x10 0 0 0 lit d.toNat a.toNat b.toNat 0)
  | .celudSub lit d a b => some (celudWord 0x11 0 0 0 lit d.toNat a.toNat b.toNat 0)
  | .celudMul lit d a b => some (celudWord 0x12 0 0 0 lit d.toNat a.toNat b.toNat 0)
  | .celudMulh lit d a b => some (celudWord 0x13 0 0 0 lit d.toNat a.toNat b.toNat 0)
  | .celudMin lit d a b => some (celudWord 0x14 0 0 0 lit d.toNat a.toNat b.toNat 0)
  | .celudMax lit d a b => some (celudWord 0x15 0 0 0 lit d.toNat a.toNat b.toNat 0)
  | .celudAnd lit d a b => some (celudWord 0x16 0 0 0 lit d.toNat a.toNat b.toNat 0)
  | .celudOr lit d a b => some (celudWord 0x17 0 0 0 lit d.toNat a.toNat b.toNat 0)
  | .celudXor lit d a b => some (celudWord 0x18 0 0 0 lit d.toNat a.toNat b.toNat 0)
  | .celudShl lit d a b => some (celudWord 0x19 0 0 0 lit d.toNat a.toNat b.toNat 0)
  | .celudShr lit d a b => some (celudWord 0x1A 0 0 0 lit d.toNat a.toNat b.toNat 0)
  | .celudSar lit d a b => some (celudWord 0x1B 0 0 0 lit d.toNat a.toNat b.toNat 0)
  | .celudCeq lit d a b => some (celudWord 0x1C 0 0 0 lit d.toNat a.toNat b.toNat 0)
  | .celudClt lit d a b => some (celudWord 0x1D 0 0 0 lit d.toNat a.toNat b.toNat 0)
  | .celudCltu lit d a b => some (celudWord 0x1E 0 0 0 lit d.toNat a.toNat b.toNat 0)
  | .celudSel lit d a b c => some (celudWord 0x1F 0 0 0 lit d.toNat a.toNat b.toNat c.toNat)
  | .celudAdd64 lit d a b => some (celudWord 0x20 0 0 0 lit d.toNat a.toNat b.toNat 0)
  | .celudFadd lit d a b => some (celudWord 0x30 0 0 0 lit d.toNat a.toNat b.toNat 0)
  | .celudFsub lit d a b => some (celudWord 0x31 0 0 0 lit d.toNat a.toNat b.toNat 0)
  | .celudFmul lit d a b => some (celudWord 0x32 0 0 0 lit d.toNat a.toNat b.toNat 0)
  | .celudFfma lit d a b => some (celudWord 0x33 0 0 0 lit d.toNat a.toNat b.toNat 0)
  | .celudFmin lit d a b => some (celudWord 0x34 0 0 0 lit d.toNat a.toNat b.toNat 0)
  | .celudFmax lit d a b => some (celudWord 0x35 0 0 0 lit d.toNat a.toNat b.toNat 0)
  | .celudFceq lit d a b => some (celudWord 0x36 0 0 0 lit d.toNat a.toNat b.toNat 0)
  | .celudFclt lit d a b => some (celudWord 0x37 0 0 0 lit d.toNat a.toNat b.toNat 0)
  | .celudFcle lit d a b => some (celudWord 0x38 0 0 0 lit d.toNat a.toNat b.toNat 0)
  | .celudSfn lit d a fn => some (celudWord 0x39 0 0 0 lit d.toNat a.toNat 0 fn.toNat)
  | .celudCvt lit d a i8 sat => some (celudWord 0x3A 0 0 0 lit d.toNat a.toNat 0 (pack [(1, bit sat), (8, i8.toNat)]))
  | .celudHadd2 lit d a b => some (celudWord 0x40 0 0 0 lit d.toNat a.toNat b.toNat 0)
  | .celudHfma2 lit d a b => some (celudWord 0x41 0 0 0 lit d.toNat a.toNat b.toNat 0)
  | .celudBadd2 lit d a b => some (celudWord 0x42 0 0 0 lit d.toNat a.toNat b.toNat 0)
  | .celudBfma2 lit d a b => some (celudWord 0x43 0 0 0 lit d.toNat a.toNat b.toNat 0)
  | .celudDot2 lit d a b => some (celudWord 0x44 0 0 0 lit d.toNat a.toNat b.toNat 0)
  | .celudLd sc ord rev lit d a space size hint => some (celudWord 0x50 sc.toNat ord.toNat rev.toNat lit d.toNat a.toNat 0 (pack [(2, hint.toNat), (2, size.toNat), (3, space.toNat)]))
  | .celudSt sc ord rev lit a b space size hint => some (celudWord 0x51 sc.toNat ord.toNat rev.toNat lit 0 a.toNat b.toNat (pack [(2, hint.toNat), (2, size.toNat), (3, space.toNat)]))
  | .celudLdc sc rev lit d a space size hint => some (celudWord 0x52 sc.toNat 0 rev.toNat lit d.toNat a.toNat 0 (pack [(2, hint.toNat), (2, size.toNat), (3, space.toNat)]))
  | .celudAtom sc ord rev lit d a b space hint op => some (celudWord 0x53 sc.toNat ord.toNat rev.toNat lit d.toNat a.toNat b.toNat (pack [(3, op.toNat), (2, hint.toNat), (2, 0), (3, space.toNat)]))
  | .celudFence sc kind => some (celudWord 0x54 sc.toNat kind.toNat 0 none 0 0 0 0)
  | .celudBar => some (celudWord 0x60 0 0 0 none 0 0 0 0)
  | .celudJmp target => some (celudWord 0x61 0 0 0 (some target) 0 0 0 0)
  | .celudBrz a target => some (celudWord 0x62 0 0 0 (some target) 0 a.toNat 0 0)
  | .celudBrnz a target => some (celudWord 0x63 0 0 0 (some target) 0 a.toNat 0 0)
  | .celudEnd => some (celudWord 0x6F 0 0 0 none 0 0 0 0)
  | _ => none

/-- The register fields D, A, B and C that a Celud row uses, by OPC (R382); an unused one may be zero or none. -/
def celudUses : Nat → Bool × Bool × Bool × Bool
  | 0x01 => (true, false, false, true)
  | 0x02 | 0x03 => (true, false, false, false)
  | 0x04 => (true, true, false, false)
  | 0x39 | 0x3A | 0x50 | 0x52 => (true, true, false, true)
  | 0x1F | 0x53 => (true, true, true, true)
  | 0x51 => (false, true, true, true)
  | 0x54 | 0x60 | 0x61 | 0x6F => (false, false, false, false)
  | 0x62 | 0x63 => (false, true, false, false)
  | _ => (true, true, true, false)

/-- Equal fields, or an unused field that holds zero or none in the word `n`. -/
def celudField (used : Bool) (n m lo : Nat) : Bool :=
  if used then fld n lo 12 == fld m lo 12 else celudUnused n lo

/-- The word `w`, with the word after it, is the Celud instruction `i` (R381). -/
def isCelud (i : Instr) (w next : BitVec 64) : Bool :=
  match encodeCelud i with
  | none => false
  | some (e, lit) =>
    let n := w.toNat; let m := e.toNat; let u := celudUses (fld m 56 8)
    i.wellFormed && fld n 48 16 == fld m 48 16 && (lit == none || lit == some next)
      && celudField u.1 n m 36 && celudField u.2.1 n m 24 && celudField u.2.2.1 n m 12 && celudField u.2.2.2 n m 0

end Sys2Proof
end

