-- ==== Sys2Proof/Machine/Cells.lean ====
section
/-!
DEFINITION. Tables: lists of (key, value) pairs with strictly rising keys. A table with a default value `d` lists no entry
equal to `d`, so that equal tables are equal lists.
-/

namespace Sys2Proof.Machine

/-- A table of values under natural-number keys. -/
abbrev Cells (α : Type) := List (Nat × α)

/-- The entry of key `k`. -/
def Cells.find {α : Type} : Cells α → Nat → Option α
  | [], _ => none
  | (a, x) :: r, k => if a = k then some x else Cells.find r k

/-- The entry of key `k`, or the default value. -/
def Cells.get {α : Type} (d : α) (c : Cells α) (k : Nat) : α := (Cells.find c k).getD d

/-- The table with entry `x` under key `k`. -/
def Cells.put {α : Type} : Cells α → Nat → α → Cells α
  | [], k, x => [(k, x)]
  | (a, y) :: r, k, x =>
    if k < a then (k, x) :: (a, y) :: r
    else if k = a then (k, x) :: r
    else (a, y) :: Cells.put r k x

/-- The table without key `k`. -/
def Cells.drop {α : Type} : Cells α → Nat → Cells α
  | [], _ => []
  | (a, y) :: r, k => if a = k then r else (a, y) :: Cells.drop r k

/-- The table with default `d` whose entry under `k` reads `x`. -/
def Cells.set {α : Type} [DecidableEq α] (d : α) (c : Cells α) (k : Nat) (x : α) : Cells α :=
  if x = d then Cells.drop c k else Cells.put c k x

/-- Change the entry of key `k`, if there is one. -/
def Cells.modify {α : Type} (c : Cells α) (k : Nat) (f : α → α) : Cells α :=
  match Cells.find c k with
  | some x => Cells.put c k (f x)
  | none => c

/-- The canonical form: strictly rising keys (for a table whose default is `none`). -/
def Cells.rising {α : Type} : Cells α → Bool
  | [] => true
  | (a, _) :: r => (match r with | [] => true | (b, _) :: _ => decide (a < b)) && Cells.rising r

/-- The canonical form of a table with default `d`. -/
def Cells.wf {α : Type} [DecidableEq α] (d : α) (c : Cells α) : Bool :=
  Cells.rising c && c.all fun p => decide (p.2 ≠ d)

/-- Apply `f` to the numbers from `n - 1` down to 0, the state being handed from the lowest number upward. -/
def upto {σ : Type} (f : σ → Nat → σ) (s : σ) (n : Nat) : σ := (List.range n).foldl f s

end Sys2Proof.Machine
end

