-- ==== Sys2Proof/Machine/Formats.lean ====
section
/-!
DEFINITION. Number formats and exact arithmetic (spec/09_formats.md R125 to R137): the exact value of an element, its one
rounding to a format, conversions, and the order of R65.
-/

namespace Sys2Proof.Machine

/-- A floating-point format (R125): exponent and fraction bits, bias, and whether it is E4M3. -/
structure Fmt where
  ebits : Nat
  fbits : Nat
  bias : Nat
  e4m3 : Bool := false
deriving DecidableEq, Repr

def fp32 : Fmt := { ebits := 8, fbits := 23, bias := 127 }
def bf16 : Fmt := { ebits := 8, fbits := 7, bias := 127 }
def fp16 : Fmt := { ebits := 5, fbits := 10, bias := 15 }
def e4m3 : Fmt := { ebits := 4, fbits := 3, bias := 7, e4m3 := true }
def e5m2 : Fmt := { ebits := 5, fbits := 2, bias := 15 }
def a56 : Fmt := { ebits := 10, fbits := 45, bias := 511 }

/-- The exact value of an element (R126): NaN, ±∞, or (−1)^neg · m · 2^e. -/
inductive FVal where
  | nan
  | inf (neg : Bool)
  | fin (neg : Bool) (m : Nat) (e : Int)
deriving DecidableEq, Repr

/-- Value(x, f) of R133. -/
def fval (f : Fmt) (x : Nat) : FVal :=
  let s := fld x (f.ebits + f.fbits) 1 == 1
  let ex := fld x f.fbits f.ebits
  let fr := fld x 0 f.fbits
  if f.e4m3 && ex == 15 && fr == 7 then .nan
  else if !f.e4m3 && ex == 2 ^ f.ebits - 1 then (if fr = 0 then .inf s else .nan)
  else if ex = 0 then .fin s fr (1 - f.bias - f.fbits)
  else .fin s (2 ^ f.fbits + fr) (ex - f.bias - f.fbits)

/-- CanonNaN(f) of R127, as bits. -/
def canonNaN (f : Fmt) : Nat :=
  if f.e4m3 then 0x7F else (2 ^ f.ebits - 1) * 2 ^ f.fbits + 2 ^ (f.fbits - 1)

/-- The bits of the largest finite magnitude. -/
def maxMag (f : Fmt) : Nat := if f.e4m3 then 0x7E else (2 ^ f.ebits - 1) * 2 ^ f.fbits - 1

/-- The sign bit of a format. -/
def signBit (f : Fmt) (neg : Bool) : Nat := if neg then 2 ^ (f.ebits + f.fbits) else 0

/-- The bits of ±∞, or of the canonical NaN where the format has no infinity (R132). -/
def infBits (f : Fmt) (neg : Bool) : Nat :=
  if f.e4m3 then canonNaN f else signBit f neg + (2 ^ f.ebits - 1) * 2 ^ f.fbits

/-- ⌊n/d⌋ rounded by a mode of R132 for a value of the given sign: RNE, toward zero, toward +∞, toward −∞. -/
def roundQuot (mode : Nat) (neg : Bool) (n d : Nat) : Nat :=
  let q := n / d
  let r := n % d
  let up : Bool :=
    if r = 0 then false
    else match mode with
      | 0 => decide (2 * r > d) || (decide (2 * r = d) && q % 2 == 1)
      | 1 => false
      | 2 => !neg
      | _ => neg
  if up then q + 1 else q

/-- ⌊log₂ (n/d)⌋ for n, d above 0. -/
def log2Quot (n d : Nat) : Int :=
  let k : Int := (Nat.log2 n : Int) - Nat.log2 d
  if (if 0 ≤ k then decide (d * 2 ^ k.toNat ≤ n) else decide (d ≤ n * 2 ^ (-k).toNat)) then k else k - 1

/-- n · 2^s for a whole or negative s, as a quotient. -/
def scaleQuot (n d : Nat) (s : Int) : Nat × Nat :=
  if 0 ≤ s then (n * 2 ^ s.toNat, d) else (n, d * 2 ^ (-s).toNat)

/-- Round(v, f, m, sat) of R133 for the exact value (−1)^neg · n/d: the bits of the result. -/
def roundRat (f : Fmt) (mode : Nat) (sat neg : Bool) (n d : Nat) : Nat :=
  if n = 0 then signBit f neg
  else
    let emin : Int := 1 - f.bias
    let e := max (log2Quot n d) emin
    let p := scaleQuot n d (f.fbits - e)
    let mag := (e - emin).toNat * 2 ^ f.fbits + roundQuot mode neg p.1 p.2
    if mag ≤ maxMag f then signBit f neg + mag
    else if sat then signBit f neg + maxMag f
    else match mode with
      | 0 => infBits f neg
      | 1 => signBit f neg + maxMag f
      | 2 => if neg then signBit f neg + maxMag f else infBits f neg
      | _ => if neg then infBits f neg else signBit f neg + maxMag f

/-- Round(v, f, m, sat) of R133. -/
def roundF (f : Fmt) (mode : Nat) (sat : Bool) : FVal → Nat
  | .nan => canonNaN f
  | .inf neg => if sat then signBit f neg + maxMag f else infBits f neg
  | .fin neg m e => let p := scaleQuot m 1 e; roundRat f mode sat neg p.1 p.2

/-- (−1)^neg · m. -/
def signedNat (neg : Bool) (m : Nat) : Int := if neg then -(m : Int) else m

/-- The exact sum of two values, with the zero and the NaN of R231: two zeros of one sign give that zero, any other exact zero is
+0. DESIGN CHOICE (log entry 53): a chunk of R138 is added to its entry with these zeros too, in every rounding mode. -/
def FVal.add : FVal → FVal → FVal
  | .nan, _ => .nan
  | _, .nan => .nan
  | .inf a, .inf b => if a = b then .inf a else .nan
  | .inf a, _ => .inf a
  | _, .inf b => .inf b
  | .fin na ma ea, .fin nb mb eb =>
    let e := min ea eb
    let s := signedNat na ma * 2 ^ (ea - e).toNat + signedNat nb mb * 2 ^ (eb - e).toNat
    if s = 0 then .fin (ma = 0 && mb = 0 && na && nb) 0 e else .fin (decide (s < 0)) s.natAbs e

/-- The exact product (R231). -/
def FVal.mul : FVal → FVal → FVal
  | .nan, _ => .nan
  | _, .nan => .nan
  | .inf a, .inf b => .inf (a != b)
  | .inf a, .fin b m _ => if m = 0 then .nan else .inf (a != b)
  | .fin a m _, .inf b => if m = 0 then .nan else .inf (a != b)
  | .fin na ma ea, .fin nb mb eb => .fin (na != nb) (ma * mb) (ea + eb)

/-- −x. -/
def FVal.neg : FVal → FVal
  | .nan => .nan
  | .inf a => .inf (!a)
  | .fin n m e => .fin (!n) m e

/-- The order of the exact values, ±0 being equal; nothing for a NaN. -/
def FVal.cmp : FVal → FVal → Option Ordering
  | .nan, _ => none
  | _, .nan => none
  | .inf a, .inf b => some (if a = b then .eq else if a then .lt else .gt)
  | .inf a, _ => some (if a then .lt else .gt)
  | _, .inf b => some (if b then .gt else .lt)
  | .fin na ma ea, .fin nb mb eb =>
    let e := min ea eb
    some (compare (signedNat na ma * 2 ^ (ea - e).toNat) (signedNat nb mb * 2 ^ (eb - e).toNat))

/-- An integer as an exact value. -/
def FVal.ofInt (i : Int) : FVal := .fin (decide (i < 0)) i.natAbs 0

/-- The sign of a value, for the order of the two zeros. -/
def FVal.isNeg : FVal → Bool
  | .nan => false
  | .inf n => n
  | .fin n _ _ => n

/-- FP32 value of a register. -/
def val32 (x : Word) : FVal := fval fp32 x.toNat

/-- Round to FP32 by RNE without saturation (R231). -/
def round32 (v : FVal) : Word := BitVec.ofNat 32 (roundF fp32 0 false v)

/-- One of two elements by R65: a NaN is ignored, −0 orders below +0, the chosen bits are unchanged. -/
def pickF (f : Fmt) (wantMax : Bool) (a b : Nat) : Nat :=
  let va := fval f a
  let vb := fval f b
  match va.cmp vb with
  | some .lt => if wantMax then b else a
  | some .gt => if wantMax then a else b
  | some .eq => if va.isNeg == wantMax then b else a
  | none => if va ≠ .nan then a else if vb ≠ .nan then b else canonNaN f

/-- SignExtend of an element of width `w` (R133). -/
def sext (w x : Nat) : Int := if fld x (w - 1) 1 = 1 then (fld x 0 w : Int) - 2 ^ w else fld x 0 w

/-- SatInt(v, n) of R133. -/
def satInt (w : Nat) (v : Int) : Int := max (-(2 ^ (w - 1))) (min v (2 ^ (w - 1) - 1))

/-- The low `w` bits of an integer. -/
def wrapInt (w : Nat) (v : Int) : Nat := (v % 2 ^ w).toNat

/-- A value rounded to an integer by a mode of R132; nothing for a NaN or an infinity. -/
def roundToInt (mode : Nat) (neg : Bool) (m : Nat) (e : Int) : Int :=
  let p := scaleQuot m 1 e
  signedNat neg (roundQuot mode neg p.1 p.2)

/-- Conversion to an integer of width `w` (R134): the bits of the result. -/
def toIntBits (w mode : Nat) : FVal → Nat
  | .nan => 0
  | .inf n => wrapInt w (if n then -(2 ^ (w - 1)) else 2 ^ (w - 1) - 1)
  | .fin n m e => wrapInt w (satInt w (roundToInt mode n m e))

/-- SHL, SHR and SAR of R137 on elements of width `w`. -/
def shlBits (w n x : Nat) : Nat := if n < w then fld (x * 2 ^ n) 0 w else 0

def shrBits (w n x : Nat) : Nat := if n < w then fld x 0 w / 2 ^ n else 0

def sarBits (w n x : Nat) : Nat := wrapInt w (if n < w then sext w x / 2 ^ n else if fld x (w - 1) 1 = 1 then -1 else 0)

/-- The format codes of CVT (R185): 0 FP32, 1 BF16, 2 FP16, 3 E4M3, 4 E5M2, 5 INT8, 6 INT16, 7 INT32. -/
inductive Elem where
  | float (f : Fmt)
  | int (w : Nat)
deriving DecidableEq, Repr

/-- The width of an element in bits. -/
def Elem.width : Elem → Nat
  | .float f => 1 + f.ebits + f.fbits
  | .int w => w

/-- A code of R185. -/
def cvtElem (c : Nat) : Elem :=
  match c with
  | 0 => .float fp32 | 1 => .float bf16 | 2 => .float fp16 | 3 => .float e4m3 | 4 => .float e5m2
  | 5 => .int 8 | 6 => .int 16 | _ => .int 32

/-- The exact value of an element (R126, R128). -/
def Elem.value (k : Elem) (x : Nat) : FVal :=
  match k with
  | .float f => fval f x
  | .int w => .ofInt (sext w x)

/-- Rounding of an exact value to an element (R134). -/
def Elem.round (k : Elem) (mode : Nat) (sat : Bool) (v : FVal) : Nat :=
  match k with
  | .float f => roundF f mode sat v
  | .int w => toIntBits w mode v

/-- A conversion of R134. An INT32 source is exact; every narrower source is exact in FP32 too. -/
def convert (src tgt : Elem) (mode : Nat) (sat : Bool) (x : Nat) : Nat := tgt.round mode sat (src.value x)

/-- CVT and CVTS of R236 on one register: n elements, the bits above them 0. DESIGN CHOICE (log entry 53): CVTS between equal
float formats saturates an infinite source, as R134 and R236 have it of any target, though R236 also says that values are
copied there. -/
def cvtWord (mode tgt src : Nat) (sat : Bool) (a : Nat) : Nat :=
  let s := cvtElem src
  let t := cvtElem tgt
  let n := 32 / max s.width t.width
  ((List.range n).map fun i => convert s t mode sat (fld a (i * s.width) s.width) * 2 ^ (i * t.width)).sum

/-- The element formats of a tensor identifier (R135): the format, or nothing for CB4, E8M0 and reserved codes. -/
def tidElem (fmt : Nat) : Option Elem :=
  match fmt with
  | 0 => some (.int 4) | 1 => some (.int 8) | 2 => some (.int 16) | 3 => some (.int 32)
  | 4 => some (.float fp16) | 5 => some (.float bf16) | 6 => some (.float fp32)
  | 7 => some (.float e4m3) | 8 => some (.float e5m2) | _ => none

/-- Element size in half bytes (R135, R136). -/
def tidHalves (fmt : Nat) : Nat :=
  match fmt with
  | 0 => 1 | 1 => 2 | 2 => 4 | 3 => 8 | 4 => 4 | 5 => 4 | 6 => 8 | 7 => 2 | 8 => 2 | 9 => 1 | _ => 2

/-- A packed operation on the elements of width `w` of a register (R128, R229, R234). -/
def packed (w : Nat) (f : Nat → Nat) : Word :=
  BitVec.ofNat 32 ((List.range (32 / w)).map fun i => f (i * w) * 2 ^ (i * w)).sum

end Sys2Proof.Machine
end

