-- ==== Sys2Proof/Config.lean ====
section
/-!
DEFINITION. What the manual leaves open, as constants without a value (guide: free values), and the figures of the part.
Nothing in Lean can compute an opaque constant, so a claim about one holds whatever its value is.
-/

namespace Sys2Proof

/-- A step that an agent or the outside makes: an event of the table, the next word of the run that a half issues, of
a remote function or of a dray thread, the word of a Celud thread, which is the instruction `i`, an event that a deadline
brings: OVERRUN of a node, CALL_LOST of a call; a handler entry whose frame waits for its channel (R339), or what a window goes
on to serve after an access that was made again (R341). -/
inductive Move where
  | event (i : Instr)
  | word (half : Nat)
  | remote (ex : Nat)
  | thread (team thread : Nat) (i : Instr)
  | drayA (chan : Nat)
  | drayX (chan : Nat)
  | overrun (node : Nat)
  | callLost (call : Nat)
  | entry (team coach : Nat)
  | serve
deriving DecidableEq, Repr, Inhabited

/-- The undefined 32-bit value numbered `k` of step `tick` (R6, R116, R176, R177; log entry 8). -/
opaque Config.freeWord : Nat → Nat → Word

/-- The undefined 56-bit accumulator value numbered `k` of step `tick` (R115, R116; log entry 8). -/
opaque Config.freeEntry : Nat → Nat → BitVec 56

/-- What a read at step `tick` returns for the byte at storage address `a` that was never written since power-on
(R91; log entry 5), or whose value is undefined for another cause (R88, R92, R121). -/
opaque Config.freeByte : Nat → Nat → Byte

/-- The XTS key under which an owner accesses memory for which none was loaded, by its number (R90; log entry 7). -/
opaque Config.unloadedKey : Nat → BitVec 512

/-- A choice that the device makes at step `tick`, numbered `k` (R5; log entry 2). -/
opaque Config.choose : Nat → Nat → Nat

/-- Whether a translation that may use the old entry or the new one uses the old one (R89; log entry 14). -/
opaque Config.useOld : Nat → Nat → Bool

/-- Calendar slots that pass in step `tick` when no move is due (log entry 2). -/
opaque Config.elapsed : Nat → Nat

/-- The move that is made in step `tick` when none is due: which agent acts next, or what arrives from outside, is open
(log entry 2). A move that is not possible in the state has no effect (log entry 11). -/
opaque Config.offer : Nat → Move

/-- SHA3-512 (FIPS 202), named by R397 and not defined by the manual (log entry 18). -/
opaque Config.sha3 : List Byte → BitVec 512

/-- ML-DSA-87 verification of a message and its signature under a public key (FIPS 204; log entry 18). -/
opaque Config.mldsaVerify : List Byte → List Byte → List Byte → Bool

/-- ML-DSA-87 signature of a message by the identity key (FIPS 204; log entry 18). -/
opaque Config.mldsaSign : List Byte → BitVec (8 * 4627)

/-- The identity public key of the part (R399). -/
opaque Config.identityKey : BitVec (8 * 2592)

/-- The digest of the Saolef public key fused into the part, and the fused rollback counter (R397). -/
opaque Config.fusedDigest : BitVec 512

/-- The fused rollback counter (R397). -/
opaque Config.rollback : Nat

/-- The ML-KEM-1024 encapsulation key of the device (FIPS 203, R398). -/
opaque Config.encapsulationKey : BitVec (8 * 1568)

/-- The XTS key that a wrapped key yields under the secret that an ML-KEM ciphertext carries, unless the unwrap fails
(FIPS 203, NIST SP 800-38F, R398; log entry 18). -/
opaque Config.unwrap : List Byte → List Byte → Option (BitVec 512)

/-- Cores, and their place in the package (R17, R18). -/
def Config.cores : Nat := 192

/-- The tower of a core (R18). -/
def Config.towerOf (core : Nat) : Nat := core / 48

/-- The cluster of a core, numbered over the package (R18). -/
def Config.clusterOf (core : Nat) : Nat := core / 8

/-- Slots of the bound of a latency class (R300). -/
def Config.bound (cls : Nat) : Nat := 16 * 4 ^ cls

end Sys2Proof
end

