-- ==== Sys2Proof/Machine/State.lean ====
section
/-!
DEFINITION. The state of the machine, all of it plain data, and the state after reset.
Registers of a coach stand in tables whose default is their value at launch; a register of a lane register file has the
key 32 · number + lane.
-/

namespace Sys2Proof.Machine

/-- The machine stops. -/
inductive Fault where
  /-- Raised by exec for an instruction of a coach, a thread or a dray when the state names no such agent as the issuer;
  step never asks for it. Safe: no hardware issues an instruction without an issuer. -/
  | noIssuer
deriving DecidableEq, Repr

/-- No meaning. -/
inductive Refusal where
  /-- Raised by an arm of exec for an instruction that has no meaning yet; no arm raises it now. Safe. -/
  | notModelled (mnemonic : String)
deriving DecidableEq, Repr

/-- The causes of R314. -/
inductive Cause where
  | illegal | fetchBounds | pageFault | misaligned | spaceRange | protection | regBounds
  | tagRange | tagBusy | requestArgs | tensorId | barrierCount | barrierStall
  | matrixPartial | matrixRendezvous | planeShape | foldMismatch | breakpointOverflow | remoteSubset | trap
deriving DecidableEq, Repr

/-- What one lane's own check found: the entry of the side buffer (R317). -/
structure LaneFault where
  lane : Nat
  cause : Cause
  reason : Nat
  space : Nat
  addr : Nat
deriving DecidableEq, Repr

/-- A trap as the stopping instruction raises it: the fields of the fault record that the cause fixes (R317). -/
structure Trap where
  cause : Cause
  reason : Nat := 0
  space : Nat := 0
  detail : BitVec 16 := 0
  addr : Nat := 0
  w6 : Word := 0
  lanes : List LaneFault := []
deriving DecidableEq, Repr

/-- The waits that park a sub-group (R32, R180). -/
inductive Park where
  /-- the switch marker: every long result issued before number `seq` (R180) -/
  | switch (seq : Nat)
  /-- BARSYNC, until the phase of barrier `b` differs from `phase` (R44) -/
  | bar (b : Nat) (phase : Bool)
  /-- BARSYNC recorded, the coach's own arrival not yet made (R45) -/
  | barHeld (b : Nat)
  /-- a sub-group that reaches barrier `b` again before its coach's arrival is made (R45) -/
  | barAgain (b e : Nat) (sync : Bool)
  | tagAny (k : Nat) (m : DWord) (taint : Bool)
  | tagAll (m : DWord)
  | mwait (jobs : List Nat)
  | rcwait (k : Nat) (token : Word) (taint : Bool)
  | rendezvous (id : Nat)
  /-- END, until the conditions of R42 hold for run `run` -/
  | ending (run : Nat)
  /-- step 3 of R48: the lanes that did not fault have reached a convergence point -/
  | converged
  /-- those lanes wait at a barrier instruction for the replayed ones, to fuse with them there and arrive once (R37, R48) -/
  | meeting
  /-- step 2 of R48: the lanes that faulted -/
  | faulted
deriving DecidableEq, Repr

/-- What the run-closing instruction of a run does once its trailer has issued (R175). -/
inductive Closer where
  | none
  | jump (target : Int) (link : Bool)
  | split (taken : Word) (target : Int)
  | endLanes
  | trap (code : BitVec 10) (value : Word)
  | rfe
  | icinv (scope : Nat)
  | barsync (pending : Option (Nat × Nat))
  | waitAny (k : Nat) (m : DWord) (taint : Bool)
  | waitAll (m : DWord)
  | rcwait (k : Nat) (token : Word) (taint : Bool)
deriving DecidableEq, Repr

/-- A run in progress (R175). -/
structure Run where
  no : Nat
  words : Nat := 0
  sw : Bool := false
  /-- the immediate of an IMMX that precedes the next word (R172) -/
  pre : Option (BitVec 24) := .none
  /-- the word being issued, for the fault record (R317) -/
  word : Word := 0
  closer : Closer := .none
  /-- offset, word, prefix and word count of the run-closing instruction or of a BARSYNC or MWAIT -/
  closerPc : Nat := 0
  closerWord : Word := 0
  closerPre : Option (BitVec 24) := .none
  closerWords : Nat := 0
  /-- the instruction that parks the sub-group at a barrier: offset, word, prefix and the words before it (R45, R46) -/
  stopAt : Option (Nat × Word × Option (BitVec 24) × Nat) := .none
  /-- parks that instructions of the run take once its trailer has issued (R281, R282) -/
  after : List Park := []
deriving DecidableEq, Repr

/-- An issuable sub-group of a coach (R35). -/
structure SubGroup where
  id : Nat
  pc : Nat
  mem : Word
  exec : Word
  parent : Option Nat := .none
  pass : Nat := 0
  overdue : Bool := false
  /-- slots named by the WAIT of the last trailer (R178) -/
  wait : BitVec 8 := 0
  parks : List Park := []
  /-- recorded barrier arrivals: barrier and expected count (R45) -/
  recs : List (Nat × Nat) := []
  run : Option Run := .none
  /-- lanes left over by a fault in compatibility mode, running to their next convergence point (R48) -/
  rest : Bool := false
  /-- the instruction that parked the sub-group at a barrier, for R45 and R46: its offset, word, prefix and the words
  of its run before it -/
  at_ : Nat × Word × Option (BitVec 24) × Nat := (0, 0, .none, 0)
  /-- the offset of the word after the last trailer (R313) -/
  fall : Nat := 0
  /-- the barrier of a BARSYNC of the sub-group that has not yet become an acquire (R111) -/
  sync : Option Nat := .none
  /-- number of the last run issued -/
  lastRun : Nat := 0
deriving DecidableEq, Repr

/-- A split sub-group that waits for its children to fuse (R36). -/
structure Parent where
  id : Nat
  mem : Word
  parent : Option Nat
deriving DecidableEq, Repr

/-- A long result that has not been observed (R177, R178): its run, its destinations (keys of the coach's registers),
its number in issue order, its accesses that wait for a channel, and whether it has returned. -/
structure LongRes where
  run : Nat
  dsts : List Nat
  seq : Nat := 0
  left : Nat := 0
  back : Bool := false
deriving DecidableEq, Repr

/-- The fault record of a stopped coach as far as the stop fixes it (R317). -/
structure Stopped where
  trap : Trap
  pc : Nat
  word : Word
  pre : Option (BitVec 24)
  resume : Nat
  exec : Word
  mem : Word
  run : Nat
  sub : Nat
  /-- the stop is the whole coach's in compatibility mode too (R45, R46) -/
  whole : Bool := false
deriving DecidableEq, Repr

/-- The context that a handler entry saves (R319). -/
structure Saved where
  fault : Stopped
  token : Word
  replayed : Bool := false
  s : List Word
  /-- the taint bits of S56 to S63 (R112) -/
  st : List Bool := []
  t : Cells Word
  tt : Cells Bool
  tw : Cells Bool
  vi : BitVec 8
  subs : List SubGroup
  parents : List Parent
deriving DecidableEq, Repr

/-- Storage writes that happen before a point, by their numbers: ranges, rising and apart (R109, R121). -/
abbrev Known := List (Nat × Nat)

/-- The instances of the scopes that an agent is in; none where it has one of its own (R100, R101). -/
structure Spot where
  coach : Option (Nat × Nat) := .none
  core : Option Nat := .none
  cluster : Option Nat := .none
  tower : Option Nat := .none
deriving DecidableEq, Repr

/-- A release: who makes it, its scope, and the writes that happen before it (R107 to R109). -/
structure Release where
  agent : Spot
  scope : Nat
  known : Known
deriving DecidableEq, Repr

/-- A coach context, or the registers of a remote function (R28, R264, R326). -/
structure Coach where
  allot : Nat := 0
  stage : Nat := 0
  slot : Nat := 0
  ctx : Nat := 0
  v : Cells Word := []
  vt : Cells Bool := []
  s : Cells Word := []
  st : Cells Bool := []
  t : Cells Word := []
  tt : Cells Bool := []
  /-- T registers that the run in progress has written, by lane (R176) -/
  tw : Cells Bool := []
  m : Cells Word := []
  pd : Cells DWord := []
  tids : Cells DWord := []
  w : Cells Nat := []
  runNo : Nat := 0
  vi : BitVec 8 := 0
  etol : Word := 0
  ecap : BitVec 11 := 0x400
  act : BitVec 2 := 0
  area : BitVec 46 := 0
  /-- V registers and scratchpad words written since the last OPFENCE, by key (R115) -/
  dirty : Cells Bool := []
  subs : List SubGroup := []
  parents : List Parent := []
  nextId : Nat := 1
  longs : List LongRes := []
  /-- long results issued so far -/
  longNo : Nat := 0
  waitCount : Nat := 0
  overdue : Bool := false
  /-- order in which contexts became resident (R32) -/
  since : Nat := 0
  faults : Nat := 1
  stops : List Stopped := []
  saved : Option Saved := .none
  /-- the token under which the coach is parked in the wait table (R323) -/
  parked : Option Word := .none
  /-- matrix jobs issued or joined and not matched by an MWAIT (R282) -/
  jobs : List Nat := []
  /-- operand fragments of those jobs, and result registers not yet written: job, first register, count (R116, R181) -/
  frags : List (Nat × Nat × Nat) := []
  board : List (Nat × Nat × Nat) := []
  /-- jobs whose operand registers the coach has written before their MWAIT (R116) -/
  spoiled : List Nat := []
  /-- unconsumed calls and recorded dispositions (R266, R268) -/
  calls : List Nat := []
  disps : List (Word × Nat × Word) := []
  ended : Bool := false
  /-- the storage writes that the coach has made or acquired, and those that it may execute: what it had acquired at its last
  ICINV (R121; log entry 15) -/
  acq : Known := []
  ic : Known := []
  /-- releases whose values the coach has read, which a fence acquires, and those that its own fences have made, which its later
  writes carry (R109) -/
  seen : List Release := []
  released : List Release := []
  /-- scratchpad bytes that requests of the coach have written and whose completion it has not observed: tag, first byte
  and length (R114, R115) -/
  landed : List (Nat × Nat × Nat) := []
deriving DecidableEq, Repr

/-- MEMGRANT (R75). -/
structure Grants where
  ocsz : Nat := 0
  spsz : Nat := 0
  lssz : Nat := 0
  cgsz : Nat := 0
  tagn : Nat := 0
deriving DecidableEq, Repr

/-- A named barrier (R43); an expected count of 0 is none. The writes released by the arrivals of the phase, and of the phases
completed (R111). -/
structure Barrier where
  count : Nat := 0
  expected : Nat := 0
  phase : Bool := false
  now : Known := []
  past : Known := []
deriving DecidableEq, Repr

/-- An envelope register (R356); bounds and lines are FP32 bits. -/
structure Env where
  lines : List (Word × Word) := []
  lo : Word := 0xFF800000
  hi : Word := 0x7F800000
  void : Bool := false
  empty : Bool := false
deriving DecidableEq, Repr

/-- One place of a byte: the scratchpad of a team, the slice of a lane, or storage (R72, R80). -/
inductive Loc where
  | core (team off : Nat)
  | lane (team lane off : Nat)
  | sto (a : Nat)
deriving DecidableEq, Repr

/-- A range of a request resolved at its issue: offset within the range, length, and the place of its first byte. -/
structure Piece where
  off : Nat
  len : Nat
  loc : Loc
deriving DecidableEq, Repr

/-- A participant that has arrived at a rendezvous (R281, R284): coach, Vf, result base, and the instruction for the
fault record. -/
structure Arrival where
  coach : Nat
  vf : Nat
  vr : Nat
  pc : Nat
  word : Word
deriving DecidableEq, Repr

/-- An open rendezvous (R281): the mask, the arrivals, and the words that must agree; its number becomes that of the job. -/
structure Rendezvous where
  id : Nat
  pm : Word
  loop : Bool
  opts : Nat
  block : List Word
  arrived : List Arrival
  a : List DWord
  b : List DWord
  ra : List Piece
  rb : List Piece
  sa : List Piece
  sb : List Piece
  /-- operand elements written without an OPFENCE, or undefined when their coach arrived (R115, R177): V registers as
  coach · 2^32 + key, scratchpad bytes as 2^20 + offset -/
  unseen : List Nat := []
deriving DecidableEq, Repr

/-- A Celud thread (R378). -/
structure Thread where
  regs : Cells DWord := []
  pc : Nat := 0
  bar : Option Nat := .none
  ended : Bool := false
  /-- jumps over a bar that the thread has taken since it passed the last one (R379, R382) -/
  trail : List Nat := []
deriving DecidableEq, Repr

/-- A translated Celud program and its threads (R378, R384). -/
structure Celud where
  words : List DWord
  threads : List Thread
  cslice : Nat
  native : Translation := {}
  /-- threads disagree about a bar: the node may be stopped (R379) -/
  broken : Bool := false
deriving DecidableEq, Repr

/-- A handler image of an owner (R315, R321). -/
structure Image where
  vbase : Nat
  len : Nat
  pool : Nat
deriving DecidableEq, Repr

/-- Where a team stands: resident, stopping (whether for an eviction, whether its requests stop too, and the classes that
have acknowledged), or saved (R306 to R311). -/
inductive TeamState where
  | resident
  | stopping (evict all : Bool) (acked : List EngineClass)
  | saved (evict : Bool)
deriving DecidableEq, Repr

/-- A team (R24). -/
structure Team where
  node : Nat := 0
  core : Nat := 0
  oid : Nat := 0
  tx : Nat := 0
  ty : Nat := 0
  tz : Nat := 0
  grants : Grants := {}
  /-- the MiB of the overhead column that the team was granted, in the order of its offsets (R76) -/
  column : List Nat := []
  rev : Nat := 3
  compat : Bool := false
  envu : Bool := false
  accu : Bool := false
  code : Nat := 0
  codeLen : Nat := 0
  scratch : Cells Byte := []
  lanes : Cells Byte := []
  barriers : Cells Barrier := []
  tags : DWord := 0
  rdvs : List Rendezvous := []
  launchSlice : Nat := 0
  /-- LEN as last written and clamped, and the effective slice as last computed (R308, R309) -/
  len : Nat := 0
  slice : Nat := 0
  sinceIn : Nat := 0
  acc : Cells (BitVec 56) := []
  envs : Cells Env := []
  coaches : List Coach := []
  celud : Option Celud := .none
  /-- the handler image as set at launch, and again at resumption (R219, R326) -/
  image : Option Image := .none
  state : TeamState := .resident
  /-- requests that an eviction stopped (R310) -/
  stopped : List Nat := []
  /-- the slot of the last stop order (R306) -/
  ordered : Nat := 0
  /-- the completion of the last request on each tag, as a release (R114) -/
  done : Cells Release := []
deriving DecidableEq, Repr

/-- Storage behind GLOBAL, CHIP and the overhead columns: the bytes written since power-on, the key of each sector,
and the number of the write that last wrote each byte. -/
structure Storage where
  bytes : List Host.Cell := []
  owner : Cells Nat := []
  stamp : Cells Nat := []
  writes : Nat := 0
deriving DecidableEq, Repr

/-- What a request does (R257, R261, R288). -/
inductive Work where
  | copy (xf sfmt dfmt : Nat) (scalar : Word) (len : Nat) (src dst : List Piece)
  | gather (scatter : Bool) (iw es count bound : Nat) (table index dense : List Piece)
  | mvstack (a b : List DWord) (va vb vy : List Piece) (scales : List Piece × List Piece)
deriving DecidableEq, Repr

/-- An admitted engine request (R94, R255). -/
structure Request where
  team : Nat
  coach : Nat
  oid : Nat
  tag : Nat
  cls : Nat
  scope : Nat
  deadline : Nat
  bounded : Bool := true
  work : Work
  /-- pages of which the request holds a snapshot (R95): virtual base and size -/
  pages : List (Nat × Nat) := []
  /-- the source bytes as they stood at issue, none where the channel of the byte was held then (R257, R339) -/
  old : List (Option Byte) := []
  /-- pseudo-channels whose dray request has not completed (R344) -/
  parts : List Nat := []
  /-- the node whose own work the request is (a gather-scatter node, R352) -/
  node : Option Nat := .none
  /-- elements, indices or outputs performed before the request was stopped (R306) -/
  at_ : Nat := 0
  /-- a hardware fault may make the request late (R304) -/
  excused : Bool := false
  /-- the storage writes that its issue released, and its own (R113, R114) -/
  known : Known := []
deriving DecidableEq, Repr

/-- A matrix-unit job (R282 to R287). -/
inductive JobWork where
  | mma (a b : List DWord) (tile : Nat) (za rb : Bool) (rm : Nat) (frags : List Arrival) (sa sb : List Piece)
  | mloop (a b : List DWord) (tile ks : Nat) (za : Bool) (rm : Nat) (ra rb sa sb : List Piece)
  | mdrain (out : List DWord) (tile : Nat) (tm sat : Bool) (rm : Nat) (dst max : List Piece)
  | quant2 (i r c : List DWord) (src rowOut colOut rowScale colScale : List Piece)
deriving DecidableEq, Repr

/-- A started matrix job (R282). -/
structure Job where
  id : Nat
  team : Nat
  core : Nat
  oid : Nat
  coaches : List Nat
  work : JobWork
  pages : List (Nat × Nat) := []
  deadline : Nat := 0
  /-- operand elements written without an OPFENCE (R115) -/
  unseen : List Nat := []
  /-- an operand or output was touched before the MWAIT: the results are undefined (R116) -/
  spoiled : Bool := false
  done : Bool := false
  /-- the results have become undefined after the job was done (R116) -/
  freed : Bool := false
  /-- K-steps of an MLOOP performed before it was stopped (R283, R306) -/
  at_ : Nat := 0
  /-- an MDRAIN that may not take its snapshots yet: output layer and base, tile-maximum layer and offset (R95) -/
  late : Option (Nat × Nat × Nat × Nat) := .none
  /-- the storage writes of its results (R116) -/
  known : Known := []
deriving DecidableEq, Repr

/-- A remote call (R262 to R269). -/
structure Call where
  token : Word
  ex : Nat
  team : Nat
  coach : Nat
  oid : Nat
  deadline : Nat
  nret : Nat
  payload : List Word
  entry : Nat
  /-- the caller's team as it stood at the call, for the code segment, the owner and the overhead grant (R264) -/
  caller : Team
  fn : Option Coach := .none
  started : Bool := false
  /-- the slots at which the function started and ended -/
  startedAt : Nat := 0
  endedAt : Option Nat := .none
  /-- disposition and the words that the reply carries (R264) -/
  result : Option (Nat × List Word) := .none
  lost : Bool := false
  delivered : Bool := false
  probing : Bool := false
  batch : Option (Nat × Nat) := .none
  /-- a call that the fabric relay has sent, under its executor number of R395 -/
  relay : Option Nat := .none
  excused : Bool := false
  /-- the storage writes that its issue released (R117) -/
  known : Known := []
deriving DecidableEq, Repr

/-- An executor (R353, R354). -/
structure Executor where
  queue : List Nat := []
  running : Option Nat := .none
  seq : Nat := 0
  /-- the last 4,096 calls admitted: token and, once final, the disposition and fault code -/
  recent : List (Word × Option (Nat × Word)) := []
deriving DecidableEq, Repr

/-- What an access that waits for a channel does once it is performed: a load, a store of bytes, or an atomic by its
operation code, v0 and v1 (R246, R249); or a move that accesses the channel, to read or only to write, and is made again. -/
inductive WaitWork where
  | load
  | store (bytes : List Byte)
  | atomic (op : Nat) (v0 v1 : Word)
  | again (m : Move) (reads : Bool)
deriving DecidableEq, Repr

/-- An ordinary access that waits for its channel (R31, R339, R341). For one of an instruction that has issued: the issuer,
the registers of its result and the number of its long result, the storage address, the size, and the leaf; the scope of an
acquire, the issuer's place, the scope of an AR fence after it (R123), and the releases that its write makes (R107); and the
number of the write that it is to make, which its place in the order of all writes gave it (R121). -/
structure Waiting where
  chan : Nat
  work : WaitWork
  ctx : Ctx := .none
  keys : List Nat := []
  seq : Nat := 0
  a : Nat := 0
  n : Nat := 0
  leaf : Nat := 0
  oid : Nat := 0
  core : Option Nat := .none
  acq : Option Nat := .none
  spot : Spot := {}
  fence : Option Nat := .none
  rels : List Release := []
  stamp : Nat := 0
deriving DecidableEq, Repr

/-- The releases that a reader of a place synchronises with (R109). -/
structure Posted where
  at_ : Piece
  rels : List Release
deriving DecidableEq, Repr

/-- A row-queue command (R334). -/
inductive RowCmd where
  | open (j : Nat)
  | read (j c n : Nat)
  | wback (j c k : Nat) (fp32 : Bool)
  | close (j : Nat)
deriving DecidableEq, Repr

/-- A fabric reduction packet (R345). -/
structure Packet where
  oid : Nat
  sector : Nat
  fmt : Nat
  op : Nat
  elems : List Byte
deriving DecidableEq, Repr

/-- A dray that runs a kernel (R331). -/
structure Dray where
  node : Nat
  oid : Nat
  /-- physical base of each granule of the region (R330) -/
  rows : List Nat
  progA : List Word
  progX : List Word
  j : Cells Word := []
  c : Cells (BitVec 16) := []
  f : Cells Word := []
  h : Cells Word := []
  ba : Cells Word := []
  rel : Cells Nat := []
  rowq : List RowCmd := []
  dataq : List (List Byte) := []
  /-- the open row handle of each bank -/
  opened : Cells Nat := []
  pcA : Nat := 0
  pcX : Nat := 0
  endA : Bool := false
  endX : Bool := false
  /-- column commands since the last row boundary, boundaries since the last window, and whether the dray stands at a
  boundary that has been counted (R340, R341) -/
  columns : Nat := 0
  boundaries : Nat := 0
  counted : Bool := false
  window : Bool := false
  packets : List Packet := []
  faulted : Bool := false
  /-- the kernel has ended or stopped on this dray (R338) -/
  stopped : Bool := false
  saved : Bool := false
deriving DecidableEq, Repr

/-- A submission queue (R291 to R294). -/
structure Queue where
  base : Nat := 0
  en : Bool := false
  err : Bool := false
  lgsz : Nat := 4
  pmax : Nat := 0
  oid : Nat := 0
  tail : Word := 0
  prog : Word := 0
  state : Nat := 0
  /-- count of records fetched -/
  fetched : Word := 0
  /-- completed entries and their fault codes, by count -/
  done : Cells Nat := []
  /-- a QCFG write held in the context block, and QBASE writes likewise (R292) -/
  later : Option Word := .none
  /-- accepted QTAIL values whose records have not all been fetched, with the storage write before each (R293) -/
  covers : List (Word × Nat) := []
deriving DecidableEq, Repr

/-- A code object as read from GLOBAL (R375). -/
structure Object where
  celud : Bool := false
  rev : Nat := 3
  compat : Bool := false
  envu : Bool := false
  accu : Bool := false
  allot : Nat := 16
  lssz : Nat := 0
  spsz : Nat := 0
  ocsz : Nat := 0
  cgsz : Nat := 0
  tagn : Nat := 0
  nc : Nat := 1
  gx : Nat := 1
  gy : Nat := 1
  gz : Nat := 1
  threads : Nat := 0
  stages : List Nat := []
  code : Nat := 0
  codeLen : Nat := 0
  entry : Nat := 0
  cslice : Nat := 0
  tids : Cells DWord := []
  words : List DWord := []
  native : Translation := {}
deriving DecidableEq, Repr

/-- A node in the ready pool or admitted (R295 to R299). -/
structure Node where
  q : Nat
  count : Word
  entry : Nat
  oid : Nat
  words : List DWord
  fetchedAt : Nat
  object : Option Object := .none
  translating : Bool := false
  refusals : Nat := 0
  retry : Nat := 0
  /-- slot of admission, once admitted -/
  admitted : Option Nat := .none
  deadline : Nat := 0
  bounded : Bool := true
  /-- teams not yet launched: coordinates -/
  unlaunched : List (Nat × Nat × Nat) := []
  /-- invocations of a batch not yet ended (R355), and whether one has run longer than its reservation (R304) -/
  batch : Nat := 0
  late : Bool := false
  /-- the node is being stopped with this fault code (R50, R299, R320, R321) -/
  stop : Option Nat := .none
  /-- the queue was switched out with the node admitted (R311) -/
  out : Bool := false
  /-- drays of an admitted kernel node whose channels another kernel still holds (R302) -/
  start : List (Nat × Dray) := []
  excused : Bool := false
deriving DecidableEq, Repr

/-- A calendar reservation: resource, first slot, slots, amount in each (R301, R302). -/
structure Reserve where
  res : Nat
  slot : Nat
  len : Nat
  amount : Nat
deriving DecidableEq, Repr

/-- A TLB entry of a cluster (R84): the page, and the leaf it was built from. -/
structure Tlb where
  cluster : Nat
  oid : Nat
  va : Nat
  size : Nat
  leaf : DWord
deriving DecidableEq, Repr

/-- A page swap (R95). -/
structure Swap where
  id : Nat
  oid : Nat
  va : Nat
  size : Nat
  leafAt : Nat
  old : Nat
  new : Nat
  begun : Bool := false
deriving DecidableEq, Repr

/-- An entry of a tower's wait table (R323). -/
structure WaitEntry where
  tower : Nat
  token : Word
  oid : Nat
  addr : Option Nat
  team : Nat
  coach : Nat
deriving DecidableEq, Repr

/-- A half of an issue slot: the coach and sub-group in the middle of a run, and the one chosen last (R31, R32). -/
structure Half where
  inRun : Option (Nat × Nat × Nat) := .none
  last : Option (Nat × Nat) := .none
deriving DecidableEq, Repr

/-- The management registers (R392). -/
structure Mgmt where
  calRes : Nat := 0
  calSlot : Nat := 0
  logIndex : Nat := 0
  shootOid : Nat := 0
  shootVpn : Nat := 0
  repOid : Nat := 0
  repToken : Word := 0
  powerCap : Nat := 3600
  tjmax : Nat := 0
  apEn : Bool := false
  apErr : Bool := false
  apBase : Nat := 0
  apOid : Nat := 0
deriving DecidableEq, Repr

/-- The axle mailbox (R398). -/
structure Mailbox where
  command : Word := 0
  status : Word := 0
  request : Cells Byte := []
  response : Cells Byte := []
deriving DecidableEq, Repr

/-- Whether the part waits for power-on, runs, is in recovery, or is off (R397, R404). -/
inductive Mode where
  | inReset | running | recovery | off
deriving DecidableEq, Repr

/-- Firmware images and the configuration block as the boot ROM finds them (R397, R401); inputs of the part. -/
structure Images where
  axle : List Byte := []
  axleSig : List Byte := []
  saolefKey : List Byte := []
  config : List (List Byte) := []
  coachwork : List Byte := []
  coachworkSig : List Byte := []
deriving DecidableEq, Repr

/-- A call that the fabric relay has sent (R395): its token, and its disposition and fault code once known. -/
structure Relayed where
  req : FabricReq
  token : Word := 0
  disp : Option (Nat × Word) := .none
deriving DecidableEq, Repr

/-- The whole machine. -/
structure State where
  /-- the number of the step, which numbers the free values (log entry 8) -/
  tick : Nat := 0
  /-- moves that are made next, in order, and the move at hand (log entry 2) -/
  due : List Move := []
  now : Option Move := .none
  /-- the agent and the sub-group whose instruction exec runs (log entry 3) -/
  cur : Ctx := .none
  curSub : Nat := 0
  mode : Mode := .inReset
  /-- calendar slots since power-on (R295) -/
  slot : Nat := 0
  /-- key epoch of each OID, and the OIDs that hold a key (R398, R400) -/
  epochs : Cells Nat := []
  keys : List Nat := []
  /-- the XTS keys that have been loaded, by key number (R90, R398) -/
  keyBits : Cells (BitVec 512) := []
  roots : Cells Nat := []
  granules : Cells Nat := []
  images : Cells Image := []
  mem : Storage := {}
  tlb : List Tlb := []
  swaps : List Swap := []
  calendar : List Reserve := []
  /-- capacities in force where they differ from R301: (resource, capacity) (R347, R389, R403) -/
  capacity : Cells Nat := []
  ratios : Cells (Nat × Nat) := []
  /-- clock ratios ordered for a stack and not yet in force (R346) -/
  ratioNext : Cells (Nat × Nat) := []
  /-- accesses of instructions that wait for a channel, in arrival order (R341) -/
  arrivals : List Waiting := []
  waits : List WaitEntry := []
  queues : Cells Queue := []
  /-- the queue being served and the records taken from it in this turn (R297) -/
  turn : Nat × Nat := (0, 0)
  nodes : Cells Node := []
  /-- translations kept for an owner and an object: the object as it was read, and the result (R384) -/
  translations : List (Nat × Nat × Object × Translation) := []
  teams : Cells Team := []
  requests : Cells Request := []
  jobs : List Job := []
  executors : Cells Executor := []
  calls : Cells Call := []
  drays : Cells Dray := []
  halves : Cells Half := []
  /-- per team and page: the write before its first read under K = 1 (R88) -/
  stable : Cells Nat := []
  /-- places whose values were released, and the writes that happened before the end of the remote function of each token
  (R109, R118) -/
  posts : List Posted := []
  ran : Cells Known := []
  /-- a counter that names nodes, teams, requests, jobs, calls and swaps -/
  fresh : Nat := 1
  mgmt : Mgmt := {}
  mailbox : Mailbox := {}
  meas : Cells (List Byte) := []
  found : Images := {}
  /-- UCIe modules in training order: whether each is trained; and the fabric switch of the configuration block -/
  ucie : List Bool := [true, true, true, true]
  fabricOn : Bool := false
  /-- lifetime counters, live and as last written to MRAM (R402) -/
  life : Cells Nat := []
  lifeMram : Cells Nat := []
  /-- what the fabric relay has sent, calls under their executor numbers and the last copy or packet under 0 (R395), and
  sequence numbers of its table entries -/
  relayed : Cells Relayed := []
  relaySeq : Cells Nat := []
  /-- the hint that the last arriving and the last outbound fabric request was refused with, if it was (R394) -/
  peerHint : Option Nat := .none
  relayHint : Option Nat := .none
deriving DecidableEq, Repr

/-- The machine right after reset: in reset until the boot ROM runs (R397), every register at the value the manual gives
or the log names (log entry 4), nothing listed in memory. -/
def State.reset : State := {}

end Sys2Proof.Machine
end

