-- ==== Sys2Proof/Machine/Xts.lean ====
section
/-!
DEFINITION. AES-256-XTS (IEEE 1619, FIPS 197), which R90 names: the cipher of one 32-byte sector. A block is a list of
16 bytes, each a number below 256.
-/

namespace Sys2Proof.Machine

/-! ### AES-256 -/

/-- The substitution table, 32 entries a number, entry 0 lowest (FIPS 197). -/
def aesBox : List Nat :=
  [0xC072A49CAFA2D4ADF04759FA7DC982CA76ABD7FE2B670130C56F6BF27B777C63,
   0x75B227EBE28012079A059618C323C7041531D871F1E5A534CCF73F362693FDB7,
   0xCF584C4A39BECB6A5BB1FC20ED00D153842FE329B3D63B52A05A6E1B1A2C8309,
   0xD2F3FF1021DAB6BCF5389D928F40A351A89F3C507F02F94585334D43FBAAEFD0,
   0xDB0B5EDE14B8EE4688902A22DC4F816073195D643D7EA7C41744975FEC130CCD,
   0x08AE7A65EAF4566CA94ED58D6D37C8E779E4959162ACD3C25C2406490A3A32E0,
   0x9E1DC186B95735610EF6034866B53E708A8BBD4B1F74DDE8C6B4A61C2E2578BA,
   0x16BB54B00F2D99416842E6BF0D89A18CDF2855CEE9871E9B948ED9691198F8E1]

/-- Its inverse. -/
def aesUnbox : List Nat :=
  [0xCBE9DEC444438E3487FF2F9B8239E37CFBD7F3819EA340BF38A53630D56A0952,
   0x25D18B6D49A25B76B224D92866A12E084EC3FA420B954CEE3D23C2A632947B54,
   0x849D8DA75746155EDAB9EDFD5048706C92B6655DCC5CA4D41698688664F6F872,
   0x6B8A130103BDAFC1020F3FCA8F1E2CD00645B3B80558E4F70AD3BC8C00ABD890,
   0x6EDF751CE837F9E28535ADE72274AC9673E6B4F0CECFF297EADC674F4111913A,
   0xF45ACD78FEC0DB9A2079D2C64B3E56FC1BBE18AA0E62B76F89C5291D711AF147,
   0xEF9CC9939F7AE52D0D4AB519A97F51605FEC8027591012B131C7078833A8DD1F,
   0x7D0C2155631469E126D677BA7E042B17619953833CBBEBC8B0F52AAE4D3BE0A0]

/-- Entry `x` of a substitution table. -/
def boxed (t : List Nat) (x : Nat) : Nat := t.getD (x / 32) 0 / 256 ^ (x % 32) % 256

/-- Twice an element of the field of 256 elements. -/
def gfTwice (a : Nat) : Nat := if a < 128 then 2 * a else (2 * a) ^^^ 0x11B

/-- A product in that field, the factor `c` being below 16. -/
def gfMul (c a : Nat) : Nat :=
  let b := gfTwice a
  let d := gfTwice b
  let e := gfTwice d
  (if c % 2 = 1 then a else 0) ^^^ (if c / 2 % 2 = 1 then b else 0) ^^^ (if c / 4 % 2 = 1 then d else 0)
    ^^^ (if c / 8 % 2 = 1 then e else 0)

/-- Two lists of bytes added. -/
def xorBytes (a b : List Nat) : List Nat := a.zipWith (· ^^^ ·) b

/-- The key words that follow the newest eight, which are listed newest first: `n` more from word `i` on. -/
def aesWords : Nat → Nat → Nat → List (List Nat) → List (List Nat)
  | 0, _, _, ws => ws
  | n + 1, i, rc, ws =>
    let t := ws.headD []
    let u :=
      if i % 8 = 0 then
        match t.map (boxed aesBox) with
        | a :: r => xorBytes (r ++ [a]) [rc, 0, 0, 0]
        | [] => []
      else if i % 8 = 4 then t.map (boxed aesBox) else t
    aesWords n (i + 1) (if i % 8 = 0 then gfTwice rc else rc) (xorBytes (ws.getD 7 []) u :: ws)

/-- A list cut into pieces of `k`, at most `n` of them. -/
def cut (k : Nat) : Nat → List Nat → List (List Nat)
  | 0, _ => []
  | n + 1, l => l.take k :: cut k n (l.drop k)

/-- The 15 round keys of a 32-byte key. -/
def aesKeys (key : List Nat) : List (List Nat) :=
  cut 16 15 (aesWords 52 8 1 (cut 4 8 key).reverse).reverse.flatten

/-- The rows of a block turned left by `f` of the row's number. -/
def turnRows (f : Nat → Nat) (s : List Nat) : List Nat := (List.range 16).map fun i => s.getD ((i + 4 * f (i % 4)) % 16) 0

/-- The columns of a block multiplied by a circulant matrix, given by its first row. -/
def mixColumns (m s : List Nat) : List Nat :=
  (List.range 16).map fun i =>
    (List.range 4).foldl (fun x j => x ^^^ gfMul (m.getD ((j + 4 - i % 4) % 4) 0) (s.getD (i / 4 * 4 + j) 0)) 0

/-- AES-256 encryption of a block under round keys. -/
def aesEncrypt : List (List Nat) → List Nat → List Nat
  | k :: ks, s => ks.zipIdx.foldl (fun s r =>
      let t := turnRows id (s.map (boxed aesBox))
      xorBytes (if r.2 = 13 then t else mixColumns [2, 3, 1, 1] t) r.1) (xorBytes s k)
  | [], s => s

/-- AES-256 decryption of a block under round keys. -/
def aesDecrypt (keys : List (List Nat)) (s : List Nat) : List Nat :=
  match keys.reverse with
  | k :: ks => ks.zipIdx.foldl (fun s r =>
      let t := xorBytes ((turnRows (4 - ·) s).map (boxed aesUnbox)) r.1
      if r.2 = 13 then t else mixColumns [14, 11, 13, 9] t) (xorBytes s k)
  | [] => s

/-! ### XTS -/

/-- The `n` little-endian bytes of a number. -/
def natBytes (n x : Nat) : List Nat := (List.range n).map fun i => x / 256 ^ i % 256

/-- The number of little-endian bytes. -/
def bytesNat : List Nat → Nat
  | [] => 0
  | b :: r => b + 256 * bytesNat r

/-- The next block's mask: the last, times the generator of the field of 2^128 elements. -/
def xtsNext (t : Nat) : Nat := if t < 2 ^ 127 then 2 * t else (2 * t - 2 ^ 128) ^^^ 0x87

/-- A sector of 32 bytes through AES-256-XTS, block by block, in the direction of `f` (IEEE 1619): the data key is the lower
half of the 512-bit key, the tweak key the upper half. -/
def xts (f : List (List Nat) → List Nat → List Nat) (key tweak x : Nat) : Nat :=
  let keys := aesKeys (natBytes 32 key)
  let t0 := bytesNat (aesEncrypt (aesKeys (natBytes 32 (key / 2 ^ 256))) (natBytes 16 tweak))
  let block (t b : Nat) : Nat := bytesNat (f keys (natBytes 16 (b ^^^ t))) ^^^ t
  block t0 (x % 2 ^ 128) + 2 ^ 128 * block (xtsNext t0) (x / 2 ^ 128 % 2 ^ 128)

/-- AES-256-XTS encryption of one sector under a 512-bit key (R90). -/
def xtsEncrypt (key : BitVec 512) (tweak : Nat) (x : BitVec 256) : BitVec 256 :=
  BitVec.ofNat 256 (xts aesEncrypt key.toNat tweak x.toNat)

/-- AES-256-XTS decryption of one sector (R90). -/
def xtsDecrypt (key : BitVec 512) (tweak : Nat) (x : BitVec 256) : BitVec 256 :=
  BitVec.ofNat 256 (xts aesDecrypt key.toNat tweak x.toNat)

end Sys2Proof.Machine
end

