-- ==== Sys2Proof/Machine/Memory.lean ====
section
/-!
DEFINITION. Storage and translation: keys and left-overs (R90, R91), page walks and the cluster TLBs (R84 to R89), the
place that each address space gives a byte (R72 to R79), and reads and writes of bytes.
Storage addresses: physical addresses below 2^52; CHIP offset o at 2^52 + o; offset o of the overhead column of core n at
2^53 + n · 2^26 + o (log entry 7).
-/

namespace Sys2Proof.Machine

/-- First storage address of the CHIP space. -/
def chipBase : Nat := 2 ^ 52

/-- First storage address of the overhead column of a core. -/
def columnBase (core : Nat) : Nat := 2 ^ 53 + core * 2 ^ 26

/-- The number of the key that an owner identifier holds now, from the identifier and its key epoch (log entry 7); number 0
is no key's. -/
def State.keyOf (s : State) (oid : Nat) : Nat := oid + 4096 * Cells.get 0 s.epochs oid + 1

/-- The bits of a key by its number (R90, R398). -/
def State.bitsOf (s : State) (key : Nat) : BitVec 512 := (Cells.find s.keyBits key).getD (Config.unloadedKey key)

/-- The bytes of a sector as they were written, a byte never written being undefined (R91). -/
def State.sector (s : State) (k : Nat) : BitVec 256 :=
  BitVec.ofNat 256 ((List.range 32).foldl (fun n i =>
    n + ((Cells.find s.mem.bytes (32 * k + i)).getD (Config.freeByte s.tick (32 * k + i))).toNat * 256 ^ i) 0)

/-- Byte `a` of a sector last written under key `w`, as key `r` reads it: the ciphertext decrypted under the other key
(R90, R91). -/
def State.alienByte (s : State) (w r a : Nat) : Byte :=
  let c := xtsEncrypt (s.bitsOf w) (32 * (a / 32)) (s.sector (a / 32))
  BitVec.ofNat 8 ((xtsDecrypt (s.bitsOf r) (32 * (a / 32)) c).toNat / 256 ^ (a % 32))

/-- One byte of storage as an agent of owner `oid` reads it (R90, R91): plain text under the agent's own key, undefined in
a sector never written, and else what the ciphertext of another key decrypts to. -/
def State.readSto (s : State) (oid a : Nat) : Byte :=
  let w := Cells.get 0 s.mem.owner (a / 32)
  if w = s.keyOf oid || w = 0 then (Cells.find s.mem.bytes a).getD (Config.freeByte s.tick a)
  else s.alienByte w (s.keyOf oid) a

/-- Storage with byte `a` written under key `key`. -/
def Storage.write (m : Storage) (key a : Nat) (b : Byte) : Storage :=
  { bytes := Cells.put m.bytes a b, owner := Cells.set 0 m.owner (a / 32) key,
    stamp := Cells.set 0 m.stamp a (m.writes + 1), writes := m.writes + 1 }

/-- Storage with the line of address `a` refilled under key `key`: a sector that stood under another key holds from now on what
its ciphertext decrypts to (R82, R91; log entry 6). -/
def State.refilled (s : State) (key a : Nat) : Storage :=
  let w := Cells.get 0 s.mem.owner (a / 32)
  if w = key || w = 0 then s.mem
  else
    let at_ (i : Nat) : Nat := 32 * (a / 32) + i
    { s.mem with
      bytes := (List.range 32).foldl (fun c i => Cells.put c (at_ i) (s.alienByte w key (at_ i))) s.mem.bytes
      stamp := (List.range 32).foldl (fun c i => Cells.set 0 c (at_ i) (s.mem.writes + 1)) s.mem.stamp }

/-- The canonical form of storage: the addresses of the listed bytes rise strictly. What an unlisted byte reads as is a
free value, so no listed byte can equal it by definition (log entry 5). -/
def Storage.wf (m : Storage) : Bool := Cells.rising m.bytes && Cells.wf 0 m.owner && Cells.wf 0 m.stamp

/-- Memory.wf of the package: the canonical form of all storage of the state. -/
abbrev Memory.wf (s : State) : Prop := s.mem.wf = true

/-- A write of one byte of storage by an agent of owner `oid`. -/
def State.writeSto (s : State) (oid a : Nat) (b : Byte) : State :=
  { s with mem := (s.refilled (s.keyOf oid) a).write (s.keyOf oid) a b }

/-! ### Channels -/

/-- The pseudo-channel of the package that holds a physical HBM address (R80). -/
def channelOf (pa : Nat) : Nat := 512 * fld pa 36 3 + fld pa 11 9

/-- A channel takes no ordinary access now: its stack awaits a new clock ratio (R346), or a kernel holds it and no
arbitration window is open (R339). -/
def State.chanHeld (s : State) (ch : Nat) : Bool :=
  (Cells.find s.ratioNext (ch / 512)).isSome || match Cells.find s.drays ch with
    | some d => !d.window && !d.saved && !d.stopped
    | none => false

/-- An access to a storage address must wait for its channel. -/
def State.channelHeld (s : State) (a : Nat) : Bool := decide (a < 2 ^ 39) && s.chanHeld (channelOf a)

/-- An access to a place must wait. -/
def State.blocked (s : State) : Loc → Bool
  | .sto a => s.channelHeld a
  | _ => false

/-! ### Translation -/

/-- The little-endian number of bytes, the first lowest (R10). -/
def leNat : List Byte → Nat
  | [] => 0
  | b :: r => b.toNat + 256 * leNat r

/-- The `n` little-endian bytes of a number (R10). -/
def leBytes (n x : Nat) : List Byte := (List.range n).map fun i => BitVec.ofNat 8 (x / 256 ^ i)

/-- `n` bytes of storage from address `a`. -/
def State.readStoN (s : State) (oid a n : Nat) : List Byte := (List.range n).map fun i => s.readSto oid (a + i)

/-- Kinds of access that a leaf permits or denies (R86). -/
inductive Access where
  | load | store | atomic | fetch
deriving DecidableEq, Repr

/-- The reason code of R314 with which a leaf denies an access, or 0 (R86). -/
def denied (acc : Access) (leaf : Nat) : Nat :=
  match acc with
  | .load => if fld leaf 4 1 = 0 then 4 else 0
  | .store => if fld leaf 5 1 = 0 then 5 else 0
  | .atomic => if fld leaf 4 1 = 0 then 4 else if fld leaf 5 1 = 0 then 5 else 0
  | .fetch => if fld leaf 6 1 = 0 then 6 else 0

/-- The page size that a leaf of a level maps (R84). -/
def pageSize : Nat → Nat
  | 1 => 2 ^ 30
  | 2 => 2 ^ 21
  | _ => 2 ^ 16

/-- Whether a physical range is backed (R80). -/
def backed (pa size : Nat) : Bool := decide (pa + size ≤ 2 ^ 39) || (decide (2 ^ 51 ≤ pa) && decide (pa + size ≤ 2 ^ 52))

/-- Whether a leaf entry met at a level is malformed (R85, R86). -/
def leafMalformed (lvl e : Nat) : Bool :=
  decide (lvl = 0) || decide (fld e 52 11 ≠ 0) || decide (fld e 7 9 ≠ 0) || decide (fld e 2 2 ≠ 3 - lvl)
    || decide (fld e 16 36 * 2 ^ 16 % pageSize lvl ≠ 0) || (decide (fld e 63 1 = 1) && decide (fld e 5 1 = 1))

/-- Whether a table entry met at a level is malformed (R85, R86). -/
def tableMalformed (lvl e : Nat) : Bool :=
  decide (lvl = 3) || decide (fld e 52 12 ≠ 0) || decide (fld e 2 6 ≠ 0)
    || decide (fld e 8 44 * 256 % (match lvl with | 0 => 2 ^ 16 | 1 => 2 ^ 12 | _ => 2 ^ 8) ≠ 0)

/-- What a walk meets: a reason of R86; a table in a channel that is held, for which it must wait (R339); or a leaf, its level
and the address of its entry. -/
inductive Walk where
  | fails (reason : Nat)
  | waits (chan : Nat)
  | leaf (e lvl at_ : Nat)
deriving DecidableEq, Repr

/-- The walk from level `lvl` on: each level still to go gives the lowest VA bit of its index and the index width
(R84 to R86). A leaf is met whether or not its page is backed. DESIGN CHOICE (log entry 53): a table in unbacked
physical space is read as memory that nothing has written. -/
def State.walkFrom (s : State) (oid va : Nat) : List (Nat × Nat) → Nat → Nat → Walk
  | [], _, _ => .fails 2
  | (lo, w) :: rest, lvl, table =>
    let at_ := table + 8 * fld va lo w
    let e := leNat (s.readStoN oid at_ 8)
    if s.channelHeld at_ then .waits (channelOf at_)
    else if fld e 0 1 = 0 then .fails 1
    else if fld e 1 1 = 1 then
      if leafMalformed lvl e then .fails 2 else .leaf e lvl at_
    else if tableMalformed lvl e then .fails 2
    else s.walkFrom oid va rest (lvl + 1) (fld e 8 44 * 256)

/-- The walk of R84 to a leaf for a GLOBAL virtual address, whether or not the leaf's page is backed (R324). -/
def State.walkLeaf (s : State) (oid va : Nat) : Walk :=
  s.walkFrom oid va [(43, 13), (30, 13), (21, 9), (16, 5)] 0 (Cells.get 0 s.roots oid)

/-- The walk of R84 for a GLOBAL virtual address under an owner identifier: it fails at a leaf whose page is not backed
(R86). -/
def State.walk (s : State) (oid va : Nat) : Walk :=
  match s.walkLeaf oid va with
  | .leaf e lvl at_ => if backed (fld e 16 36 * 2 ^ 16) (pageSize lvl) then .leaf e lvl at_ else .fails 3
  | w => w

/-- The outcome of a translation: a reason of R86; a page that the swap engine holds back (R95), or channels for which the
walk waits (R339); or a place: physical address, leaf, and level of the leaf. -/
inductive Trans where
  | fails (reason : Nat)
  | held (chans : List Nat)
  | ok (pa leaf lvl : Nat)
deriving DecidableEq, Repr

/-- The TLB entry of a cluster that covers an address. -/
def State.cached (s : State) (cluster : Option Nat) (oid va : Nat) : Option Tlb :=
  match cluster with
  | none => none
  | some c => s.tlb.find? fun e => decide (e.cluster = c) && decide (e.oid = oid) && decide (va / e.size = e.va / e.size)

/-- A leaf as a translation of `va` for an access. -/
def leafFor (acc : Access) (va e lvl : Nat) : Trans :=
  let r := denied acc e
  if r ≠ 0 then .fails r else .ok (fld e 16 36 * 2 ^ 16 + va % pageSize lvl) e lvl

/-- Translation of a virtual address (R84 to R86). Where the cluster's TLB holds a leaf that differs from the one in
memory, either may be used (R89), and the one that it holds where the walk would wait. -/
def State.translate (s : State) (cluster : Option Nat) (oid va : Nat) (acc : Access) : Trans :=
  if s.swaps.any fun w => w.begun && decide (w.oid = oid) && decide (w.va ≤ va) && decide (va < w.va + w.size) then .held []
  else
    let new : Trans := match s.walk oid va with
      | .fails r => .fails r
      | .waits ch => .held [ch]
      | .leaf e lvl _ => leafFor acc va e lvl
    match s.cached cluster oid va with
    | none => new
    | some c =>
      let old := leafFor acc va c.leaf.toNat (3 - fld c.leaf.toNat 2 2)
      match new with
      | .held _ => old
      | _ => if old = new then new else if Config.useOld s.tick va then old else new

/-- A translation leaves its leaf in the TLB of the cluster (R84). -/
def State.cacheLeaf (s : State) (cluster : Option Nat) (oid va leaf lvl : Nat) : State :=
  match cluster with
  | none => s
  | some c =>
    if (s.cached cluster oid va).isSome then s
    else { s with tlb := { cluster := c, oid := oid, va := va / pageSize lvl * pageSize lvl, size := pageSize lvl,
                           leaf := BitVec.ofNat 64 leaf } :: s.tlb }

/-- The lane slices, scratchpad and storage that a byte lies in: one byte read (R72, R90). -/
def State.readLoc (s : State) (oid : Nat) : Loc → Byte
  | .core team off => match Cells.find s.teams team with
    | some t => Cells.get 0 t.scratch off
    | none => Config.freeByte s.tick off
  | .lane team lane off => match Cells.find s.teams team with
    | some t => Cells.get 0 t.lanes (lane * 8192 + off)
    | none => Config.freeByte s.tick off
  | .sto a => s.readSto oid a

/-- Whether two resolved ranges share a byte. -/
def overlap (a b : List Piece) : Bool :=
  a.any fun p => b.any fun q =>
    match p.loc, q.loc with
    | .core t o, .core u m => decide (t = u) && decide (o < m + q.len) && decide (m < o + p.len)
    | .lane t l o, .lane u k m => decide (t = u) && decide (l = k) && decide (o < m + q.len) && decide (m < o + p.len)
    | .sto x, .sto y => decide (x < y + q.len) && decide (y < x + p.len)
    | _, _ => false

/-- `n` bytes from a place on. -/
def Loc.piece (l : Loc) (n : Nat) : Piece := { off := 0, len := n, loc := l }

/-- The releases whose values stood in a place that is overwritten are gone from it (R109). -/
def State.unpost (s : State) (l : Loc) : State := { s with posts := s.posts.filter fun p => !overlap [p.at_] [l.piece 1] }

/-- One byte written. A place in the scratchpad of a team that has left takes nothing. -/
def State.writeLoc (s : State) (oid : Nat) (l : Loc) (b : Byte) : State :=
  let s := s.unpost l
  match l with
  | .core team off => { s with teams := Cells.modify s.teams team fun t => { t with scratch := Cells.set 0 t.scratch off b } }
  | .lane team lane off =>
    { s with teams := Cells.modify s.teams team fun t => { t with lanes := Cells.set 0 t.lanes (lane * 8192 + off) b } }
  | .sto a => s.writeSto oid a b

/-- The place `k` bytes on. -/
def Loc.plus : Loc → Nat → Loc
  | .core t o, k => .core t (o + k)
  | .lane t l o, k => .lane t l (o + k)
  | .sto a, k => .sto (a + k)

/-- `n` bytes from a place. -/
def State.readLocN (s : State) (oid : Nat) (l : Loc) (n : Nat) : List Byte :=
  (List.range n).map fun i => s.readLoc oid (l.plus i)

/-- Bytes written from a place upward. -/
def State.writeLocs (s : State) (oid : Nat) : Loc → List Byte → State
  | _, [] => s
  | l, b :: r => (s.writeLoc oid l b).writeLocs oid (l.plus 1) r

/-- The channels of the bytes of a piece that lie in HBM (R80). -/
def Piece.channels (p : Piece) : List Nat :=
  match p.loc with
  | .sto a =>
    (List.range (p.len / 2048 + 2)).filterMap fun i =>
      let lo := max a (a / 2048 * 2048 + 2048 * i)
      if lo < a + p.len && lo < 2 ^ 39 && (i = 0 || a < lo) then some (channelOf lo) else none
  | _ => []

/-- The parts of a piece that lie in a channel. -/
def Piece.inChannel (p : Piece) (ch : Nat) : List Piece :=
  match p.loc with
  | .sto a =>
    (List.range (p.len / 2048 + 2)).filterMap fun i =>
      let lo := max a (a / 2048 * 2048 + 2048 * i)
      let hi := min (a + p.len) (a / 2048 * 2048 + 2048 * (i + 1))
      if lo < hi && lo < 2 ^ 39 && channelOf lo = ch then some { off := p.off + (lo - a), len := hi - lo, loc := .sto lo }
      else none
  | _ => []

/-- The channels of resolved ranges that accesses must wait for (R339, R341). -/
def State.heldChannels (s : State) (ps : List Piece) : List Nat :=
  ((ps.flatMap Piece.channels).filter s.chanHeld).eraseDups

/-- The bytes that a waiting access writes. -/
def Waiting.writes (w : Waiting) : Nat :=
  match w.work with
  | .store bs => bs.length
  | .atomic _ _ _ => 4
  | _ => 0

/-- An access that an instruction has issued joins those that wait: its writes take the next numbers (R121). -/
def State.arrive (s : State) (w : Waiting) : State :=
  { s with arrivals := s.arrivals ++ [{ w with stamp := s.mem.writes + 1 }],
           mem := { s.mem with writes := s.mem.writes + w.writes } }

/-- A move makes accesses that wait for these channels, which return data or only write: it is made again once they are
served (R341). -/
def State.waitFor (s : State) (m : Move) (chans : List Nat) (reads : Bool) : State :=
  { s with arrivals := chans.foldl (fun l ch =>
      let w : Waiting := { chan := ch, work := .again m reads }
      if l.contains w then l else l ++ [w]) s.arrivals }

/-- The move at hand waits for these channels. -/
def State.markWaiting (s : State) (chans : List Nat) (reads : Bool := true) : State :=
  match s.now with
  | none => s
  | some m => s.waitFor m chans reads

/-- A waiting access returns data (R341). -/
def Waiting.returns (w : Waiting) : Bool :=
  match w.work with
  | .store _ => false
  | .again _ reads => reads
  | _ => true

/-- The channels among some that only written ranges touch. -/
def writeOnly (held reads : List Nat) : List Nat := held.filter fun ch => !reads.contains ch

/-- The move at hand waits for held channels of what it reads and of what it only writes. -/
def State.markBoth (s : State) (reads writes : List Piece) : State :=
  let r := s.heldChannels reads
  (s.markWaiting r).markWaiting (writeOnly (s.heldChannels writes) r) false

/-- An access that returns data waits for a channel (R341). -/
def State.dataWaits (s : State) (ch : Nat) : Bool := s.arrivals.any fun w => w.chan = ch && w.returns

/-- The space codes of the fault record (R317). -/
def spaceLane : Nat := 1
def spaceCore : Nat := 2
def spaceCluster : Nat := 3
def spaceChip : Nat := 4
def spaceGlobal : Nat := 5
def spaceFetch : Nat := 6

/-- The space that a WH code names (R169). -/
def spaceOfWh (wh : Nat) : Nat :=
  match wh with | 4 => spaceLane | 5 => spaceCore | 6 => spaceCluster | 7 => spaceChip | _ => spaceGlobal

/-- Who accesses memory: its owner, team, place, and what of the core it reaches (R101, R264). -/
structure Agent where
  oid : Nat
  team : Nat
  t : Team
  coach : Nat := 0
  /-- the cluster whose TLB it uses -/
  cluster : Option Nat := .none
  /-- the core whose L1 it reads through -/
  core : Option Nat := .none
  /-- a remote function, and whether it runs in the overhead context of the caller's core (R264) -/
  remote : Bool := false
  overhead : Bool := false

/-- The outcome of the checks of R243 on one access. -/
inductive Check where
  | fails (cause : Cause) (reason : Nat)
  | held (chans : List Nat)
  | ok (l : Loc) (leaf : Nat)
deriving DecidableEq, Repr

/-- Teams of the cluster group of a team (R78): the team of rank `g`. -/
def State.groupTeam (s : State) (t : Team) (g : Nat) : Option (Nat × Team) :=
  if t.grants.cgsz = 0 || t.grants.cgsz ≤ g then none
  else s.teams.find? fun p => decide (p.2.node = t.node) && decide (p.2.ty = t.ty) && decide (p.2.tz = t.tz)
    && decide (p.2.tx / t.grants.cgsz = t.tx / t.grants.cgsz) && decide (p.2.tx % t.grants.cgsz = g)

/-- Where an untranslated space puts `n` bytes at offset `o`, if it holds them (R72, R75, R78). -/
def State.place (s : State) (ag : Agent) (space lane o n : Nat) : Option Loc :=
  match space with
  | 1 => if !ag.remote && decide (o + n ≤ ag.t.grants.lssz * 256) then some (.lane ag.team (ag.coach * 32 + lane) o) else none
  | 2 =>
    if o < 0x1000000 then
      if !ag.remote && decide (o + n ≤ ag.t.grants.spsz * 4096) then some (.core ag.team o) else none
    else if (!ag.remote || ag.overhead) && decide (o - 0x1000000 + n ≤ ag.t.grants.ocsz * 2 ^ 20) then
      let x := o - 0x1000000
      some (.sto (columnBase ag.t.core + ag.t.column.getD (x / 2 ^ 20) 0 * 2 ^ 20 + x % 2 ^ 20))
    else none
  | 3 =>
    if ag.remote then none
    else match s.groupTeam ag.t (o / 0x80000) with
      | some (k, u) => if o % 0x80000 + n ≤ u.grants.spsz * 4096 then some (.core k (o % 0x80000)) else none
      | none => none
  | _ => if o + n ≤ 0x10000000 then some (.sto (chipBase + o)) else none

/-- The checks of R243 on the access of `n` bytes at `ea` by one lane, in their order. -/
def State.check (s : State) (ag : Agent) (space lane : Nat) (ea : Int) (n : Nat) (acc : Access) : Check :=
  if ea % n ≠ 0 then .fails .misaligned 0
  else if ea < 0 then .fails .spaceRange 0
  else
    let o := ea.toNat
    if space = spaceGlobal then
      if 2 ^ 56 < o + n then .fails .spaceRange 0
      else match s.translate ag.cluster ag.oid o acc with
        | .fails r => .fails .pageFault r
        | .held chans => .held chans
        | .ok pa leaf _ => .ok (.sto pa) leaf
    else match s.place ag space lane o n with
      | none => .fails .spaceRange 0
      | some l =>
        if space = spaceChip && decide (Cells.find s.granules (o / 2 ^ 20) ≠ some ag.oid) then .fails .protection 0
        else .ok l 0

/-- The key of a leaf's page in the table of stable pages: team, page size, and physical page (R88). -/
def stableKey (team leaf : Nat) : Nat := team * 2 ^ 38 + fld leaf 2 2 * 2 ^ 36 + fld leaf 16 36

/-- A read of `n` bytes at a checked place: under K = 1 a byte changed since the team's first read of its page is
undefined (R88). -/
def State.readAt (s : State) (ag : Agent) (l : Loc) (leaf n : Nat) : List Byte :=
  match l, ag.core with
  | .sto a, some _ =>
    if fld leaf 63 1 = 1 then
      match Cells.find s.stable (stableKey ag.team leaf) with
      | some w => (List.range n).map fun i =>
          if w < Cells.get 0 s.mem.stamp (a + i) then Config.freeByte s.tick (a + i) else s.readSto ag.oid (a + i)
      | none => s.readLocN ag.oid l n
    else s.readLocN ag.oid l n
  | _, _ => s.readLocN ag.oid l n

/-- A kernel boundary of a core: its teams' first reads of stable pages are over (R88). -/
def State.kernelBoundary (s : State) (core : Nat) : State :=
  { s with stable := s.stable.filter fun p => match Cells.find s.teams (p.1 / 2 ^ 38) with
      | some t => t.core ≠ core
      | none => false }

/-- What an access leaves behind in the TLB and in the table of stable pages (R84, R88). -/
def State.noteAccess (s : State) (ag : Agent) (space : Nat) (ea : Nat) (_l : Loc) (leaf : Nat) : State :=
  if space = spaceGlobal then
    let s := s.cacheLeaf ag.cluster ag.oid ea leaf (3 - fld leaf 2 2)
    match ag.core with
    | some _ =>
      if fld leaf 63 1 = 1 && (Cells.find s.stable (stableKey ag.team leaf)).isNone then
        { s with stable := Cells.put s.stable (stableKey ag.team leaf) s.mem.writes }
      else s
    | none => s
  else s

/-- The pieces of a range of `len` bytes at offset `o` of a space, checked chunk by chunk of `step` bytes that end at
multiples of `step` (4 KiB for a snapshot, R95); `fuel` bounds the chunks. A translation that is held back gives the channels
that it waits for. -/
def State.pieces (s : State) (ag : Agent) (space : Nat) (acc : Access) (step : Nat) :
    Nat → Nat → Nat → Nat → Except (Cause × Nat × Nat) (Except (List Nat) (List Piece))
  | 0, _, _, _ => .ok (.ok [])
  | fuel + 1, done, o, len =>
    if len = 0 then .ok (.ok [])
    else
      let n := min len (step - o % step)
      match s.check ag space 0 o 1 acc, s.check ag space 0 (o + n - 1 : Nat) 1 acc with
      | .fails c r, _ => .error (c, r, o)
      | _, .fails c r => .error (c, r, o + n - 1)
      | .held chans, _ => .ok (.error chans)
      | _, .held chans => .ok (.error chans)
      | .ok l _, .ok _ _ =>
        match s.pieces ag space acc step fuel (done + n) (o + n) (len - n) with
        | .ok (.ok r) => .ok (.ok ({ off := done, len := n, loc := l } :: r))
        | other => other

/-- The first offset beyond a space of fixed size (R72). -/
def spaceEnd (space : Nat) : Nat := if space = spaceGlobal then 2 ^ 56 else if space = spaceChip then 2 ^ 28 else 2 ^ 64

/-- All pieces of a range, in 4 KiB chunks; R72 is checked of the whole range first, then R79 and R86 (R92, R255). -/
def State.range (s : State) (ag : Agent) (space : Nat) (acc : Access) (o len : Nat) :
    Except (Cause × Nat × Nat) (Except (List Nat) (List Piece)) :=
  if spaceEnd space < o + len then .error (.spaceRange, 0, max o (spaceEnd space))
  else s.pieces ag space acc 4096 (len / 4096 + 2) 0 o len

/-- The place of byte `k` of a resolved range. -/
def pieceLoc (ps : List Piece) (k : Nat) : Option Loc :=
  (ps.find? fun p => decide (p.off ≤ k) && decide (k < p.off + p.len)).map fun p => p.loc.plus (k - p.off)

/-- Byte `k` of a resolved range. -/
def State.readPiece (s : State) (oid : Nat) (ps : List Piece) (k : Nat) : Byte :=
  match pieceLoc ps k with
  | some l => s.readLoc oid l
  | none => 0

/-- Bytes `k` to `k + n - 1` of a resolved range. -/
def State.readPieces (s : State) (oid : Nat) (ps : List Piece) (k n : Nat) : List Byte :=
  (List.range n).map fun i => s.readPiece oid ps (k + i)

/-- Bytes written from byte `k` of a resolved range upward. -/
def State.writePieces (s : State) (oid : Nat) (ps : List Piece) : Nat → List Byte → State
  | _, [] => s
  | k, b :: r =>
    (match pieceLoc ps k with | some l => s.writeLoc oid l b | none => s).writePieces oid ps (k + 1) r

/-- The storage channels that a resolved range touches. -/
def pieceLocs (ps : List Piece) : List Loc := ps.map Piece.loc

/-- The pages of a GLOBAL range, for the snapshots of R95: virtual base and size of the leaf that maps each chunk, or the
chunk where a walk waits and the TLB has translated it. -/
def State.pagesOf (s : State) (oid o len : Nat) : List (Nat × Nat) :=
  ((List.range (len / 65536 + 2)).filterMap fun i =>
    let va := o / 65536 * 65536 + i * 65536
    if va < o + len then
      match s.walk oid va with
      | .leaf _ lvl _ => some (va / pageSize lvl * pageSize lvl, pageSize lvl)
      | .waits _ => some (va, 65536)
      | .fails _ => none
    else none).eraseDups

end Sys2Proof.Machine
end

