-- ==== Sys2Proof/Machine/Order.lean ====
section
/-!
DEFINITION. Which writes of storage happen before a point of a coach: releases, acquires and fences at their scopes
(spec/07_ordering.md R100, R101, R107 to R123). Every access of the model is performed at its issue or in its channel's order (log
entry 1), so that this decides one thing only: what a coach may execute (R121; log entry 15).
-/

namespace Sys2Proof.Machine

/-! ### Sets of writes -/

/-- The writes `lo` to `hi` join a set. -/
def Known.add : Known → Nat → Nat → Known
  | [], lo, hi => [(lo, hi)]
  | x :: r, lo, hi =>
    if hi + 1 < x.1 then (lo, hi) :: x :: r
    else if x.2 + 1 < lo then x :: Known.add r lo hi
    else Known.add r (min lo x.1) (max hi x.2)

/-- The union of two sets. -/
def Known.join (a b : Known) : Known := b.foldl (fun k r => Known.add k r.1 r.2) a

/-- A write is in a set. -/
def Known.has (k : Known) (n : Nat) : Bool := k.any fun r => decide (r.1 ≤ n) && decide (n ≤ r.2)

/-- The writes that an agent made from state `s` to state `s'` join a set. -/
def Known.wrote (k : Known) (s s' : State) : Known :=
  if s.mem.writes < s'.mem.writes then Known.add k (s.mem.writes + 1) s'.mem.writes else k

/-- All that has been written. -/
def State.written (s : State) : Known := [(0, s.mem.writes)]

/-! ### Scopes -/

/-- The place of a coach, of its requests and of its calls (R101). -/
def coachSpot (team ci core : Nat) : Spot :=
  { coach := some (team, ci), core := some core, cluster := some (Config.clusterOf core), tower := some (Config.towerOf core) }

/-- The place of a remote function: on a stack executor, on a tower executor, or in a core's overhead context (R101, R262). -/
def executorSpot (ex : Nat) : Spot :=
  if ex < 0x80 then { tower := some (ex / 32) }
  else if ex < 0x100 then { tower := some ((ex - 0x80) / 8) }
  else { core := some (ex - 0x100), cluster := some (Config.clusterOf (ex - 0x100)), tower := some (Config.towerOf (ex - 0x100)) }

/-- Two agents are in one instance of a scope (R100). -/
def within (scope : Nat) (a b : Spot) : Bool :=
  let same {α : Type} [DecidableEq α] (x y : Option α) : Bool := x.isSome && x = y
  match scope with
  | 0 => same a.coach b.coach
  | 1 => same (a.coach.map Prod.fst) (b.coach.map Prod.fst)
  | 2 => same a.core b.core
  | 3 => same a.cluster b.cluster
  | 4 => same a.tower b.tower
  | _ => true

/-- A release synchronises with an acquire of its value at scope `sc` by the agent at `q`: each lies within the other's scope
(R109). -/
def Release.reaches (r : Release) (q : Spot) (sc : Nat) : Bool := within r.scope r.agent q && within sc q r.agent

/-! ### A coach -/

/-- The writes that a coach made from state `s` to state `s'` happen before what follows in its program. -/
def Coach.wrote (c : Coach) (s s' : State) : Coach := { c with acq := Known.wrote c.acq s s' }

/-- Some writes happen before what follows in a coach's program. -/
def Coach.joins (c : Coach) (k : Known) : Coach := { c with acq := Known.join c.acq k }

/-- An acquire at scope `sc` of the releases among `rs` that reach it (R109). -/
def Coach.acquire (c : Coach) (q : Spot) (sc : Nat) (rs : List Release) : Coach :=
  (rs.filter fun r => r.reaches q sc).foldl (fun c r => c.joins r.known) c

/-- A read of values that the releases `rs` made, an acquire at scope `acq` if it is one (R107). -/
def Coach.saw (c : Coach) (q : Spot) (acq : Option Nat) (rs : List Release) : Coach :=
  let c := { c with seen := (c.seen ++ rs).eraseDups }
  match acq with
  | some sc => c.acquire q sc rs
  | none => c

/-- The acquiring side of a fence: the reads before it become acquires (R108, R109). -/
def Coach.fenceAcq (c : Coach) (q : Spot) (sc : Nat) : Coach := c.acquire q sc c.seen

/-- The releasing side of a fence: every later write becomes a release of what happened before the fence (R108, R109). -/
def Coach.fenceRel (c : Coach) (q : Spot) (sc : Nat) : Coach :=
  { c with released := { agent := q, scope := sc, known := c.acq } :: c.released.filter fun r => r.scope ≠ sc }

/-- An AR fence. -/
def Coach.fence (c : Coach) (q : Spot) (sc : Nat) : Coach := (c.fenceAcq q sc).fenceRel q sc

/-- FENCE of a kind: 1 ACQ, 2 REL, 3 AR (R108, R186). -/
def Coach.fenceBy (c : Coach) (kind : BitVec 2) (q : Spot) (sc : Nat) : Coach :=
  let c := if kind.getLsbD 0 then c.fenceAcq q sc else c
  if kind.getLsbD 1 then c.fenceRel q sc else c

/-- The releases that a write of the coach makes: by itself at scope `rel`, if it is one, and after its fences (R107, R109). -/
def Coach.releases (c : Coach) (q : Spot) (rel : Option Nat) : List Release :=
  (match rel with | some sc => [{ agent := q, scope := sc, known := c.acq }] | none => []) ++ c.released

/-! ### Places -/

/-- The releases whose values stand in a place. -/
def State.postsAt (s : State) (l : Loc) (n : Nat) : List Release :=
  (s.posts.filter fun p => overlap [p.at_] [l.piece n]).flatMap Posted.rels

/-- A write to a place that releases. -/
def State.post (s : State) (l : Loc) (n : Nat) (rs : List Release) : State :=
  if rs.isEmpty then s else { s with posts := { at_ := l.piece n, rels := rs } :: s.posts }

end Sys2Proof.Machine
end

