-- ==== Sys2Proof/Machine/Ops.lean ====
section
/-!
DEFINITION. The named operations over the machine: the issuer of an instruction, the registers of a coach, retiring an
instruction, stopping at a trap (R312 to R317), entering the handler (R319), and returning from it (R320).
-/

namespace Sys2Proof.Machine

/-- The issuer of the instruction at hand: its team, coach and sub-group. For a remote function the team is the caller's
as it stood at the call and the coach holds the function's registers (R264). -/
structure Here where
  tick : Nat
  team : Nat
  t : Team
  ci : Nat
  c : Coach
  g : SubGroup
  remote : Option Nat := .none
deriving DecidableEq, Repr

/-- Why an instruction does not take its effect: a trap, or a hold until channels, the scoreboard or the swap engine let
it go on (R31, R95, R339). -/
inductive Stop where
  | trap (t : Trap)
  | hold (chans : List Nat)
deriving DecidableEq, Repr

/-- What an instruction does before it retires. -/
abbrev Res := Except Stop (State × Here)

/-- A trap without further fields. -/
def raise (c : Cause) : Stop := .trap { cause := c }

/-- ILLEGAL (R174). -/
def illegal : Stop := raise .illegal

/-- The sub-group of a coach by its number. -/
def Coach.sub (c : Coach) (id : Nat) : Option SubGroup := c.subs.find? fun g => decide (g.id = id)

/-- The coach with a sub-group replaced. -/
def Coach.setSub (c : Coach) (g : SubGroup) : Coach :=
  { c with subs := c.subs.map fun x => if x.id = g.id then g else x }

/-- The coach with a sub-group left out. -/
def Coach.dropSub (c : Coach) (id : Nat) : Coach := { c with subs := c.subs.filter fun x => x.id ≠ id }

/-- A coach of a team. -/
def State.coach (s : State) (team ci : Nat) : Option (Team × Coach) :=
  match Cells.find s.teams team with
  | none => none
  | some t => (t.coaches[ci]?).map fun c => (t, c)

/-- The call that an executor is running. -/
def State.running (s : State) (ex : Nat) : Option (Nat × Call) :=
  match Cells.find s.executors ex with
  | none => none
  | some e => match e.running with
    | none => none
    | some k => (Cells.find s.calls k).map fun c => (k, c)

/-- The issuer that the state names (log entry 3). -/
def State.here (s : State) : Option Here :=
  match s.cur with
  | .coach team ci =>
    match s.coach team ci with
    | none => none
    | some (t, c) => (c.sub s.curSub).map fun g => { tick := s.tick, team := team, t := t, ci := ci, c := c, g := g }
  | .remote ex =>
    match s.running ex with
    | none => none
    | some (_, k) => match k.fn with
      | none => none
      | some c => (c.sub s.curSub).map fun g =>
          { tick := s.tick, team := k.team, t := k.caller, ci := k.coach, c := c, g := g, remote := some ex }
  | _ => none

/-- The state with the team of a key replaced. -/
def State.setTeam (s : State) (team : Nat) (t : Team) : State := { s with teams := Cells.put s.teams team t }

/-- The state with a coach of a team changed. -/
def State.modCoach (s : State) (team ci : Nat) (f : Coach → Coach) : State :=
  { s with teams := Cells.modify s.teams team fun t => { t with coaches := t.coaches.modify ci f } }

/-- The state with a call changed. -/
def State.modCall (s : State) (k : Nat) (f : Call → Call) : State := { s with calls := Cells.modify s.calls k f }

/-- The coach record of a context changed: a coach, or the function that an executor runs. -/
def State.modCtx (s : State) (ctx : Ctx) (f : Coach → Coach) : State :=
  match ctx with
  | .coach team ci => s.modCoach team ci f
  | .remote ex => match s.running ex with
    | some (k, _) => s.modCall k fun x => { x with fn := x.fn.map f }
    | none => s
  | _ => s

/-- The context of an issuer. -/
def Here.ctx (h : Here) : Ctx := match h.remote with | some ex => .remote ex | none => .coach h.team h.ci

/-- What an instruction changed of its issuer goes back into the state. Of the team it is what instructions write:
barriers, tags, rendezvous, slice, and the envelope registers. -/
def State.put (s : State) (h : Here) : State :=
  match h.remote with
  | none =>
    { s with teams := Cells.modify s.teams h.team fun t =>
        { t with coaches := t.coaches.set h.ci (h.c.setSub h.g), barriers := h.t.barriers, tags := h.t.tags,
                 rdvs := h.t.rdvs, len := h.t.len, slice := h.t.slice, envs := h.t.envs } }
  | some ex => match s.running ex with
    | none => s
    | some (k, _) => s.modCall k fun x => { x with fn := some (h.c.setSub h.g) }

/-- The run in progress. -/
def Here.run (h : Here) : Run := h.g.run.getD { no := h.c.runNo }

def Here.setRun (h : Here) (r : Run) : Here := { h with g := { h.g with run := some r } }

/-- The sub-group's agent for memory accesses (R101, R264). -/
def Here.agent (h : Here) : Agent :=
  match h.remote with
  | none => { oid := h.t.oid, team := h.team, t := h.t, coach := h.ci, cluster := some (Config.clusterOf h.t.core),
              core := some h.t.core }
  | some ex => { oid := h.t.oid, team := h.team, t := h.t, coach := h.ci, remote := true,
                 overhead := decide (0x100 ≤ ex) && decide (ex < 0x400) }

/-- The lanes of a mask, in increasing order. -/
def lanesOf (m : Word) : List Nat := (List.range 32).filter fun l => m.getLsbD l

/-- The lowest-numbered active lane of the issuing sub-group (R188). -/
def Here.lane (h : Here) : Option Nat := (lanesOf h.g.exec).head?

/-- The lane whose value LANEXY and whose slice LANE give to a uniform instruction (R27, R246). -/
def Here.uniformLane (h : Here) : Nat := ((lanesOf h.g.exec).head?).getD (((lanesOf h.g.mem).head?).getD 0)

/-- Keys of the registers of a coach that long results name: V and T by lane, S. -/
def keyV (n l : Nat) : Nat := 32 * n + l
def keyS (n : Nat) : Nat := 8192 + n
def keyT (n l : Nat) : Nat := 8448 + 32 * n + l

/-- A long result to this register has not been observed (R177). -/
def Coach.pending (c : Coach) (key : Nat) : Bool := c.longs.any fun r => r.dsts.contains key

/-- The matrix jobs whose operand fragments hold V register `n` (R116). -/
def Coach.fragJobs (c : Coach) (n : Nat) : List Nat :=
  (c.frags.filter fun f => decide (f.2.1 ≤ n) && decide (n < f.2.1 + f.2.2)).map fun f => f.1

/-- The scoreboard records V register `n` (R181). -/
def Coach.boarded (c : Coach) (n : Nat) : Bool := c.board.any fun f => decide (f.2.1 ≤ n) && decide (n < f.2.1 + f.2.2)

/-- V[n][l] as an instruction reads it: undefined while its long result is unobserved or a matrix job holds it
(R177, R116). -/
def Here.v (h : Here) (n l : Nat) : Word :=
  if h.c.pending (keyV n l) || !(h.c.fragJobs n).isEmpty then Config.freeWord h.tick (keyV n l)
  else Cells.get 0 h.c.v (keyV n l)

/-- S[n] as an instruction reads it (R177). -/
def Here.s (h : Here) (n : Nat) : Word :=
  if h.c.pending (keyS n) then Config.freeWord h.tick (keyS n) else Cells.get 0 h.c.s n

/-- T[n][l]: undefined unless this run has written it, which it can only in its own member lanes (R176, R177; log
entry 33). -/
def Here.t_ (h : Here) (n l : Nat) : Word :=
  if h.g.mem.getLsbD l && Cells.get false h.c.tw (keyV n l) && !h.c.pending (keyT n l) then Cells.get 0 h.c.t (keyV n l)
  else Config.freeWord h.tick (keyT n l)

/-- V[n][l] and its taint written; the value left under an unobserved long result is undefined (R177). -/
def Here.setV (h : Here) (n l : Nat) (x : Word) (taint : Bool) : Here :=
  let y := if h.c.pending (keyV n l) then Config.freeWord h.tick (65536 + keyV n l) else x
  { h with c := { h.c with v := Cells.set 0 h.c.v (keyV n l) y, vt := Cells.set false h.c.vt (keyV n l) taint,
                           dirty := Cells.set false h.c.dirty (keyV n l) true,
                           spoiled := h.c.fragJobs n ++ h.c.spoiled } }

/-- S[n] and its taint written (R177). -/
def Here.setS (h : Here) (n : Nat) (x : Word) (taint : Bool) : Here :=
  let y := if h.c.pending (keyS n) then Config.freeWord h.tick (65536 + keyS n) else x
  { h with c := { h.c with s := Cells.set 0 h.c.s n y, st := Cells.set false h.c.st n taint } }

/-- T[n][l] and its taint written (R176, R177). -/
def Here.setT (h : Here) (n l : Nat) (x : Word) (taint : Bool) : Here :=
  let y := if h.c.pending (keyT n l) then Config.freeWord h.tick (65536 + keyT n l) else x
  { h with c := { h.c with t := Cells.set 0 h.c.t (keyV n l) y, tt := Cells.set false h.c.tt (keyV n l) taint,
                           tw := Cells.set false h.c.tw (keyV n l) true } }

/-- The mask registers (R208, R209). -/
def Here.m (h : Here) (n : Nat) : Word := Cells.get 0 h.c.m n

def Here.setM (h : Here) (n : Nat) (x : Word) : Here := { h with c := { h.c with m := Cells.set 0 h.c.m n x } }

/-- A long result of the run is in flight to these registers, `left` of its accesses waiting for channels (R177). -/
def Here.long (h : Here) (dsts : List Nat) (left : Nat := 0) : Here :=
  { h with c := { h.c with longs := h.c.longs ++ [{ run := h.run.no, dsts := dsts, seq := h.c.longNo, left := left }],
                           longNo := h.c.longNo + 1 } }

/-- The place of the issuer (R101). -/
def Here.spot (h : Here) : Spot :=
  match h.remote with
  | some ex => executorSpot ex
  | none => coachSpot h.team h.ci h.t.core

/-- The issuer with its coach changed. -/
def Here.onCoach (h : Here) (f : Coach → Coach) : Here := { h with c := f h.c }

/-- The scope of the AR fence that revision 1 has after each GLOBAL access (R122, R123). -/
def Here.implied (h : Here) (space : Nat) : Option Nat := if h.t.rev = 1 && space = spaceGlobal then some 2 else none

/-- That fence, after accesses in a space. -/
def Here.fenced (h : Here) (space : Nat) : Here :=
  match h.implied space with
  | some sc => h.onCoach fun c => c.fence h.spot sc
  | none => h

/-- The completions of these tags have been observed: an acquire of each at its request's scope, and the scratchpad bytes that the
coach's requests on them wrote count as its own writes (R114, R115). -/
def Here.sawTags (h : Here) (seen : DWord) : Here :=
  if seen = 0 then h
  else
    let mine := h.c.landed.filter fun x => seen.getLsbD x.1
    let done := (h.t.done.filter fun p => seen.getLsbD p.1).map Prod.snd
    let c := done.foldl (fun c r => c.acquire h.spot r.scope [r]) h.c
    { h with c := { c with
        landed := h.c.landed.filter fun x => !seen.getLsbD x.1
        dirty := mine.foldl (fun d x =>
          (List.range x.2.2).foldl (fun d i => Cells.set false d (2 ^ 20 + x.2.1 + i) true) d) h.c.dirty } }

/-- A V register is within the allotment and not held by the scoreboard (R170, R181). -/
def Here.okV (h : Here) (n : Nat) : Except Stop Unit :=
  if h.c.allot ≤ n then .error illegal else if h.c.boarded n then .error (.hold []) else .ok ()

/-- `n` V registers from `base` are. -/
def Here.okVs (h : Here) (base : Nat) : Nat → Except Stop Unit
  | 0 => .ok ()
  | n + 1 => match h.okVs base n with
    | .error e => .error e
    | .ok _ => h.okV (base + n)

/-- The word after the issuing one is reached: its count goes up, its prefix is used up, SW is kept (R175, R180). -/
def Here.retire (h : Here) (sw : Bool) : Here :=
  let r := h.run
  { h with g := { h.g with pc := h.g.pc + 4,
                           run := some { r with words := r.words + 1, sw := r.sw || sw, pre := .none } } }

/-! ### Stopping at a trap -/

/-- The cause codes of R314. -/
def Cause.code : Cause → Nat
  | .illegal => 0x00 | .fetchBounds => 0x10 | .pageFault => 0x20
  | .misaligned => 0x30 | .spaceRange => 0x31 | .protection => 0x32 | .regBounds => 0x40
  | .tagRange => 0x50 | .tagBusy => 0x51 | .requestArgs => 0x52 | .tensorId => 0x53
  | .barrierCount => 0x60 | .barrierStall => 0x61 | .matrixPartial => 0x70 | .matrixRendezvous => 0x71
  | .planeShape => 0x80 | .foldMismatch => 0x81 | .breakpointOverflow => 0x90 | .remoteSubset => 0xA0 | .trap => 0xB0

/-- The mask of a list of lanes. -/
def maskOf (l : List Nat) : Word := l.foldl (fun m i => m ||| (1 <<< i)) 0

/-- Words 0 to 15 of a fault record (R317). -/
def Stopped.record (f : Stopped) (token : Word) (pool : Nat) : List Word :=
  let t := f.trap
  [ BitVec.ofNat 32 (pack [(8, t.cause.code), (4, t.reason), (4, t.space), (16, t.detail.toNat)]),
    BitVec.ofNat 32 f.pc, f.word,
    (match f.pre with | some i => BitVec.ofNat 32 (2 ^ 31 + i.toNat) | none => 0),
    BitVec.ofNat 32 t.addr, BitVec.ofNat 32 (fld t.addr 32 24), t.w6,
    (if t.lanes.isEmpty then f.exec else maskOf (t.lanes.map LaneFault.lane)),
    f.exec, f.mem, BitVec.ofNat 32 f.resume, token, BitVec.ofNat 32 f.run,
    BitVec.ofNat 32 pool, BitVec.ofNat 32 (fld pool 32 24), 0 ]

/-- The four words of a lane's side-buffer entry (R317). -/
def sideEntry (t : Trap) (l : Nat) : List Word :=
  match t.lanes.find? fun f => decide (f.lane = l) with
  | some f => [BitVec.ofNat 32 (pack [(8, f.cause.code), (4, f.reason), (4, f.space), (16, 0)]), BitVec.ofNat 32 f.addr,
               BitVec.ofNat 32 (fld f.addr 32 24), 0]
  | none => [0xFF000000, 0, 0, 0]

/-- The little-endian bytes of words. -/
def wordBytes (l : List Word) : List Byte := l.flatMap fun w => leBytes 4 w.toNat

/-- The words of little-endian bytes. -/
def bytesWords : List Byte → List Word
  | a :: b :: c :: d :: r => BitVec.ofNat 32 (leNat [a, b, c, d]) :: bytesWords r
  | _ => []

/-- A lifetime counter goes up by one and saturates (R402). -/
def State.count (s : State) (k : Nat) : State :=
  { s with life := Cells.set 0 s.life k (min (Cells.get 0 s.life k + 1) (2 ^ 64 - 1)) }

/-- An event of a part that runs; in reset, in recovery and when off it has no effect (R397, R404). -/
def whenRunning (s : State) (k : Host.Outcome State Fault Refusal) : Host.Outcome State Fault Refusal :=
  if s.mode = .running then k else .next s

/-- The node of a team has been stopped: its coaches issue no further run (R50). -/
def State.nodeStopped (s : State) (node : Nat) : Bool :=
  match Cells.find s.nodes node with | some n => n.stop.isSome | none => false

/-- A node is being stopped and will complete with a fault code; the first code stays (R50, R320, R321). -/
def State.stopNode (s : State) (node code : Nat) : State :=
  { s with nodes := Cells.modify s.nodes node fun n => { n with stop := some (n.stop.getD code) } }

/-- The half that a coach issues on (R22). -/
def halfOf (core : Nat) (c : Coach) : Nat := core * 8 + c.slot * 2 + c.ctx % 2

/-- A half leaves the middle of a run of coach `ci` of a team; a run of another coach goes on (R31). -/
def Half.leave (x : Half) (team ci : Nat) : Half :=
  { x with inRun := x.inRun.filter fun r => r.1 ≠ team || r.2.1 ≠ ci }

/-- The half of coach `ci` of a team leaves the middle of that coach's run. -/
def State.freeHalf (s : State) (core team ci : Nat) (c : Coach) : State :=
  let k := halfOf core c
  { s with halves := Cells.set {} s.halves k ((Cells.get {} s.halves k).leave team ci) }

/-- The token of a coach's next fault (R323). -/
def tokenOf (core : Nat) (c : Coach) : Word :=
  BitVec.ofNat 32 (pack [(2, core / 48), (6, core % 48), (6, 16 * c.slot + c.ctx), (18, c.faults % 2 ^ 18)])

/-- The registers that a handler may use freely are S56 to S63. -/
def Coach.savedS (c : Coach) : List Word := (List.range 8).map fun i => Cells.get 0 c.s (56 + i)

/-- Their taint bits, which are saved with them (R112). -/
def Coach.savedSt (c : Coach) : List Bool := (List.range 8).map fun i => Cells.get false c.st (56 + i)

/-- What became of the frame of a fault: written, not writable, or held back for now by channels that it reads or writes. -/
inductive FrameWrite where
  | done (s : State)
  | fails
  | held (chans : List Nat) (reads : Bool)

/-- The writes of a fault record and its side buffer to the coach's frame, unless the frame cannot be written (R316, R317,
R321). A page that a swap moves and a channel that a kernel holds only delay them (R95, R339). -/
def State.writeFrame (s : State) (t : Team) (c : Coach) (f : Stopped) (token : Word) (pool : Nat) : FrameWrite :=
  let base := c.area.toNat * 1024
  match s.translate (some (Config.clusterOf t.core)) t.oid base .store with
  | .held chans => .held chans true
  | .fails _ => .fails
  | .ok pa _ _ =>
    if s.channelHeld pa then .held [channelOf pa] false
    else
    let s := s.writeLocs t.oid (.sto pa) (wordBytes (f.record token pool))
    .done (s.writeLocs t.oid (.sto (pa + 0x100)) (wordBytes ((List.range 32).flatMap fun l => sideEntry f.trap l)))

/-- Entry into a handler for a stop of coach `ci` (R319), which waits while the frame is held back. Without a handler image,
or when the frame cannot be written, the node is stopped with UNHANDLED (R315, R321). -/
def State.enterHandler (s : State) (team ci : Nat) (f : Stopped) : State :=
  match s.coach team ci with
  | none => s
  | some (t, c) =>
    match t.image with
    | none => s.stopNode t.node 5
    | some im =>
      let token := tokenOf t.core c
      match s.writeFrame t c f token im.pool with
      | .fails => s.stopNode t.node 5
      | .held chans reads => s.waitFor (.entry team ci) chans reads
      | .done s =>
        let exec := if f.trap.lanes.isEmpty then f.exec else maskOf (f.trap.lanes.map LaneFault.lane)
        let g : SubGroup := { id := c.nextId, pc := 256 * (f.trap.cause.code / 16), mem := 0xFFFFFFFF, exec := exec }
        let s := s.modCoach team ci fun c =>
          { c with saved := some { fault := f, token := token, s := c.savedS, st := c.savedSt, t := c.t, tt := c.tt, tw := c.tw, vi := c.vi,
                                   subs := c.subs, parents := c.parents },
                   stops := c.stops.drop 1, subs := [g], parents := [], nextId := c.nextId + 1, act := 0,
                   faults := (c.faults + 1) % 2 ^ 18 }
        s.count (0x400 + f.trap.cause.code / 16)

/-- Every long result of the coach has returned (R312). -/
def Coach.returned (c : Coach) : Bool := c.longs.all LongRes.back

/-- The lanes left over by a fault in compatibility mode have reached their convergence points (R48). -/
def Coach.convergedAll (c : Coach) : Bool := c.subs.all fun g => !g.rest || g.parks.contains .converged

/-- A half stands in the middle of a run of the coach (R31). -/
def State.inRun (s : State) (team ci : Nat) : Bool :=
  s.halves.any fun p => match p.2.inRun with | some (t, c, _) => decide (t = team) && decide (c = ci) | none => false

/-- The team is resident and has no stop order (R306). -/
def Team.here (t : Team) : Bool := match t.state with | .resident => true | _ => false

/-- A pending fault of the coach is entered once long results have returned, no handler runs, and in compatibility mode
step 3 of R48 is complete (R312, R319). -/
def State.tryEntry (s : State) (team ci : Nat) : State :=
  match s.coach team ci with
  | none => s
  | some (t, c) =>
    match c.stops with
    | [] => s
    | f :: _ =>
      if t.here && !s.inRun team ci && c.returned && (f.whole || c.convergedAll) && c.saved.isNone && c.parked.isNone then
        s.enterHandler team ci f
      else s

/-- Whether a coach runs in its handler (R216). -/
def Coach.hnd (c : Coach) : Bool := c.saved.isSome

/-- A remote function ends with a disposition and the words of its reply (R264, R327). -/
def State.endCall (s : State) (ex code : Nat) (words : List Word) : State :=
  match Cells.find s.executors ex with
  | none => s
  | some e =>
    match e.running with
    | none => s
    | some k =>
      let tok := ((Cells.find s.calls k).map Call.token).getD 0
      { s with
        ran := Cells.put s.ran tok.toNat (((Cells.find s.calls k).bind Call.fn).map Coach.acq |>.getD [])
        calls := Cells.modify s.calls k fun c => { c with result := some (code, words), fn := none, endedAt := some s.slot }
        executors := Cells.put s.executors ex { e with running := none, recent := e.recent.map fun p =>
          if p.1 = tok then (tok, some (code, if code = 2 then words.headD 0 else 0)) else p } }

/-- A record joins the pending ones; a stop of the whole coach comes before those of lanes (R45 to R48). -/
def addStop (l : List Stopped) (f : Stopped) : List Stopped := if f.whole then f :: l else l ++ [f]

/-- A coach stops under the record `f` (R47, R319). In native mode the whole coach is descheduled; a fault while the handler
runs, or a missing image, ends the node instead (R321). A remote function ends (R264, R327). -/
def State.stopCoach (s : State) (h : Here) (f : Stopped) : State :=
  match h.remote with
  | some ex =>
    let tok := ((s.running ex).map fun p => p.2.token).getD 0
    s.endCall ex 2 (BitVec.ofNat 32 f.trap.cause.code :: (f.record tok 0).take 7)
  | none =>
    let s := s.freeHalf h.t.core h.team h.ci h.c
    if h.c.hnd then s.stopNode h.t.node 5
    else
      let s := s.modCoach h.team h.ci fun c => { c with stops := addStop c.stops f }
      s.tryEntry h.team h.ci

/-- The fault record of a trap at the instruction being issued (R313, R317): its IMMX, if any, is its first word. -/
def Here.stopped (h : Here) (t : Trap) : Stopped :=
  let r := h.run
  let pc := if r.pre.isSome then h.g.pc - 4 else h.g.pc
  { trap := t, pc := pc, word := r.word, pre := r.pre, resume := pc, exec := h.g.exec, mem := h.g.mem, run := r.no,
    sub := h.g.id }

/-- The sub-group stands at its resumption point, its run kept for the instruction to be executed again. -/
def Here.rewind (h : Here) : Here :=
  let r := h.run
  if r.pre.isSome then
    { h with g := { h.g with pc := h.g.pc - 4, run := some { r with pre := none, words := r.words - 1 } } }
  else h

/-- A trap at the instruction being issued stops the coach exactly there (R47, R312). -/
def State.trapNow (s : State) (h : Here) (t : Trap) : State :=
  (s.put h.rewind).stopCoach h (h.stopped t)

/-- A fault in certain lanes in compatibility mode (R48): the faulting lanes become a parked sub-group with the fault
record, and the other lanes go on as the issuing sub-group. -/
def State.splitFaulting (s : State) (h : Here) (t : Trap) : State × Here :=
  let bad := maskOf (t.lanes.map LaneFault.lane)
  let w := h.rewind
  let parked : SubGroup := { w.g with id := h.c.nextId, mem := bad, exec := bad, parks := [.faulted], rest := false }
  let f := { h.stopped t with exec := bad, mem := bad, sub := h.c.nextId }
  let g := { h.g with mem := h.g.mem &&& ~~~bad, exec := h.g.exec &&& ~~~bad, rest := true }
  let c := { h.c with subs := h.c.subs ++ [parked], nextId := h.c.nextId + 1, stops := h.c.stops ++ [f] }
  (s, { h with c := c, g := g })

/-- A trap of a sub-group of a coach in compatibility mode that leaves no lane to go on: the sub-group itself parks
(R48). DESIGN CHOICE (log entry 34): so it does, with all its members, for a cause that names no lane, of which R48 does not
speak. -/
def State.parkFaulting (s : State) (h : Here) (t : Trap) : State :=
  let w := h.rewind
  let f := h.stopped t
  let s := s.put { w with g := { w.g with parks := w.g.parks ++ [.faulted], rest := false },
                          c := { w.c with stops := w.c.stops ++ [f] } }
  (s.freeHalf h.t.core h.team h.ci h.c).tryEntry h.team h.ci

/-- The common frame of a native instruction: who issues it, the 24-word limit of a run (R175), the subset of remote
functions (R264), its own effect `body`, and then its retirement, its trap, or its hold. -/
def native (sw remoteOk : Bool) (s : State) (body : State → Here → Res) : Host.Outcome State Fault Refusal :=
  match s.here with
  | none => .fault .noIssuer
  | some h =>
    if h.remote.isSome && !remoteOk then .next (s.trapNow h { cause := .remoteSubset })
    else if 24 ≤ h.run.words then .next (s.trapNow h { cause := .illegal })
    else match body s h with
      | .ok (s', h') => .next (s'.put (h'.retire sw))
      | .error (.hold chans) => .next (s.markWaiting chans)
      | .error (.trap t) =>
        if h.t.compat && h.remote.isNone && !h.c.hnd then
          if t.lanes.isEmpty || h.g.mem &&& ~~~(maskOf (t.lanes.map LaneFault.lane)) = 0 then .next (s.parkFaulting h t)
          else
            let p := s.splitFaulting h t
            match body p.1 p.2 with
            | .ok (s', h') => .next (s'.put (h'.retire sw))
            | .error (.hold chans) => .next (s.markWaiting chans)
            | .error (.trap u) => .next (p.1.parkFaulting p.2 u)
        else .next (s.trapNow h t)

/-- A native instruction that changes its issuer only. -/
def nativeHere (sw remoteOk : Bool) (s : State) (body : Here → Except Stop Here) : Host.Outcome State Fault Refusal :=
  native sw remoteOk s fun s h => (body h).map fun h => (s, h)

end Sys2Proof.Machine
end

