-- ==== Sys2Proof/Machine/Operands.lean ====
section
/-!
DEFINITION. Every operand form: the register fields of uniform and lane instructions (R170, R188, R221), pairs and blocks,
immediates with and without IMMX (R171, R172), tensor identifiers, and the shared shapes of the arithmetic instructions.
-/

namespace Sys2Proof.Machine

/-! ### Uniform fields (R188) -/

/-- A uniform field may be used: an S register, or a V register of the allotment (R170). -/
def Here.okU (h : Here) (f : BitVec 8) : Except Stop Unit := if f.toNat < 192 then h.okV f.toNat else .ok ()

/-- The value of a uniform source, and its taint (R188, R190). -/
def Here.u (h : Here) (f : Nat) : Word × Bool :=
  if f < 192 then
    match h.lane with
    | some l => (h.v f l, Cells.get false h.c.vt (keyV f l))
    | none => (0, false)
  else (h.s (f - 192), Cells.get false h.c.st (f - 192))

/-- A value and its taint written to a uniform destination (R188). -/
def Here.setU (h : Here) (f : Nat) (x : Word) (taint : Bool) : Here :=
  if f < 192 then (lanesOf h.g.exec).foldl (fun h l => h.setV f l x taint) h else h.setS (f - 192) x taint

/-- A uniform field that names the even register of a pair (R170, R188). -/
def Here.okUPair (h : Here) (f : BitVec 8) : Except Stop Unit := do
  if f.toNat % 2 ≠ 0 then .error illegal
  if f.toNat < 192 then h.okVs f.toNat 2

/-- The 64-bit value of a uniform pair, and its taint (R188). -/
def Here.uPair (h : Here) (f : Nat) : DWord × Bool :=
  let lo := h.u f
  let hi := h.u (f + 1)
  (BitVec.ofNat 64 (hi.1.toNat * 2 ^ 32 + lo.1.toNat), lo.2 || hi.2)

/-- A 64-bit value written to a uniform pair. -/
def Here.setUPair (h : Here) (f : Nat) (x : DWord) (taint : Bool) : Here :=
  (h.setU f (BitVec.ofNat 32 x.toNat) taint).setU (f + 1) (BitVec.ofNat 32 (x.toNat / 2 ^ 32)) taint

/-- The keys of the registers that a uniform destination of `n` registers writes. -/
def Here.uKeys (h : Here) (f n : Nat) : List Nat :=
  (List.range n).flatMap fun i =>
    if f < 192 then (lanesOf h.g.exec).map (keyV (f + i)) else [keyS (f + i - 192)]

/-! ### Lane fields (R221) -/

/-- A lane source field may be used (R170): V registers of the allotment, S0–S55, T. -/
def Here.okL (h : Here) (f : BitVec 8) : Except Stop Unit := if f.toNat < 192 then h.okV f.toNat else .ok ()

/-- A lane destination field may be used: an S register traps ILLEGAL (R170). -/
def Here.okLDst (h : Here) (f : BitVec 8) : Except Stop Unit :=
  if f.toNat < 192 then h.okV f.toNat else if f.toNat < 248 then .error illegal else .ok ()

/-- The value of a lane source in lane `l`, and its taint (R221). -/
def Here.l (h : Here) (f l : Nat) : Word × Bool :=
  if f < 192 then (h.v f l, Cells.get false h.c.vt (keyV f l))
  else if f < 248 then (h.s (f - 192), Cells.get false h.c.st (f - 192))
  else (h.t_ (f - 248) l, Cells.get false h.c.tt (keyV (f - 248) l))

/-- A value and its taint written to lane `l` of a lane destination (R221). -/
def Here.setL (h : Here) (f l : Nat) (x : Word) (taint : Bool) : Here :=
  if f < 192 then h.setV f l x taint else if f < 248 then h else h.setT (f - 248) l x taint

/-- The key of lane `l` of a lane destination. -/
def laneKey (f l : Nat) : Nat := if f < 192 then keyV f l else keyT (f - 248) l

/-- A block of `n` lane registers (n a power of two): aligned, within the allotment or within T0–T7 (R170). -/
def Here.okLBlock (h : Here) (f : BitVec 8) (n : Nat) (dst : Bool) : Except Stop Unit := do
  if f.toNat % n ≠ 0 then .error illegal
  if f.toNat < 192 then
    if 192 < f.toNat + n then .error illegal
    h.okVs f.toNat n
  else if f.toNat < 248 then
    if dst then .error illegal
    if 248 < f.toNat + n then .error illegal

/-- The same for a uniform block: it may not cross from V191 into S0 (R170). -/
def Here.okUBlock (h : Here) (f : BitVec 8) (n : Nat) : Except Stop Unit := do
  if f.toNat % n ≠ 0 then .error illegal
  if f.toNat < 192 then
    if 192 < f.toNat + n then .error illegal
    h.okVs f.toNat n

/-- Every active lane in increasing order: values are read from the state before the loop, results are handed from lane
to lane (R15). -/
def Here.eachLane (h : Here) (f : Here → Nat → Here) : Here := (lanesOf h.g.exec).foldl f h

/-! ### Immediates (R171, R172) -/

/-- The I8 of an arithmetic form: extended alone, or below the 24 bits of an IMMX (R196, R226). -/
def Here.imm8 (h : Here) (signed : Bool) (i : BitVec 8) : Word :=
  match h.run.pre with
  | some p => BitVec.ofNat 32 (p.toNat * 256 + i.toNat)
  | none => if signed then i.signExtend 32 else i.zeroExtend 32

/-- The I16 of a move (R199, R228). -/
def Here.imm16 (h : Here) (i : BitVec 16) : Word :=
  match h.run.pre with
  | some p => BitVec.ofNat 32 (p.toNat * 65536 + i.toNat)
  | none => i.signExtend 32

/-- A branch offset of `w` bits in words: sign-extended alone or below an IMMX (R201, R202, R241). -/
def Here.offset (h : Here) (w off : Nat) : Int :=
  match h.run.pre with
  | some p => sext (24 + w) (p.toNat * 2 ^ w + off)
  | none => sext w off

/-- The target of a branch at the issuing word (R171). -/
def Here.target (h : Here) (w off : Nat) : Int := h.g.pc + 4 * h.offset w off

/-- The byte offset of a memory instruction: an IMMX sign-extended, else 0 (R242). -/
def Here.immMem (h : Here) : Int :=
  match h.run.pre with
  | some p => sext 24 p.toNat
  | none => 0

/-! ### Tensor identifiers (R135, R136) -/

/-- The sixteen words of an identifier. -/
def Coach.tid (c : Coach) (i : Nat) : List DWord := (List.range 16).map fun w => Cells.get 0 c.tids (16 * i + w)

/-- A field of an identifier held as its words. -/
def tfld (t : List DWord) (w lo len : Nat) : Nat := fld (t.getD w 0).toNat lo len

def tidFmt (t : List DWord) : Nat := tfld t 0 58 4
def tidRank (t : List DWord) : Nat := tfld t 0 56 2 + 1
def tidBlk (t : List DWord) : Nat := tfld t 0 53 3
def tidBax (t : List DWord) : Nat := tfld t 0 51 2

/-- The extent of dimension `d` (R135). -/
def tidDim (t : List DWord) (d : Nat) : Nat :=
  1 + (match d with | 0 => tfld t 2 0 20 | 1 => tfld t 2 20 20 | 2 => tfld t 2 40 20 | _ => tfld t 3 0 20)

/-- The byte stride of dimension `d` from 1 to 3. -/
def tidStr (t : List DWord) (d : Nat) : Nat := tfld t (3 + d) 0 48

/-- The elements of a block, 0 for none (R135). -/
def tidBlock (t : List DWord) : Nat := match tidBlk t with | 1 => 16 | 2 => 32 | 3 => 64 | 4 => 128 | _ => 0

/-- Entry `c` of the codebook. -/
def tidCode (t : List DWord) (c : Nat) : Nat := tfld t (8 + c / 4) (16 * (c % 4)) 16

/-- The checks of R136 on an identifier. Sizes are in half bytes, so that 4-bit elements need no case of their own. -/
def tidOk (t : List DWord) : Bool :=
  let hs := tidHalves (tidFmt t)
  decide (tfld t 0 63 1 = 1) && decide (tidFmt t ≤ 10) && decide (tidBlk t ≤ 4) && decide (tidBax t < tidRank t)
    && (List.range 3).all fun k =>
      let d := k + 1
      if d < tidRank t then
        decide (2 * tidStr t d % hs = 0)
          && decide ((if d = 1 then tidDim t 0 * hs else tidDim t (d - 1) * (2 * tidStr t (d - 1))) ≤ 2 * tidStr t d)
      else true

/-- A reserved mask of identifier word `w`: the bits that a write keeps (R135, R289). -/
def tidMask (w : Nat) : Nat :=
  match w with
  | 0 => (2 ^ 64 - 1) - (2 ^ 51 - 1)
  | 1 => 2 ^ 59 - 1
  | 2 => 2 ^ 60 - 1
  | 3 => 2 ^ 20 - 1
  | 4 => 2 ^ 48 - 1 | 5 => 2 ^ 48 - 1 | 6 => 2 ^ 48 - 1
  | 8 => 2 ^ 64 - 1 | 9 => 2 ^ 64 - 1 | 10 => 2 ^ 64 - 1 | 11 => 2 ^ 64 - 1
  | _ => 0

/-! ### Shared shapes -/

/-- Uniform RRR: d := f a b (R192, R195). -/
def uniBin (sw : Bool) (d a b : BitVec 8) (s : State) (f : Word → Word → Word) : Host.Outcome State Fault Refusal :=
  nativeHere sw true s fun h => do
    h.okU d; h.okU a; h.okU b
    let x := h.u a.toNat
    let y := h.u b.toNat
    pure (h.setU d.toNat (f x.1 y.1) (x.2 || y.2))

/-- Uniform RRI8: d := f a imm (R196, R197). -/
def uniImm (sw : Bool) (d a : BitVec 8) (s : State) (imm : Here → Word) (f : Word → Word → Word) :
    Host.Outcome State Fault Refusal :=
  nativeHere sw true s fun h => do
    h.okU d; h.okU a
    let x := h.u a.toNat
    pure (h.setU d.toNat (f x.1 (imm h)) x.2)

/-- Lane RRR: d := f d a b in each active lane, where `useD` says whether D is a source too (R221, R222). -/
def laneTern (sw : Bool) (d a b : BitVec 8) (s : State) (useD : Bool) (f : Word → Word → Word → Word) :
    Host.Outcome State Fault Refusal :=
  nativeHere sw false s fun h => do
    h.okLDst d; h.okL a; h.okL b
    pure (h.eachLane fun k l =>
      let z := if useD then h.l d.toNat l else (0, false)
      let x := h.l a.toNat l
      let y := h.l b.toNat l
      k.setL d.toNat l (f z.1 x.1 y.1) (z.2 || x.2 || y.2))

/-- Lane RRR without D as a source: d := f a b. -/
def laneBin (sw : Bool) (d a b : BitVec 8) (s : State) (f : Word → Word → Word) : Host.Outcome State Fault Refusal :=
  laneTern sw d a b s false fun _ x y => f x y

/-- Lane RRI8: d := f a imm. -/
def laneImm (sw : Bool) (d a : BitVec 8) (s : State) (imm : Here → Word) (f : Word → Word → Word) :
    Host.Outcome State Fault Refusal :=
  nativeHere sw false s fun h => do
    h.okLDst d; h.okL a
    pure (h.eachLane fun k l => let x := h.l a.toNat l; k.setL d.toNat l (f x.1 (imm h)) x.2)

end Sys2Proof.Machine
end

