-- ==== Sys2Proof/Machine/Fetch.lean ====
section
/-!
DEFINITION. Fetching the words of a code segment (R167, R182, R183) and what a word's layout says before it issues: whether
it is a trailer, and whether an IMMX may precede it (R172, R191, R223).
-/

namespace Sys2Proof.Machine

/-- Base and length of the segment that a sub-group fetches from: the code section, or the handler image (R182, R315). -/
def State.segment (_s : State) (h : Here) : Nat × Nat :=
  if h.c.hnd then
    match h.t.image with
    | some im => (im.vbase * 4096, im.len)
    | none => (0, 0)
  else (h.t.code, h.t.codeLen)

/-- Four bytes at a storage address as a coach fetches them: undefined where the coach had not acquired their last write at its
last ICINV (R121, R183; log entry 15). Executors have no instruction cache. -/
def State.fetchBytes (s : State) (h : Here) (pa : Nat) : Word :=
  let fresh := h.remote.isNone
    && (List.range 4).any fun i => !Known.has h.c.ic (Cells.get 0 s.mem.stamp (pa + i))
  if fresh then Config.freeWord s.tick (100000 + pa)
  else BitVec.ofNat 32 (leNat (s.readStoN h.t.oid pa 4))

/-- The word at offset `pc` of the segment, or the fault that its fetch raises (R182); a word in a channel that is held is a
fetch miss (R31), which what waits there precedes (R339, R341). DESIGN CHOICE (log entry 14): a fetch leaves
no entry in the TLB. -/
def State.fetch (s : State) (h : Here) (pc : Nat) : Except Stop Word :=
  let seg := s.segment h
  if seg.2 ≤ pc then .error (.trap { cause := .fetchBounds, space := spaceFetch, addr := pc })
  else
    match s.translate h.agent.cluster h.t.oid (seg.1 + pc) .fetch with
    | .fails r => .error (.trap { cause := .pageFault, reason := r, space := spaceFetch, addr := seg.1 + pc })
    | .held chans => .error (.hold chans)
    | .ok pa _ _ => if s.channelHeld pa then .error (.hold [channelOf pa]) else .ok (s.fetchBytes h pa)

/-- A word of the TRAILER major (R168). -/
def isTrailer (w : Word) : Bool := fld w.toNat 31 1 == 1 && fld w.toNat 24 6 == 0x3F

/-- A word whose major, or CTL minor, has an immediate field (R191, R223), and for UMOVI and IMOVI the condition on the
prefix (R199, R228). -/
def takesImmx (imm : BitVec 24) (w : Word) : Bool :=
  let n := w.toNat
  let major := fld n 24 6
  let top := fld imm.toNat 16 8
  if fld n 31 1 == 1 then
    match major with
    | 0x15 => true | 0x16 => true | 0x17 => true | 0x19 => true
    | 0x1A => top == 0 || top == 0xFF
    | 0x1B => true | 0x1C => true
    | 0x1F => decide (fld n 18 6 ≤ 1)
    | 0x22 => true | 0x23 => true | 0x24 => true | 0x25 => true
    | _ => false
  else
    match major with
    | 0x26 => true | 0x27 => true | 0x28 => true
    | 0x32 => top == 0 || top == 0xFF
    | 0x33 => true | 0x34 => true | 0x35 => true | 0x36 => true | 0x37 => true | 0x38 => true | 0x39 => true
    | _ => false

/-- A target lies in the segment and is a multiple of 4 (R182). -/
def inSegment (len : Nat) (target : Int) : Bool := decide (0 ≤ target) && decide (target < len) && decide (target % 4 = 0)

/-- A fault of the fetch of the next word, with no word of it issued (R182, R313): the offset is that word's, or that of
the IMMX before it. -/
def Here.fetchStopped (h : Here) (t : Trap) : Stopped :=
  let pc := if h.run.pre.isSome then h.g.pc - 4 else h.g.pc
  { trap := t, pc := pc, word := 0, pre := h.run.pre, resume := pc, exec := h.g.exec, mem := h.g.mem, run := h.run.no,
    sub := h.g.id }

/-- A cause without lanes stops the coach with the record `f` (R47). DESIGN CHOICE (log entry 34): in compatibility mode, for
which R48 speaks of faults in certain lanes only, it parks the issuing sub-group, all its members with it, and the others run
on. `h` stands at its resumption point. -/
def State.stopWith (s : State) (h : Here) (f : Stopped) : State :=
  if h.t.compat && h.remote.isNone && !h.c.hnd then
    let s := s.put { h with g := { h.g with parks := h.g.parks ++ [.faulted], rest := false },
                            c := { h.c with stops := h.c.stops ++ [f] } }
    (s.freeHalf h.t.core h.team h.ci h.c).tryEntry h.team h.ci
  else (s.put h).stopCoach h f

/-- A stop of the whole coach, in compatibility mode too (R45, R46). `h` stands at its resumption point. -/
def State.stopWhole (s : State) (h : Here) (f : Stopped) : State := (s.put h).stopCoach h { f with whole := true }

end Sys2Proof.Machine
end

