-- ==== Sys2Proof/Machine/Barriers.lean ====
section
/-!
DEFINITION. Named barriers: arrivals of coaches and of sub-groups, and the stall of a team (R43 to R46).
-/

namespace Sys2Proof.Machine

/-- The same recorded arrivals (R37). -/
def sameRecs (a b : List (Nat × Nat)) : Bool := a.all b.contains && b.all a.contains

/-- The barrier `b` of a team. -/
def Team.barrier (t : Team) (b : Nat) : Barrier := Cells.get {} t.barriers b

/-- The arrival of a coach at barrier `b` with expected count `e` (R44), or nothing where it traps BARRIER-COUNT. The
second component says whether the arrival completed the phase. It releases what the coach knows (R111). -/
def Team.arrive (t : Team) (b e : Nat) (known : Known) : Option (Team × Bool) :=
  let x := t.barrier b
  if e = 0 || decide (t.coaches.length < e) then none
  else if decide (0 < x.count) && decide (e ≠ x.expected) then none
  else
    let n := x.count + 1
    let now := Known.join x.now known
    if n = e then
      let y : Barrier := { count := 0, expected := e, phase := !x.phase, now := [], past := Known.join x.past now }
      some ({ t with barriers := Cells.set {} t.barriers b y }, true)
    else some ({ t with barriers := Cells.set {} t.barriers b { x with count := n, expected := e, now := now } }, false)

/-- A sub-group released from BARSYNC at `b`. -/
def SubGroup.release (g : SubGroup) (b : Nat) : SubGroup :=
  { g with parks := g.parks.filter fun p => match p with | .bar b' _ => b' ≠ b | _ => true }

/-- A coach released from `b`, and with it the context that its handler saved (R320). -/
def Coach.release (c : Coach) (b : Nat) : Coach :=
  { c with subs := c.subs.map fun g => g.release b,
           saved := c.saved.map fun v => { v with subs := v.subs.map fun g => g.release b } }

/-- All coaches of the team that wait on `b` are released (R44). -/
def Team.release (t : Team) (b : Nat) : Team := { t with coaches := t.coaches.map fun c => c.release b }

/-- After the coach's arrival at `b`: recordings are used up; a sub-group parked at BARSYNC waits for the phase, unless
the arrival completed it; one that had reached the barrier again records its next arrival (R45). -/
def SubGroup.arrived (b : Nat) (phase done : Bool) (g : SubGroup) : SubGroup :=
  let recs := g.recs.filter fun r => r.1 ≠ b
  let again := g.parks.find? fun p => match p with | .barAgain b' _ _ => b' = b | _ => false
  let parks := g.parks.filterMap fun p =>
    match p with
    | .barHeld b' => if b' = b then (if done then none else some (.bar b phase)) else some p
    | .barAgain b' _ sync => if b' = b then (if sync then some (.barHeld b) else none) else some p
    | _ => some p
  match again with
  | some (.barAgain _ e _) => { g with parks := parks, recs := recs ++ [(b, e)] }
  | _ => { g with parks := parks, recs := recs }

/-- Every issuable sub-group of a coach carries a recording at `b` (R45). -/
def allRecorded (subs : List SubGroup) (b : Nat) : Bool :=
  !subs.isEmpty && subs.all fun g => g.recs.any fun r => r.1 = b

/-- The coach's arrival is made once every sub-group carries a recording at `b` (R45); a second time where the sub-groups
had all reached the barrier again. Nothing where the checks of R44 fail. The last component says whether a phase was
completed. -/
def arriveRecorded (b : Nat) (known : Known) : Nat → Team → List SubGroup → Option (Team × List SubGroup × Bool)
  | 0, t, subs => some (t, subs, false)
  | n + 1, t, subs =>
    if allRecorded subs b then
      match (subs.flatMap SubGroup.recs).find? fun r => r.1 = b with
      | none => some (t, subs, false)
      | some (_, e) =>
        let phase := (t.barrier b).phase
        match t.arrive b e known with
        | none => none
        | some (t, done) =>
          let t := if done then t.release b else t
          let subs := if done then subs.map fun g => g.release b else subs
          (arriveRecorded b known n t (subs.map (SubGroup.arrived b phase done))).map fun r => (r.1, r.2.1, done || r.2.2)
    else some (t, subs, false)

/-- What an arrival of a sub-group does: the issuer afterwards, and whether the other coaches waiting on `b` are
released. `sync` says BARSYNC. A park that the arrival leaves is already in the sub-group. -/
def Here.arriveSub (h : Here) (b e : Nat) (sync : Bool) : Except Stop (Here × Bool) :=
  let trap : Stop := .trap { cause := .barrierCount, detail := BitVec.ofNat 16 b }
  let recorded := (h.c.subs.flatMap SubGroup.recs).filter fun r => r.1 = b
  if recorded.any fun r => r.2 ≠ e then .error trap
  else if h.g.recs.any fun r => r.1 = b then
    .ok ({ h with g := { h.g with parks := h.g.parks ++ [.barAgain b e sync], sync := if sync then some b else h.g.sync } }, false)
  else
    let g := { h.g with recs := h.g.recs ++ [(b, e)], parks := if sync then h.g.parks ++ [.barHeld b] else h.g.parks
                        sync := if sync then some b else h.g.sync }
    let c := h.c.setSub g
    match arriveRecorded b h.c.acq 2 h.t c.subs with
    | none => .error trap
    | some (t, subs, done) =>
      let c := { c with subs := subs }
      .ok ({ h with t := { h.t with barriers := t.barriers }, c := c, g := (c.sub g.id).getD g }, done)

/-- The other coaches of the team released from barrier `b`. -/
def State.releaseBarrier (s : State) (team b : Nat) : State :=
  { s with teams := Cells.modify s.teams team fun t => t.release b }

/-- A park that belongs to a barrier (R46). -/
def Park.isBarrier : Park → Bool
  | .bar _ _ => true
  | .barHeld _ => true
  | .barAgain _ _ _ => true
  | _ => false

/-- A sub-group is parked at BARSYNC and in no other way, its trailer having issued (R46). -/
def SubGroup.atBarrier (g : SubGroup) : Bool := g.run.isNone && !g.parks.isEmpty && g.parks.all Park.isBarrier

/-- Every coach of the team that has not ended is parked at BARSYNC, and none is descheduled by a fault (R46). -/
def Team.stalled (t : Team) : Bool :=
  t.celud.isNone && t.coaches.any (fun c => !c.ended) && t.coaches.all fun c =>
    c.ended || (c.stops.isEmpty && c.saved.isNone && c.parked.isNone && !c.subs.isEmpty && c.subs.all SubGroup.atBarrier)

/-- The sub-group with the lowest program counter, then lowest member lane (R38). -/
def lowestSub (l : List SubGroup) : Option SubGroup :=
  l.foldl (fun best g => match best with
    | none => some g
    | some b => if g.pc < b.pc || (g.pc = b.pc && ((lanesOf g.mem).headD 32) < ((lanesOf b.mem).headD 32)) then some g
        else some b) none

/-- BARRIER-STALL in one coach (R46, R47, R313): all of it stops, at the parked instruction of its sub-group with the lowest
program counter, which stays counted and resumes after its trailer. -/
def State.stallCoach (s : State) (team ci : Nat) : State :=
  match s.coach team ci with
  | none => s
  | some (t, c) =>
    if c.ended then s
    else match lowestSub c.subs with
      | none => s
      | some g =>
        let b := (g.parks.filterMap fun p => match p with
          | .bar b _ => some b | .barHeld b => some b | .barAgain b _ _ => some b | _ => none).getLastD 0
        let f : Stopped :=
          { trap := { cause := .barrierStall, detail := BitVec.ofNat 16 b }, pc := g.at_.1, word := g.at_.2.1,
            pre := g.at_.2.2.1, resume := g.fall, exec := g.exec, mem := g.mem, run := g.lastRun, sub := g.id }
        let h : Here := { tick := s.tick, team := team, t := t, ci := ci, c := c, g := g }
        s.stopWhole { h with g := { g with parks := [], pc := g.fall, sync := none } } f

/-- The device raises BARRIER-STALL in every parked coach of a stalled team (R46). -/
def State.checkStall (s : State) (team : Nat) : State :=
  match Cells.find s.teams team with
  | none => s
  | some t => if t.stalled then upto (fun s ci => s.stallCoach team ci) s t.coaches.length else s

end Sys2Proof.Machine
end

