-- ==== Sys2Proof/Machine/Flags.lean ====
section
/-!
DEFINITION. The values that instructions compute from their operands: integer arithmetic, compares and selects, shifts,
packed elements and floating point (R192 to R199, R224 to R236). The part keeps no status flags (R192, R222): a compare
writes the value 0 or 1.
-/

namespace Sys2Proof.Machine

/-- Bits [63:32] of a signed product (R192, R224). -/
def mulhS (a b : Word) : Word := BitVec.ofInt 32 (a.toInt * b.toInt / 2 ^ 32)

/-- Bits [63:32] of an unsigned product. -/
def mulhU (a b : Word) : Word := BitVec.ofNat 32 (a.toNat * b.toNat / 2 ^ 32)

/-- The quotient of R193, truncated toward zero; −1 for a zero divisor. -/
def divS (a b : Word) : Word :=
  if b = 0 then BitVec.ofInt 32 (-1) else BitVec.ofInt 32 (a.toInt.tdiv b.toInt)

/-- The remainder of R193; the dividend for a zero divisor. -/
def remS (a b : Word) : Word := if b = 0 then a else BitVec.ofInt 32 (a.toInt.tmod b.toInt)

/-- The lesser and the greater, read as signed. -/
def minS (a b : Word) : Word := if a.toInt ≤ b.toInt then a else b

def maxS (a b : Word) : Word := if a.toInt ≤ b.toInt then b else a

/-- The shifts of R137 with w = 32 by the amount in bits [7:0]. -/
def shl32 (a b : Word) : Word := BitVec.ofNat 32 (shlBits 32 (fld b.toNat 0 8) a.toNat)

def shr32 (a b : Word) : Word := BitVec.ofNat 32 (shrBits 32 (fld b.toNat 0 8) a.toNat)

def sar32 (a b : Word) : Word := BitVec.ofNat 32 (sarBits 32 (fld b.toNat 0 8) a.toNat)

/-- The compares of R195 and R225. -/
def ceq (a b : Word) : Word := flag (a == b)

def clt (a b : Word) : Word := flag (decide (a.toInt < b.toInt))

def cltu (a b : Word) : Word := flag (decide (a.toNat < b.toNat))

/-- The select of R195 and R225. -/
def sel (c a b : Word) : Word := if c ≠ 0 then a else b

/-- A packed signed operation on elements of width `w`, saturated (R229). -/
def packSat (w : Nat) (f : Int → Int → Int) (a b : Word) : Word :=
  packed w fun lo => wrapInt w (satInt w (f (sext w (fld a.toNat lo w)) (sext w (fld b.toNat lo w))))

/-- A packed shift by one amount (R230). -/
def packShift (w : Nat) (f : Nat → Nat → Nat → Nat) (n : Nat) (a : Word) : Word :=
  packed w fun lo => f w n (fld a.toNat lo w)

/-- FP32 arithmetic of R232. -/
def fadd (a b : Word) : Word := round32 ((val32 a).add (val32 b))

def fsub (a b : Word) : Word := round32 ((val32 a).add (val32 b).neg)

def fmul (a b : Word) : Word := round32 ((val32 a).mul (val32 b))

def ffma (d a b : Word) : Word := round32 ((val32 d).add ((val32 a).mul (val32 b)))

/-- FP32 minimum, maximum and compares of R233. -/
def fmin (a b : Word) : Word := BitVec.ofNat 32 (pickF fp32 false a.toNat b.toNat)

def fmax (a b : Word) : Word := BitVec.ofNat 32 (pickF fp32 true a.toNat b.toNat)

def fceq (a b : Word) : Word := flag ((val32 a).cmp (val32 b) == some .eq)

def fclt (a b : Word) : Word := flag ((val32 a).cmp (val32 b) == some .lt)

def fcle (a b : Word) : Word := flag ((val32 a).cmp (val32 b) == some .lt || (val32 a).cmp (val32 b) == some .eq)

/-- Packed 16-bit addition and fused multiply-add (R234). -/
def halfAdd (f : Fmt) (a b : Word) : Word :=
  packed 16 fun lo => roundF f 0 false ((fval f (fld a.toNat lo 16)).add (fval f (fld b.toNat lo 16)))

def halfFma (f : Fmt) (d a b : Word) : Word :=
  packed 16 fun lo => roundF f 0 false
    ((fval f (fld d.toNat lo 16)).add ((fval f (fld a.toNat lo 16)).mul (fval f (fld b.toNat lo 16))))

/-- The two-term dot product of R382: two FFMAs in FP32 on exactly widened FP16 elements. -/
def dot2 (d a b : Word) : Word :=
  let w := fun (x : Word) (i : Nat) => round32 (fval fp16 (fld x.toNat (16 * i) 16))
  ffma (ffma d (w a 0) (w b 0)) (w a 1) (w b 1)

end Sys2Proof.Machine
end

