-- ==== Sys2Proof/Machine/Access.lean ====
section
/-!
DEFINITION. Memory accesses of instructions: the address of R242, the checks of R243, reads and writes of checked places,
and the regions that matrix jobs hold (R116).
-/

namespace Sys2Proof.Machine

/-! ### Regions of matrix jobs -/

/-- The resolved ranges that a job reads and writes (R116, R284 to R287). -/
def JobWork.regions : JobWork → List Piece
  | .mma _ _ _ _ _ _ _ sa sb => sa ++ sb
  | .mloop _ _ _ _ _ _ ra rb sa sb => ra ++ rb ++ sa ++ sb
  | .mdrain _ _ _ _ _ dst max => dst ++ max
  | .quant2 _ _ _ src rowOut colOut rowScale colScale => src ++ rowOut ++ colOut ++ rowScale ++ colScale

/-- The resolved ranges that a job reads. -/
def JobWork.reads : JobWork → List Piece
  | .mdrain _ _ _ _ _ _ max => max
  | .quant2 _ _ _ src _ _ _ _ => src
  | w => w.regions

/-- A place within memory that has moved (R95). -/
def Loc.moved (old new size : Nat) : Loc → Loc
  | .sto a => .sto (if old ≤ a && a < old + size then new + (a - old) else a)
  | l => l

/-- Pieces within memory that has moved. -/
def movePieces (old new size : Nat) (ps : List Piece) : List Piece := ps.map fun p => { p with loc := p.loc.moved old new size }

/-- A job whose ranges lie in memory that has moved. -/
def JobWork.moved (old new size : Nat) : JobWork → JobWork
  | .mma a b tile za rb rm fr sa sb => .mma a b tile za rb rm fr (movePieces old new size sa) (movePieces old new size sb)
  | .mloop a b tile ks za rm ra rb sa sb =>
    .mloop a b tile ks za rm ra rb (movePieces old new size sa) (movePieces old new size sb)
  | .mdrain out tile tm sat rm dst max => .mdrain out tile tm sat rm (movePieces old new size dst) (movePieces old new size max)
  | .quant2 i r c src ro co rs cs => .quant2 i r c (movePieces old new size src) ro co rs cs

/-- An open rendezvous whose scales lie in memory that has moved. -/
def Rendezvous.moved (old new size : Nat) (r : Rendezvous) : Rendezvous :=
  { r with sa := movePieces old new size r.sa, sb := movePieces old new size r.sb }

/-- The jobs of an owner not matched by an MWAIT of every coach whose regions hold a byte (R116). Those of another owner are
none of a program's own (R7). -/
def State.jobsAt (s : State) (oid : Nat) (l : Loc) : List Nat :=
  (s.jobs.filter fun j => j.oid = oid && !j.coaches.isEmpty
    && overlap j.work.regions [{ off := 0, len := 1, loc := l }]).map Job.id

/-- A number for a place, for the free values. -/
def Loc.key : Loc → Nat
  | .core t o => 2 ^ 60 + t * 2 ^ 24 + o
  | .lane t l o => 2 ^ 61 + t * 2 ^ 24 + l * 8192 + o
  | .sto a => a

/-- Bytes as a program reads them: undefined where a matrix job holds them (R116). -/
def State.readData (s : State) (ag : Agent) (l : Loc) (leaf n : Nat) : List Byte :=
  (s.readAt ag l leaf n).mapIdx fun i b =>
    if (s.jobsAt ag.oid (l.plus i)).isEmpty then b else Config.freeByte s.tick (l.plus i).key

/-- The jobs of an owner that hold any byte of a range that it writes become spoiled (R7, R116). -/
def State.spoil (s : State) (oid : Nat) (ps : List Piece) : State :=
  { s with jobs := s.jobs.map fun j =>
      if j.oid = oid && !j.coaches.isEmpty && overlap j.work.regions ps then { j with spoiled := true } else j }

/-- Bytes as a program writes them; a job that holds them becomes spoiled. -/
def State.writeData (s : State) (ag : Agent) (l : Loc) (bs : List Byte) : State :=
  (s.spoil ag.oid [l.piece bs.length]).writeLocs ag.oid l bs

/-- Scratchpad words written since the last OPFENCE (R115), by the key 2^20 + offset. -/
def Here.markDirty (h : Here) (l : Loc) (n : Nat) : Here :=
  match l with
  | .core t o =>
    if t = h.team then
      { h with c := { h.c with dirty := (List.range n).foldl (fun d i => Cells.set false d (2 ^ 20 + o + i) true) h.c.dirty } }
    else h
  | _ => h

/-! ### Addresses -/

/-- The base field of a lane access may be used: a pair for GLOBAL, else one register; nothing with ABS (R242). -/
def Here.okBaseL (h : Here) (space : Nat) (a : BitVec 8) (abs : Bool) : Except Stop Unit :=
  if abs then pure () else h.okLBlock a (if space = spaceGlobal then 2 else 1) false

/-- The base field of a uniform access. -/
def Here.okBaseU (h : Here) (space : Nat) (a : BitVec 8) (abs : Bool) : Except Stop Unit :=
  if abs then pure () else h.okUBlock a (if space = spaceGlobal then 2 else 1)

/-- The address of a lane access in lane `l`, and its taint (R242). -/
def Here.addrL (h : Here) (space : Nat) (a : BitVec 8) (abs : Bool) (l : Nat) : Int × Bool :=
  if abs then (h.immMem, false)
  else
    let lo := h.l a.toNat l
    if space = spaceGlobal then
      let hi := h.l (a.toNat + 1) l
      ((hi.1.toNat * 2 ^ 32 + lo.1.toNat : Nat) + h.immMem, lo.2 || hi.2)
    else (lo.1.toNat + h.immMem, lo.2)

/-- The address of a uniform access, and its taint (R242). -/
def Here.addrU (h : Here) (space : Nat) (a : BitVec 8) (abs : Bool) : Int × Bool :=
  if abs then (h.immMem, false)
  else if space = spaceGlobal then let p := h.uPair a.toNat; (p.1.toNat + h.immMem, p.2)
  else let x := h.u a.toNat; (x.1.toNat + h.immMem, x.2)

/-! ### Checks -/

/-- An address as the fault record holds it (R317). -/
def recAddr (ea : Int) : Nat := (ea % 2 ^ 56).toNat

/-- A checked access: lane, address, place, leaf. -/
structure Checked where
  lane : Nat
  ea : Int
  loc : Loc
  leaf : Nat
deriving DecidableEq, Repr

/-- The hold of a checked access of `n` bytes, which waits for the channels that are held (R339, R341). -/
def State.channelHold (s : State) (l : Loc) (n : Nat) : Except Stop Unit :=
  let chans := s.heldChannels [{ off := 0, len := n, loc := l }]
  if chans.isEmpty then .ok () else .error (.hold chans)

/-- The channels that held checks wait for, or nothing where no check is held. -/
def heldChecks (l : List Check) : Option (List Nat) :=
  let held := l.filterMap fun c => match c with | .held chans => some chans | _ => none
  if held.isEmpty then none else some held.flatten.eraseDups

/-- R243 for the lanes of one instruction: every failing lane is recorded, and the cause is that of the lowest. No lane traps
before every lane's translation is at hand (R95). -/
def State.checkLanes (s : State) (ag : Agent) (space n : Nat) (acc : Access) (eas : List (Nat × Int)) :
    Except Stop (List Checked) :=
  let rs := eas.map fun p => (p.1, p.2, s.check ag space p.1 p.2 n acc)
  let bad : List LaneFault := rs.filterMap fun r => match r.2.2 with
    | .fails c reason => some { lane := r.1, cause := c, reason := reason, space := space, addr := recAddr r.2.1 }
    | _ => none
  match heldChecks (rs.map fun r => r.2.2), bad with
  | some chans, _ => .error (.hold chans)
  | none, f :: _ => .error (.trap { cause := f.cause, reason := f.reason, space := space, addr := f.addr, lanes := bad })
  | none, [] =>
    .ok (rs.filterMap fun r => match r.2.2 with
      | .ok l leaf => some { lane := r.1, ea := r.2.1, loc := l, leaf := leaf }
      | _ => none)

/-- R243 for the one access of a uniform instruction: a fault names no lane (R243, R317). -/
def State.checkOnce (s : State) (ag : Agent) (space lane n : Nat) (acc : Access) (ea : Int) : Except Stop Checked :=
  match s.check ag space lane ea n acc with
  | .fails c reason => .error (.trap { cause := c, reason := reason, space := space, addr := recAddr ea })
  | .held chans => .error (.hold chans)
  | .ok l leaf => .ok { lane := lane, ea := ea, loc := l, leaf := leaf }

/-- What checked accesses leave in the TLB and the table of stable pages. -/
def State.noteAll (s : State) (ag : Agent) (space : Nat) (cs : List Checked) : State :=
  cs.foldl (fun s c => s.noteAccess ag space c.ea.toNat c.loc c.leaf) s

/-- Register `i` of the little-endian value of a load, zero-extended (R246). -/
def loadWord (bs : List Byte) (i : Nat) : Word := BitVec.ofNat 32 (leNat bs / 2 ^ (32 * i))

/-- Registers that an access of `n` bytes uses. -/
def regsOf (n : Nat) : Nat := ceilDiv n 4

/-- The new word of an atomic with operation code `op` (R249): add, min, max, and, or, xor, exchange, compare and swap. -/
def atomicNew (op : Nat) (old v0 v1 : Word) : Word :=
  match op with
  | 0 => old + v0 | 1 => minS old v0 | 2 => maxS old v0 | 3 => old &&& v0 | 4 => old ||| v0 | 5 => old ^^^ v0 | 6 => v0
  | _ => if old = v0 then v1 else old

/-- The four bytes of a word at a place. -/
def word32 (bs : List Byte) : Word := BitVec.ofNat 32 (leNat bs)

/-! ### Accesses that wait for a channel -/

/-- The bytes that a load of an instruction returns at its issue: nothing yet where it waits for its channel (R31, R177). -/
def State.loadData (s : State) (ag : Agent) (l : Loc) (leaf n : Nat) : List Byte :=
  if s.blocked l then (List.range n).map fun i => Config.freeByte s.tick (l.plus i).key else s.readData ag l leaf n

/-- What an access orders (R107, R123): the scope at which it acquires, if it does, and that of the AR fence after it. -/
structure AccessOrder where
  acq : Option Nat
  fence : Option Nat

/-- The order of an access in a space that acquires at scope `acq`. -/
def Here.order (h : Here) (space : Nat) (acq : Option Nat) : AccessOrder := { acq := acq, fence := h.implied space }

/-- The record of an access that waits. -/
def Here.waiting (h : Here) (l : Loc) (leaf n : Nat) (keys : List Nat) (o : AccessOrder) (rels : List Release) (work : WaitWork) :
    Waiting :=
  let a := match l with | .sto a => a | _ => 0
  { chan := channelOf a, work := work, ctx := h.ctx, keys := keys, seq := h.c.longNo, a := a, n := n, leaf := leaf,
    oid := h.agent.oid, core := h.agent.core, acq := o.acq, spot := h.spot, fence := o.fence, rels := rels }

/-- The loads of an instruction that wait for their channels join those that wait. -/
def State.arriveLoads (s : State) (h : Here) (n : Nat) (o : AccessOrder) (keys : Checked → List Nat) (cs : List Checked) : State :=
  cs.foldl (fun s c => if s.blocked c.loc then s.arrive (h.waiting c.loc c.leaf n (keys c) o [] .load) else s) s

/-- The issuer after the loads of an instruction that are performed at once: what was released there has been read (R109). -/
def Here.sawAll (h : Here) (s : State) (n : Nat) (o : AccessOrder) (cs : List Checked) : Here :=
  h.onCoach fun c => cs.foldl (fun c x => if s.blocked x.loc then c else c.saw h.spot o.acq (s.postsAt x.loc n)) c

/-- A store of an instruction, which makes the releases `rels`: performed, or left to wait for its channel (R31). -/
def State.storeData (s : State) (h : Here) (l : Loc) (leaf : Nat) (rels : List Release) (bs : List Byte) : State :=
  if s.blocked l then s.arrive (h.waiting l leaf bs.length [] { acq := none, fence := none } rels (.store bs))
  else (s.writeData h.agent l bs).post l bs.length rels

/-- The write of an atomic whose old word is `old`, which makes the releases `rels`: performed, what was released there
standing on (R109), or the whole atomic left to wait for its channel. -/
def State.atomicData (s : State) (h : Here) (l : Loc) (leaf : Nat) (keys : List Nat) (o : AccessOrder) (rels : List Release) (op : Nat)
    (old v0 v1 : Word) : State :=
  if s.blocked l then s.arrive (h.waiting l leaf 4 keys o rels (.atomic op v0 v1))
  else (s.writeData h.agent l (leBytes 4 (atomicNew op old v0 v1).toNat)).post l 4 (s.postsAt l 4 ++ rels)

/-- A register of a coach by its key: V, S or T. The register was written when its instruction issued (R115, R253). -/
def Coach.putKey (c : Coach) (key : Nat) (x : Word) : Coach :=
  if key < 8192 then { c with v := Cells.set 0 c.v key x }
  else if key < 8448 then { c with s := Cells.set 0 c.s (key - 8192) x }
  else { c with t := Cells.set 0 c.t (key - 8448) x }

/-- The result of a waiting access reaches its registers: an even share of its words each, and one access fewer is
outstanding (R177). The releases `rels` have been read. -/
def Coach.landed_ (c : Coach) (w : Waiting) (bs : List Byte) (rels : List Release) : Coach :=
  let share := w.keys.length / max 1 (regsOf w.n)
  let c := (w.keys.zipIdx).foldl (fun c k => c.putKey k.1 (loadWord bs (k.2 / max 1 share))) c
  let c := c.saw w.spot w.acq rels
  let c := match w.fence with | some sc => c.fence w.spot sc | none => c
  { c with longs := c.longs.map fun r => if r.seq = w.seq then { r with left := r.left - 1 } else r }

/-- The bytes of a waiting write that has been performed carry the numbers that it took when it arrived (R121). -/
def Storage.restamp (m : Storage) (a n stamp : Nat) : Storage :=
  { m with stamp := (List.range n).foldl (fun c i => Cells.set 0 c (a + i) (stamp + i)) m.stamp }

/-- The write of a waiting access, after which the releases `rels` stand there. -/
def State.waitWrite (s : State) (ag : Agent) (w : Waiting) (rels : List Release) (bs : List Byte) : State :=
  let s := (s.writeData ag (.sto w.a) bs).post (.sto w.a) bs.length rels
  { s with mem := s.mem.restamp w.a bs.length w.stamp }

/-- The agent whose access waits. -/
def Waiting.agent (w : Waiting) : Agent :=
  { oid := w.oid, team := (match w.ctx with | .coach team _ => team | _ => 0), t := { oid := w.oid }, core := w.core }

/-- A waiting access of an instruction performed (R31, R341). -/
def State.performWait (s : State) (w : Waiting) : State :=
  let ag := w.agent
  let rels := s.postsAt (.sto w.a) w.n
  match w.work with
  | .again _ _ => s
  | .store bs => s.waitWrite ag w w.rels bs
  | .load =>
    let bs := s.readData ag (.sto w.a) w.leaf w.n
    s.modCtx w.ctx fun c => c.landed_ w bs rels
  | .atomic op v0 v1 =>
    let bs := s.readData ag (.sto w.a) w.leaf 4
    let s := s.waitWrite ag w (rels ++ w.rels) (leBytes 4 (atomicNew op (word32 bs) v0 v1).toNat)
    s.modCtx w.ctx fun c => c.landed_ w bs rels

/-- A move that waits can be made again: none of the channels that it waits for is held. -/
def State.mayAgain (s : State) (m : Move) : Bool :=
  s.arrivals.all fun w => match w.work with
    | .again x _ => x ≠ m || !s.chanHeld w.chan
    | _ => true

/-- The move that an access of a free channel makes again, if it can. -/
def State.againNow (s : State) (w : Waiting) : Option Move :=
  match w.work with
  | .again m _ => if !s.chanHeld w.chan && s.mayAgain m then some m else none
  | _ => none

/-- An access takes its turn in a free channel: it is performed; a move is made next, if it can be, after which the channel's
later accesses are served, and stays where it waits for another channel as well. -/
def State.serveOne (s0 s : State) (w : Waiting) : State :=
  match w.work with
  | .again _ _ => match s0.againNow w with
    | some m => if s.due.contains m then s else { s with due := s.due ++ [m] }
    | none => { s with arrivals := s.arrivals ++ [w] }
  | _ => s.performWait w

/-- Whether the oldest access of a channel among `l` is a move that is made again. -/
def State.turnTaken (s0 : State) (ch : Nat) (l : List Waiting) : Bool := l.any fun w => w.chan = ch && (s0.againNow w).isSome

/-- Those that wait take their turns in arrival order, `done` having had theirs (R341). -/
def State.serve (s0 : State) : State → List Waiting → List Waiting → State
  | s, _, [] => s
  | s, done, w :: rest =>
    State.serve s0
      (if s0.chanHeld w.chan || s0.turnTaken w.chan done then { s with arrivals := s.arrivals ++ [w] } else s0.serveOne s w)
      (w :: done) rest

/-- Every access that waits for a channel which is no longer held is served, in arrival order (R341). DESIGN CHOICE (log
entry 54): a window serves all that wait when it opens, but for a move that waits for another channel as well. -/
def State.serveFree (s : State) : State :=
  let r := State.serve s { s with arrivals := [] } [] s.arrivals
  if s.arrivals.any fun w => (s.againNow w).isSome then { r with due := r.due ++ [.serve] } else r

/-- The little-endian value of consecutive registers. -/
def wordsNat : List Word → Nat
  | [] => 0
  | w :: r => w.toNat + 2 ^ 32 * wordsNat r

end Sys2Proof.Machine
end

