-- ==== Sys2Proof/Machine/Calendar.lean ====
section
/-!
DEFINITION. Calendars and admission (spec/21_scheduling.md R300 to R303, R405; spec/25_near_memory.md R347, R349).
-/

namespace Sys2Proof.Machine

/-- The capacity per slot of R301. -/
def tableCap (r : Nat) : Nat :=
  if r < 8 then 256000 else if r < 0x10 then 1024 else if r < 0x12 then 64000
  else if r = 0x18 || r = 0x19 then 57600
  else if 0x20 ≤ r && r < 0xC0 then 1
  else if 0x100 ≤ r && r < 0x1C0 then 63
  else if 0x200 ≤ r && r < 0x2C0 then 1
  else if 0x300 ≤ r && r < 0x3C0 then 1
  else if 0x1000 ≤ r && r < 0x2000 then 1
  else 0

/-- The capacity per slot that the part can carry: each working UCIe module brings 16,000 bytes (R301, R389). -/
def State.fullCap (s : State) (r : Nat) : Nat :=
  if r = 0x10 || r = 0x11 then 16000 * (s.ucie.filter id).length else tableCap r

/-- The capacity in force: as the firmware has scaled it, an HBM interface also by a lowered clock ratio (R347, R403). -/
def State.capOf (s : State) (r : Nat) : Nat :=
  let c := min ((Cells.find s.capacity r).getD (s.fullCap r)) (s.fullCap r)
  if r < 8 then
    match Cells.find s.ratios r with
    | some (n, d) => if n < d then c * n / d else c
    | none => c
  else c

/-- The amount reserved of a resource in a slot. -/
def State.reserved (s : State) (r t : Nat) : Nat :=
  ((s.calendar.filter fun e => e.res = r && decide (e.slot ≤ t) && decide (t < e.slot + e.len)).map Reserve.amount).sum

/-- What is left of a resource in a slot: a scaled capacity holds only in slots whose reservations fit it (R347, R403). -/
def State.free (s : State) (r t : Nat) : Nat :=
  (if s.reserved r t ≤ s.capOf r then s.capOf r else s.fullCap r) - s.reserved r t

/-- What admission must place: an amount spread over slots, or whole consecutive slots (R302, R349). -/
inductive Need where
  | spread (res amount : Nat)
  | solid (res len amount : Nat)
deriving DecidableEq, Repr

/-- An amount placed in the earliest slots from `t` on, over at most `fuel` slots (log entry 19). -/
def State.placeSpread (s : State) (r : Nat) : Nat → Nat → Nat → Option (List Reserve)
  | 0, _, amount => if amount = 0 then some [] else none
  | fuel + 1, t, amount =>
    if amount = 0 then some []
    else
      let n := min amount (s.free r t)
      (s.placeSpread r fuel (t + 1) (amount - n)).map fun l =>
        if n = 0 then l else { res := r, slot := t, len := 1, amount := n } :: l

/-- The first run of `len` slots with room for `amount`, begun at one of `fuel` slots from `t` on. -/
def State.placeSolid (s : State) (r len amount : Nat) : Nat → Nat → Option Nat
  | 0, _ => none
  | fuel + 1, t =>
    if (List.range len).all fun i => decide (amount ≤ s.free r (t + i)) then some t
    else s.placeSolid r len amount fuel (t + 1)

/-- One need placed in the `slots` slots from `now` on. -/
def State.placeNeed (s : State) (now slots : Nat) : Need → Option (List Reserve)
  | .spread r amount => s.placeSpread r slots now amount
  | .solid r len amount =>
    if slots < len then none
    else (s.placeSolid r len amount (slots - len + 1) now).map fun t =>
      [{ res := r, slot := t, len := len, amount := amount }]

/-- All needs placed, or none (R302). -/
def State.placeAll (s : State) (now slots : Nat) : List Need → Option State
  | [] => some s
  | n :: rest =>
    match s.placeNeed now slots n with
    | none => none
    | some l => { s with calendar := s.calendar ++ l }.placeAll now slots rest

/-- The slots that a class leaves for reservations on a path with a fixed transit (R302, R405). -/
def windowSlots (cls transit : Nat) : Nat := Config.bound cls - transit

/-- The hint of a refusal (R303). -/
def State.hint (s : State) (slots : Nat) (needs : List Need) : Nat :=
  match (List.range 524288).find? fun k => (s.placeAll (s.slot + k + 1) slots needs).isSome with
  | some k => k + 1
  | none => 0x7FFFFFFF

/-- Two ranges of virtual addresses share a byte. -/
def pagesMeet (a b : Nat × Nat) : Bool := decide (a.1 < b.1 + b.2) && decide (b.1 < a.1 + a.2)

/-- The region of an admitted dray kernel node (R329, R330): base and size. -/
def Node.region (n : Node) : Nat × Nat :=
  let w (i : Nat) : Nat := (n.words.getD i 0).toNat
  (fld (w 6) 20 36 * 2 ^ 20, (fld (w 7) 0 12 + 1) * 2 ^ 20)

/-- The engine class of a node record (R295). -/
def Node.eng (n : Node) : Nat := fld (n.words.getD 0 0).toNat 60 4

/-- A page of owner `oid` awaits a swap (R95). -/
def State.swapPending (s : State) (oid : Nat) (pages : List (Nat × Nat)) : Bool :=
  s.swaps.any fun w => !w.begun && w.oid = oid && pages.any fun p => decide (p.1 < w.va + w.size) && decide (w.va < p.1 + p.2)

/-- The pages with a pending swap that share a byte with some pages (R95). -/
def State.pendingPages (s : State) (oid : Nat) (pages : List (Nat × Nat)) : List (Nat × Nat) :=
  (s.swaps.filter fun w => !w.begun && w.oid = oid && pages.any (pagesMeet (w.va, w.size))).map fun w => (w.va, w.size)

/-- The latest class bound among the requests, jobs and dray kernel nodes that hold a snapshot in those pages (R95). DESIGN CHOICE
(log entry 55): an MDRAIN names no latency class and counts with the deadline of its node (`startJob`). -/
def State.snapshotEnd (s : State) (oid : Nat) (pages : List (Nat × Nat)) : Nat :=
  let meets (l : List (Nat × Nat)) : Bool := l.any fun q => pages.any (pagesMeet q)
  let r := (s.requests.filter fun p => p.2.oid = oid && meets p.2.pages).foldl (fun m p => max m p.2.deadline) s.slot
  let j := (s.jobs.filter fun j => j.oid = oid && !j.done && meets j.pages).foldl (fun m j => max m j.deadline) r
  let held (n : Node) : Bool := n.oid = oid && n.admitted.isSome && n.eng = 1 && meets [n.region]
  (s.nodes.filter fun n => held n.2).foldl (fun m n => max m n.2.deadline) j

/-- The hint of a refusal for a pending swap: slots until the last bound of a holder of those pages, plus one (R95). -/
def State.swapHint (s : State) (oid : Nat) (pages : List (Nat × Nat)) : Nat :=
  s.snapshotEnd oid (s.pendingPages oid pages) - s.slot + 1

/-- Admission of a request: the state with its reservations, or the hint (R95, R302, R303). -/
def State.tryAdmit (s : State) (oid cls transit : Nat) (pages : List (Nat × Nat)) (needs : List Need) : Except Nat State :=
  if s.swapPending oid pages then .error (s.swapHint oid pages)
  else
    let slots := windowSlots cls transit
    match s.placeAll s.slot slots needs with
    | some s => .ok s
    | none => .error (s.hint slots needs)

/-! ### Paths -/

/-- The HBM stack of a storage place. -/
def stackOf (a : Nat) : Option Nat := if a < 2 ^ 39 then some (fld a 36 3) else none

/-- A storage place in host memory. -/
def isHost (a : Nat) : Bool := decide (2 ^ 51 ≤ a) && decide (a < 2 ^ 52)

/-- The bytes of a resolved range that lie in a stack. -/
def stackBytes (ps : List Piece) (st : Nat) : Nat :=
  (ps.map fun p => match p.loc with | .sto a => if stackOf a = some st then p.len else 0 | _ => 0).sum

/-- The bytes of a resolved range in host memory. -/
def hostBytes (ps : List Piece) : Nat :=
  (ps.map fun p => match p.loc with | .sto a => if isHost a then p.len else 0 | _ => 0).sum

/-- Byte reservations of data read from `src` and written to `dst` (R302). -/
def byteNeeds (src dst : List Piece) : List Need :=
  ((List.range 8).filterMap fun st =>
    let n := stackBytes src st + stackBytes dst st
    if n = 0 then none else some (.spread st n))
  ++ (if hostBytes dst = 0 then [] else [.spread 0x10 (hostBytes dst)])
  ++ (if hostBytes src = 0 then [] else [.spread 0x11 (hostBytes src)])

/-- The transit between a core's tower and one storage place (R405). -/
def locTransit (tower : Nat) : Loc → Nat
  | .sto a =>
    if isHost a then 4
    else if a < 2 ^ 39 then (if fld a 36 3 / 2 = tower then 1 else 2)
    else if a < 2 ^ 53 then (if (a - 2 ^ 52) / 2 ^ 26 = tower then 1 else 2)
    else 1
  | _ => 1

/-- The largest transit over resolved ranges (R405). -/
def pathTransit (tower : Nat) (ps : List Piece) : Nat := ps.foldl (fun m p => max m (locTransit tower p.loc)) 1

/-- The channels of a resolved range in HBM, with the bytes in each (R344). -/
def channelBytes (ps : List Piece) : Cells Nat :=
  ps.foldl (fun m p => match p.loc with
    | .sto a =>
      if a < 2 ^ 39 then
        (List.range (p.len / 2048 + 2)).foldl (fun m i =>
          let lo := max a (a / 2048 * 2048 + 2048 * i)
          let hi := min (a + p.len) (a / 2048 * 2048 + 2048 * (i + 1))
          if lo < hi then Cells.set 0 m (channelOf lo) (Cells.get 0 m (channelOf lo) + (hi - lo)) else m) m
      else m
    | _ => m) []

/-- The reservations of the dray requests of a copy (R349). -/
def drayNeeds (dst : List Piece) : List Need :=
  (channelBytes dst).map fun p => .spread (0x1000 + p.1) (ceilDiv p.2 2048)

end Sys2Proof.Machine
end

