-- ==== Sys2Proof/Machine/Control.lean ====
section
/-!
DEFINITION. Control transfers, the trailer and the prefix, program traps, return from a handler and replay
(spec/14_instr_uniform.md R200 to R213, spec/15_instr_lane.md R241, spec/23_faults.md R320 to R324).
-/

namespace Sys2Proof.Machine

/-! ### Run-closing instructions -/

/-- A run-closing instruction (R175): its effect `f` is kept until the trailer issues. Where another word than a trailer
follows, it traps ILLEGAL; where no word can be fetched, the fetch of the trailer will fault (R182), and the trap is taken
should another word stand there afterwards (State.closerTrap). -/
def closing (sw remoteOk : Bool) (s : State) (f : State → Here → Except Stop Closer) : Host.Outcome State Fault Refusal :=
  native sw remoteOk s fun s h => do
    match s.fetch h (h.g.pc + 4) with
    | .error (.hold cs) => .error (.hold cs)
    | .ok w => if isTrailer w then pure () else .error illegal
    | .error (.trap _) => pure ()
    let k ← f s h
    let r := h.run
    let back := if r.pre.isSome then 1 else 0
    pure (s, h.setRun { r with closer := k, closerPc := h.g.pc - 4 * back, closerWord := r.word, closerPre := r.pre,
                               closerWords := r.words - back })

/-- The record of a trap that is taken once the trailer has issued (R211, R281). -/
def Here.stoppedAfter (h : Here) (t : Trap) (resume : Nat) : Stopped :=
  let r := h.run
  { trap := t, pc := r.closerPc, word := r.closerWord, pre := r.closerPre, resume := resume, exec := h.g.exec,
    mem := h.g.mem, run := r.no, sub := h.g.id }

/-- A trap at the run-closing instruction, whose trailer does not issue: it issues again in the same run (R313). -/
def State.closerTrap (s : State) (h : Here) (t : Trap) : State :=
  let r := h.run
  let back : Run := { r with words := r.closerWords, pre := .none, closer := .none }
  s.stopWith { h with g := { h.g with pc := r.closerPc, run := some back } } (h.stoppedAfter t r.closerPc)

/-- A transfer whose target fails: FETCH-BOUNDS at the transfer, which issues again with its trailer under a new run
number, the post having been applied (R182, R313). -/
def State.badTarget (s : State) (h : Here) (target : Int) : State :=
  let r := h.run
  let f := h.stoppedAfter { cause := .fetchBounds, space := spaceFetch, addr := (target % 2 ^ 56).toNat } r.closerPc
  let h := { h with g := { h.g with pc := r.closerPc,
                                    run := some { r with no := 0, words := r.closerWords, pre := .none, closer := .none } } }
  s.stopWith h f

/-- The sub-group leaves its run: WAIT, the switch marker and the parks of the run apply, and the half is free (R206). -/
def Here.leaveRun (h : Here) (pc : Nat) (wait : BitVec 8) (parks : List Park) : Here :=
  let r := h.run
  let sw := if r.sw then [Park.switch h.c.longNo] else []
  { h with g := { h.g with pc := pc, run := .none, wait := wait, parks := h.g.parks ++ sw ++ r.after ++ parks,
                           lastRun := r.no, at_ := r.stopAt.getD (0, 0, .none, 0), fall := h.g.pc + 4 } }

/-- The trailer takes its ordinary end: the half of a coach is free, and its team may now stall (R46); a remote function
has neither (R264). -/
def State.endRun (s : State) (h : Here) : State :=
  if h.remote.isSome then s.put h else ((s.put h).freeHalf h.t.core h.team h.ci h.c).checkStall h.team

/-- A split of the issuing sub-group (R36): the taken lanes go to the target, all others to the fall-through; both
children carry the pending WAIT, the parks of the trailer and the recordings. -/
def Here.split (h : Here) (taken : Word) (target fall : Nat) : Here :=
  let g := h.g
  let n := h.c.nextId
  let a : SubGroup := { g with id := n, pc := target, mem := taken, exec := taken, parent := some g.id, pass := 0,
                               overdue := false }
  let stay := g.mem &&& ~~~taken
  let b : SubGroup := { g with id := n + 1, pc := fall, mem := stay, exec := stay &&& g.exec, parent := some g.id, pass := 0,
                               overdue := false }
  let c := h.c.dropSub g.id
  { h with g := a, c := { c with subs := c.subs ++ [a, b], nextId := n + 2,
                                 parents := { id := g.id, mem := g.mem, parent := g.parent } :: c.parents } }

/-- Where the next run of a lane-conditional or unconditional transfer begins when its target is good. -/
def State.jumpTo (s : State) (h : Here) (target : Int) (link : Bool) (wait : BitVec 8) : State :=
  if inSegment (s.segment h).2 target then
    let h := if link then h.setS 63 (BitVec.ofNat 32 (h.g.pc + 4)) false else h
    s.endRun (h.leaveRun target.toNat wait [])
  else s.badTarget h target

/-- The saved context comes back and the handler sub-group ends (R320). -/
def Coach.restore (c : Coach) (v : Saved) : Coach :=
  { c with saved := .none, subs := v.subs, parents := v.parents, t := v.t, tt := v.tt, tw := v.tw, vi := v.vi,
           s := (List.range 8).foldl (fun s i => Cells.set 0 s (56 + i) (v.s.getD i 0)) c.s,
           st := (List.range 8).foldl (fun s i => Cells.set false s (56 + i) (v.st.getD i false)) c.st }

/-- The lanes of a fault in compatibility mode, and those that waited for its delivery, go on (R48). -/
def Coach.unpark (c : Coach) (f : Stopped) : Coach :=
  let more := !c.stops.isEmpty
  { c with subs := c.subs.map fun g =>
      if g.id = f.sub then { g with parks := g.parks.filter (· ≠ .faulted) }
      else if more then g
      else { g with rest := false, parks := g.parks.filter (· ≠ .converged) } }

/-- Entries of the wait table of a tower whose teams are on it (R323). -/
def State.waitCount (s : State) (tower : Nat) : Nat := (s.waits.filter fun e => e.tower = tower).length

/-- RFE once its trailer has issued (R320): resume, park under the wait table, or abandon the node. A park whose fault
was replayed meanwhile, or that finds the table full, acts as a resumption (R323, R324). -/
def State.rfe (s : State) (h : Here) : State :=
  match h.c.saved with
  | none => s
  | some v =>
    let s := s.freeHalf h.t.core h.team h.ci h.c
    let c := ((h.c.fence h.spot 5).restore v).unpark v.fault
    let tower := Config.towerOf h.t.core
    let resume := s.modCoach h.team h.ci fun _ => c
    let resume := (resume.tryEntry h.team h.ci).checkStall h.team
    match h.c.act.toNat with
    | 0 => resume
    | 1 =>
      if v.replayed || decide (1024 ≤ s.waitCount tower) then resume
      else
        let s := s.modCoach h.team h.ci fun _ => { c with parked := some v.token }
        let e : WaitEntry :=
          { tower := tower, token := v.token, oid := h.t.oid, team := h.team, coach := h.ci,
            addr := if v.fault.trap.cause = .pageFault then some v.fault.trap.addr else none }
        { s with waits := s.waits ++ [e] }
    | _ => (s.modCoach h.team h.ci fun _ => { c with parked := some v.token }).stopNode h.t.node 5

/-- ICINV (R121, R183): the coach may now execute what it had acquired. Every scope covers the coach's own core; the caches
of other cores that the scope covers are emptied too, which no fetch there shows, since R121 asks each coach for an ICINV
of its own. -/
def Here.icinv (h : Here) : Here := { h with c := { h.c with ic := h.c.acq } }

/-- The effects of a trailer in the order of R206, `h` standing at the trailer with its post applied. -/
def State.trailer (s : State) (h : Here) (wait : BitVec 8) : State :=
  let r := h.run
  let fall := h.g.pc + 4
  match r.closer with
  | .none => s.endRun (h.leaveRun fall wait [])
  | .jump target link => s.jumpTo h target link wait
  | .split taken target =>
    if inSegment (s.segment h).2 target then
      let h := h.leaveRun fall wait []
      s.endRun (h.split taken target.toNat fall)
    else s.badTarget h target
  | .endLanes =>
    let conv := if h.g.rest then [Park.converged] else []
    s.endRun (h.leaveRun fall wait (.ending r.no :: conv))
  | .trap code value =>
    let f := h.stoppedAfter { cause := .trap, detail := code.zeroExtend 16, w6 := value } fall
    s.stopWith (h.leaveRun fall wait []) f
  | .rfe => s.rfe h
  | .icinv _ => s.endRun (h.icinv.leaveRun fall wait [])
  | .barsync pending =>
    match pending with
    | none => s.endRun (h.leaveRun fall wait [])
    | some (b, e) =>
      match h.arriveSub b e true with
      | .error _ => s.closerTrap h { cause := .barrierCount, detail := BitVec.ofNat 16 b }
      | .ok (h, done) =>
        let s := if done then s.releaseBarrier h.team b else s
        s.endRun (h.leaveRun fall wait [])
  | .waitAny k m taint => s.endRun (h.leaveRun fall wait [.tagAny k m taint])
  | .waitAll m => s.endRun (h.leaveRun fall wait [.tagAll m])
  | .rcwait k token taint => s.endRun (h.leaveRun fall wait [.rcwait k token taint])

/-- Each slot named in POST takes the number of the run (R178, R206). -/
def Here.post (h : Here) (post : BitVec 8) : Here :=
  { h with c := { h.c with w := (List.range 8).foldl (fun w n =>
      if post.getLsbD n then Cells.set 0 w n h.run.no else w) h.c.w } }

/-- RUNEND (R206): the trailer of the run; as the first word of a run it traps ILLEGAL (R175). -/
def execRunend (post wait : BitVec 8) (s : State) : Host.Outcome State Fault Refusal :=
  match s.here with
  | none => .fault .noIssuer
  | some h =>
    if h.run.words = 0 then
      .next (s.stopWith h.rewind (h.stopped { cause := .illegal }))
    else .next (s.trailer (h.post post) wait)

/-- IMMX (R172, R207): the immediate is kept for the next word. It traps ILLEGAL where no prefix may stand, and a fault of
the fetch of the next word is raised at the IMMX, which then has not issued (R182). -/
def execImmx (imm : BitVec 24) (s : State) : Host.Outcome State Fault Refusal :=
  match s.here with
  | none => .fault .noIssuer
  | some h =>
    let r := h.run
    let next := s.fetch h (h.g.pc + 4)
    let record (word : Word) (pre : Option (BitVec 24)) (t : Trap) : Stopped :=
      { trap := t, pc := h.g.pc, word := word, pre := pre, resume := h.g.pc, exec := h.g.exec, mem := h.g.mem, run := r.no,
        sub := h.g.id }
    if 23 ≤ r.words then
      .next (s.stopWith h (match next with
        | .ok w => record w (some imm) { cause := .illegal }
        | .error _ => record r.word none { cause := .illegal }))
    else match next with
      | .error (.hold cs) => .next (s.markWaiting cs)
      | .error (.trap t) => .next (s.stopWith h (record 0 (some imm) t))
      | .ok w =>
        if takesImmx imm w then
          .next (s.put { h with g := { h.g with pc := h.g.pc + 4,
                                                run := some { r with words := r.words + 1, pre := some imm } } })
        else .next (s.stopWith h (record w (some imm) { cause := .illegal }))

/-! ### Branches, calls and END -/

/-- BZ and BNZ (R201): the branch is taken when the tested value is zero, or when it is not. A branch that is not taken
checks nothing (R200). -/
def uniBranch (sw : Bool) (d : BitVec 8) (off : BitVec 16) (s : State) (zero : Bool) : Host.Outcome State Fault Refusal :=
  closing sw true s fun _ h => do
    h.okU d
    let x := (h.u d.toNat).1
    pure (if (x == 0) == zero then .jump (h.target 16 off.toNat) false else .none)

/-- BZ: uniform branch if zero (R201). -/
def execBz (sw : Bool) (d : BitVec 8) (off : BitVec 16) (s : State) : Host.Outcome State Fault Refusal :=
  uniBranch sw d off s true

/-- BNZ: uniform branch if not zero (R201). -/
def execBnz (sw : Bool) (d : BitVec 8) (off : BitVec 16) (s : State) : Host.Outcome State Fault Refusal :=
  uniBranch sw d off s false

/-- BRA: the next run begins at the target (R202). -/
def execBra (sw : Bool) (off : BitVec 18) (s : State) : Host.Outcome State Fault Refusal :=
  closing sw true s fun _ h => pure (.jump (h.target 18 off.toNat) false)

/-- CALL: as BRA, with S63 the offset of the word after the trailer (R202). -/
def execCall (sw : Bool) (off : BitVec 18) (s : State) : Host.Outcome State Fault Refusal :=
  closing sw true s fun _ h => pure (.jump (h.target 18 off.toNat) true)

/-- A transfer to the offset that a register holds (R203). -/
def regJump (sw : Bool) (reg : BitVec 8) (s : State) (link : Bool) : Host.Outcome State Fault Refusal :=
  closing sw true s fun _ h => do
    h.okU reg
    pure (.jump ((h.u reg.toNat).1.toNat : Int) link)

/-- CALLR (R203): the target is read before S63 is written. -/
def execCallr (sw : Bool) (reg : BitVec 8) (s : State) : Host.Outcome State Fault Refusal := regJump sw reg s true

/-- BRR (R203). -/
def execBrr (sw : Bool) (reg : BitVec 8) (s : State) : Host.Outcome State Fault Refusal := regJump sw reg s false

/-- RET (R203): as BRR. -/
def execRet (sw : Bool) (reg : BitVec 8) (s : State) : Host.Outcome State Fault Refusal := regJump sw reg s false

/-- END (R42, R205): once the trailer has issued the sub-group is parked until its lanes may end. -/
def execEndLanes (sw : Bool) (s : State) : Host.Outcome State Fault Refusal :=
  closing sw true s fun _ _ => pure .endLanes

/-- BVZ and BVNZ (R241, R36): whole where the active lanes agree or none is active, else a split. -/
def laneBranch (sw : Bool) (d : BitVec 8) (off : BitVec 16) (s : State) (zero : Bool) : Host.Outcome State Fault Refusal :=
  closing sw false s fun _ h => do
    h.okL d
    let act := lanesOf h.g.exec
    let taken := act.filter fun l => ((h.l d.toNat l).1 == 0) == zero
    pure (if taken.isEmpty then .none
      else if taken.length = act.length then .jump (h.target 16 off.toNat) false
      else .split (maskOf taken) (h.target 16 off.toNat))

/-- BVZ: lane-conditional branch if zero (R241). -/
def execBvz (sw : Bool) (d : BitVec 8) (off : BitVec 16) (s : State) : Host.Outcome State Fault Refusal :=
  laneBranch sw d off s true

/-- BVNZ: lane-conditional branch if not zero (R241). -/
def execBvnz (sw : Bool) (d : BitVec 8) (off : BitVec 16) (s : State) : Host.Outcome State Fault Refusal :=
  laneBranch sw d off s false

/-! ### Program traps, return and replay -/

/-- TRAP (R211): REG is read at the TRAP; the coach stops once the trailer has issued. -/
def execTrap (sw : Bool) (reg : BitVec 8) (code : BitVec 10) (s : State) : Host.Outcome State Fault Refusal :=
  closing sw true s fun _ h => do
    h.okU reg
    pure (.trap code (h.u reg.toNat).1)

/-- RFE (R212): only while HND = 1; its effect is that of R320 once the trailer has issued. -/
def execRfe (sw : Bool) (s : State) : Host.Outcome State Fault Refusal :=
  closing sw false s fun _ h => if h.c.hnd then pure .rfe else .error illegal

/-- The coaches of matched wait-table entries become ready and the entries are freed; a fault that matches and whose
handler still runs is marked replayed (R324). The REPLAY's fence, and with it the writes that its issuer knows, happens before
the woken coach's next instruction. -/
def State.replay (s : State) (known : Known) (m : WaitEntry → Bool) : State :=
  let hit := s.waits.filter m
  let wake (k ci : Nat) (c : Coach) : Coach :=
    let c := if hit.any fun e => e.team = k && e.coach = ci then { c.joins known with parked := .none } else c
    match c.saved with
    | none => c
    | some v =>
      let e : WaitEntry :=
        { tower := 0, token := v.token, oid := ((Cells.find s.teams k).map Team.oid).getD 0, team := k, coach := ci,
          addr := if v.fault.trap.cause = .pageFault then some v.fault.trap.addr else none }
      if m e then { c with saved := some { v with replayed := true } } else c
  { s with
    waits := s.waits.filter fun e => !m e
    teams := s.teams.map fun p => (p.1, { p.2 with coaches := p.2.coaches.mapIdx fun ci c => wake p.1 ci c }) }

/-- The page that translates `x` under an owner, backed or not, or its 64 KiB region (R324): base and size. -/
def State.pageAround (s : State) (oid x : Nat) : Nat × Nat :=
  match s.walkLeaf oid x with
  | .leaf _ lvl _ => (x / pageSize lvl * pageSize lvl, pageSize lvl)
  | _ => (x / 65536 * 65536, 65536)

/-- Every cluster TLB entry of an owner for a page is shot down (R322). -/
def State.shootdown (s : State) (oid base size : Nat) : State :=
  { s with tlb := s.tlb.filter fun e => !(decide (e.oid = oid) && decide (e.va < base + size) && decide (base < e.va + e.size)) }

/-- A kind-0 replay of a token for an owner (R324). -/
def State.replayToken (s : State) (known : Known) (oid : Nat) (token : Word) : State :=
  s.replay known fun e => decide (e.oid = oid) && decide (e.token = token)

/-- A kind-1 replay of an address for an owner: the shootdown, then the wake-ups (R322, R324). -/
def State.replayPage (s : State) (known : Known) (oid x : Nat) : State :=
  let p := s.pageAround oid x
  (s.shootdown oid p.1 p.2).replay known fun e => decide (e.oid = oid) && match e.addr with
    | some a => decide (p.1 ≤ a) && decide (a < p.1 + p.2)
    | none => false

/-- After a replay the issuer's own coach, which the replay may have marked, is read back from the state. -/
def Here.reread (h : Here) (s : State) : Here :=
  match s.coach h.team h.ci with
  | some (_, c) => { h with c := { h.c with saved := c.saved, parked := c.parked } }
  | none => h

/-- A walk waits for a channel that holds one of its tables (R339). -/
def State.walkDone (s : State) (oid x : Nat) : Except Stop Unit :=
  match s.walkLeaf oid x with
  | .waits ch => .error (.hold [ch])
  | _ => .ok ()

/-- REPLAY of kind 0 (R213): only while HND = 1. With the AR fence that the issuer makes (R324). -/
def execReplayToken (sw : Bool) (reg : BitVec 8) (s : State) : Host.Outcome State Fault Refusal :=
  native sw false s fun s h => do
    if !h.c.hnd then .error illegal
    h.okU reg
    let h' := h.onCoach fun c => c.fence h.spot 5
    let s' := s.replayToken h'.c.acq h.t.oid (h.u reg.toNat).1
    pure (s', h'.reread s')

/-- REPLAY of kind 1 (R213): REG names a pair with a GLOBAL virtual address. -/
def execReplayPage (sw : Bool) (reg : BitVec 8) (s : State) : Host.Outcome State Fault Refusal :=
  native sw false s fun s h => do
    if !h.c.hnd then .error illegal
    h.okUPair reg
    let x := (h.uPair reg.toNat).1.toNat
    s.walkDone h.t.oid x
    let h' := h.onCoach fun c => c.fence h.spot 5
    let s' := s.replayPage h'.c.acq h.t.oid x
    pure (s', h'.reread s')

/-! ### Fences, ICINV and OPFENCE -/

/-- FENCE (R252): every access of the model is performed when it issues, so that all fences hold already (log
entry 1). An ACQ or AR fence acquires what the reads before it have seen, and a REL or AR fence makes releases of the writes
after it (R108, R109). -/
def execFence (sw : Bool) (kind : BitVec 2) (sc : BitVec 3) (s : State) : Host.Outcome State Fault Refusal :=
  native sw true s fun s h => pure (s, h.onCoach fun c => c.fenceBy kind h.spot sc.toNat)

/-- OPFENCE (R115, R253): earlier register writes of the coach, and its observed scratchpad writes, are visible to the
matrix unit. -/
def execOpfence (sw : Bool) (s : State) : Host.Outcome State Fault Refusal :=
  nativeHere sw false s fun h => pure { h with c := { h.c with dirty := [] } }

/-- ICINV (R183, R254): completes before the next run of the issuing sub-group is fetched. -/
def execIcinv (sw : Bool) (sc : BitVec 3) (s : State) : Host.Outcome State Fault Refusal :=
  closing sw false s fun _ _ => pure (.icinv sc.toNat)

end Sys2Proof.Machine
end

