-- ==== Sys2Proof/Machine/Engine.lean ====
section
/-!
DEFINITION. Engine requests and waits: COPY, GSJOB, RCALL, and the waits on tags and calls
(spec/16_instr_memory.md R255 to R269; spec/05_memory.md R92 to R95).
-/

namespace Sys2Proof.Machine

/-! ### Argument blocks and checks -/

/-- Register `i` of a block at S register field `b`. -/
def Here.arg (h : Here) (b : BitVec 8) (i : Nat) : Word := h.s (b.toNat - 192 + i)

/-- Registers `i` and `i + 1` of a block as one number. -/
def Here.arg64 (h : Here) (b : BitVec 8) (i : Nat) : Nat := (h.arg b (i + 1)).toNat * 2 ^ 32 + (h.arg b i).toNat

/-- The taint of the first `n` registers of a block. -/
def Here.argTaint (h : Here) (b : BitVec 8) (n : Nat) : Bool :=
  (List.range n).any fun i => Cells.get false h.c.st (b.toNat - 192 + i)

/-- The status register of a block written (R255): it is computed from the registers before it. -/
def Here.setStatus (h : Here) (b : BitVec 8) (i : Nat) (x : Nat) : Here :=
  h.setS (b.toNat - 192 + i) (BitVec.ofNat 32 x) (h.argTaint b i)

/-- A refusal status with hint `k` (R255). -/
def refusal (k : Nat) : Nat := 2 ^ 31 + k

/-- TAG-RANGE and TAG-BUSY (R94). -/
def Here.okTag (h : Here) (t : Nat) : Except Stop Unit :=
  if h.t.grants.tagn ≤ t then .error (raise .tagRange)
  else if !h.t.tags.getLsbD t then .error (raise .tagBusy)
  else .ok ()

/-- TAGS with a bit changed. -/
def setTag (tags : DWord) (t : Nat) (b : Bool) : DWord := if b then tags ||| ((1 : DWord) <<< t) else tags &&& ~~~((1 : DWord) <<< t)

/-- REQUEST-ARGS where a condition holds. -/
def badArgs (b : Bool) : Except Stop Unit := if b then .error (raise .requestArgs) else .ok ()

/-- The address space of a layer code (R92). -/
def layerSpace (l : Nat) : Nat := match l with | 0 => spaceCore | 1 => spaceCore | 2 => spaceCluster | 3 => spaceChip | _ => spaceGlobal

/-- The fixed range of a layer: first offset and end (R256). -/
def layerRange (l : Nat) : Nat × Nat :=
  match l with
  | 0 => (0, 0x01000000) | 1 => (0x01000000, 0x04800000) | 2 => (0, 0x00400000) | 3 => (0, 0x10000000) | _ => (0, 2 ^ 56)

/-- An offset lies in the fixed range of its layer. -/
def inLayer (l o : Nat) : Bool := decide ((layerRange l).1 ≤ o) && decide (o < (layerRange l).2)

/-- SPACE-RANGE unless a range lies in the fixed range of its layer (R72, R92). -/
def okSpace (layer o len : Nat) : Except Stop Unit :=
  let r := layerRange layer
  if len = 0 || (decide (r.1 ≤ o) && decide (o + len ≤ r.2)) then .ok ()
  else .error (.trap { cause := .spaceRange, space := layerSpace layer, addr := recAddr (if o < r.1 then o else max o r.2) })

/-- The checks of R243 on every byte of a range (R255): the first failure traps, without a lane. A page that a swap moves
holds the instruction (R95). DESIGN CHOICE (log entry 53): the fault record gives the first byte that fails. -/
def State.wholeRange (s : State) (ag : Agent) (layer : Nat) (acc : Access) (o len : Nat) : Except Stop (List Piece) := do
  let space := layerSpace layer
  okSpace layer o len
  match s.range ag space acc o len with
  | .error (c, r, a) => .error (.trap { cause := c, reason := r, space := space, addr := recAddr a })
  | .ok (.error chans) => .error (.hold chans)
  | .ok (.ok ps) => .ok ps

/-- MISALIGNED unless an offset is a multiple of `n` (R73, R92). -/
def okAlign (layer o n : Nat) : Except Stop Unit :=
  if o % n = 0 then .ok () else .error (.trap { cause := .misaligned, space := layerSpace layer, addr := recAddr o })

/-- The pages of a range whose translations a request snapshots (R95). -/
def State.snapshot (s : State) (oid layer o len : Nat) : List (Nat × Nat) :=
  if layer = 4 then s.pagesOf oid o len else []

/-- TENSOR-ID unless an identifier passes R136. -/
def okTid (t : List DWord) : Except Stop Unit := if tidOk t then .ok () else .error (raise .tensorId)

/-- Bytes of an element of a format of whole bytes (R135). -/
def fmtBytes (f : Nat) : Nat := tidHalves f / 2

/-- A format that a transform takes: not INT4, CB4 or E8M0 (R256). -/
def xfFmt (f : Nat) : Bool := f != 0 && f != 9 && f != 10

/-- The source bytes of a request as they stand at its issue, piece after piece (R257): none of a channel that is held, where
the request reads later (R339), and a free value where a matrix job holds the byte (R116). -/
def State.issueBytes (s : State) (oid : Nat) (ps : List Piece) : List (Option Byte) :=
  ps.flatMap fun p => (List.range p.len).map fun i =>
    let l := p.loc.plus i
    if s.blocked l then none
    else some (if (s.jobsAt oid l).isEmpty then s.readLoc oid l else Config.freeByte s.tick l.key)

/-- The state with a request added under a fresh number, and the channels of reads and writes noted. -/
def State.addRequest (s : State) (r : Request) : State :=
  { s with requests := Cells.put s.requests s.fresh r, fresh := s.fresh + 1 }

/-- A request on a tag: admitted, the tag clears and the status is 0; refused, only the status is written, and the refusal is
counted (R94, R255, R402). -/
def issueTagged (s : State) (h : Here) (b : BitVec 8) (st : Nat) (r : Request) (transit : Nat) (needs : List Need) :
    State × Here :=
  match s.tryAdmit r.oid r.cls transit r.pages needs with
  | .error k => (s.count (0x300 + r.cls), h.setStatus b st (refusal k))
  | .ok s => (s.addRequest r, { (h.setStatus b st 0) with t := { h.t with tags := setTag h.t.tags r.tag false } })

/-! ### COPY -/

/-- COPY (R256, R257). DESIGN CHOICE (log entry 14): the translations of an engine request leave no entry in the TLB. -/
def execCopy (sw : Bool) (b : BitVec 8) (sl dl xf : BitVec 3) (tag : BitVec 6) (s : State) :
    Host.Outcome State Fault Refusal :=
  native sw false s fun s h => do
    let tg := tag.toNat
    h.okTag tg
    let w5 := (h.arg b 5).toNat
    let so := h.arg64 b 0
    let d_o := h.arg64 b 2
    let len := (h.arg b 4).toNat
    let cls := fld w5 8 3
    let scope := fld w5 11 3
    let st := h.c.tid (fld w5 24 8)
    let dt := h.c.tid (fld w5 16 8)
    let plain := xf == 0
    badArgs (len == 0 || decide (2 ^ 24 < len) || scope == 7 || !inLayer sl.toNat so || !inLayer dl.toNat d_o
      || (!plain && (!xfFmt (tidFmt st) || !xfFmt (tidFmt dt))))
    if !plain then do okTid st; okTid dt
    let ds := if plain then 1 else fmtBytes (tidFmt dt)
    let ss := if plain then 1 else fmtBytes (tidFmt st)
    okAlign sl.toNat so ds; okAlign dl.toNat d_o ds; okAlign dl.toNat len ds
    let slen := len / ds * ss
    let src ← s.wholeRange h.agent sl.toNat .load so slen
    let dst ← s.wholeRange h.agent dl.toNat .store d_o len
    let drays := !plain && dl == 4
    let r : Request :=
      { team := h.team, coach := h.ci, oid := h.t.oid, tag := tg, cls := cls, scope := scope, known := h.c.acq,
        deadline := s.slot + Config.bound cls,
        work := .copy xf.toNat (tidFmt st) (tidFmt dt) (h.arg b 6) len src dst,
        pages := s.snapshot h.t.oid sl.toNat so slen ++ s.snapshot h.t.oid dl.toNat d_o len,
        old := s.issueBytes h.t.oid src,
        parts := if drays then (channelBytes dst).map Prod.fst else [] }
    pure (issueTagged s h b 7 r (pathTransit (Config.towerOf h.t.core) (src ++ dst))
      (byteNeeds src dst ++ if drays then drayNeeds dst else []))

/-! ### GSJOB -/

/-- The walks of the 64 KiB chunks of a GLOBAL range, below the end of the space. -/
def State.walksOf (s : State) (oid o len : Nat) : List Walk :=
  if len = 0 then [] else (List.range (len / 65536 + 2)).filterMap fun i =>
    let va := o / 65536 * 65536 + i * 65536
    if va < o + len && va < 2 ^ 56 then some (s.walk oid va) else none

/-- Channels that walks wait for (R339). -/
def walkWaits (l : List Walk) : List Nat := (l.filterMap fun w => match w with | .waits ch => some ch | _ => none).eraseDups

/-- A byte of a GLOBAL range translates to host memory (R260, R262). -/
def State.anyHost (s : State) (oid o len : Nat) : Bool :=
  (s.walksOf oid o len).any fun w => match w with
    | .leaf e _ _ => isHost (fld e 16 36 * 2 ^ 16)
    | _ => false

/-- The instruction holds while walks of a range wait. -/
def holdWalks (l : List Walk) : Except Stop Unit :=
  if (walkWaits l).isEmpty then .ok () else .error (.hold (walkWaits l))

/-- A swap that has begun holds back translations of a GLOBAL range (R95). -/
def State.movingIn (s : State) (oid o len : Nat) : Bool :=
  s.swaps.any fun w => w.begun && decide (w.oid = oid) && decide (o < w.va + w.size) && decide (w.va < o + len)

/-- The stack of a GLOBAL address, or stack 0 where it does not translate to HBM. -/
def State.tableStack (s : State) (oid va : Nat) : Nat :=
  match s.walk oid va with
  | .leaf e lvl _ => (stackOf (fld e 16 36 * 2 ^ 16 + va % pageSize lvl)).getD 0
  | _ => 0

/-- The transit of a gather-scatter job: from the core and the dense layer to the engine's stack (R405). -/
def gsTransit (tower stack : Nat) (dense : List Piece) : Nat :=
  max (if stack / 2 = tower then 1 else 2) (pathTransit tower dense)

/-- GSJOB (R260, R261). DESIGN CHOICE (log entry 45): the index list is checked after the source of a gather, which is its
table, and before everything else of a scatter; R260 and R255 order only source and destination. -/
def execGsjob (sw : Bool) (b : BitVec 8) (dir : BitVec 1) (iw : BitVec 2) (es dl : BitVec 3) (tag : BitVec 6) (s : State) :
    Host.Outcome State Fault Refusal :=
  native sw false s fun s h => do
    let tg := tag.toNat
    h.okTag tg
    let w6 := (h.arg b 6).toNat
    let table := h.arg64 b 0
    let io := (h.arg b 2).toNat
    let d_o := (h.arg b 3).toNat
    let count := (h.arg b 4).toNat
    let bound := (h.arg b 5).toNat
    let cls := fld w6 8 3
    let scope := fld w6 11 3
    let e := 2 ^ es.toNat
    let isz := if iw == 0 then 2 else 4
    badArgs (count == 0 || decide (65536 < count) || scope == 7)
    if s.movingIn h.t.oid table (bound * e) then .error (.hold [])
    holdWalks (s.walksOf h.t.oid table (bound * e))
    badArgs (s.anyHost h.t.oid table (bound * e))
    let scatter := dir == 1
    let tableRange : Except Stop (List Piece) := do
      okAlign 4 table e
      s.wholeRange h.agent 4 (if scatter then .store else .load) table (bound * e)
    let indexRange : Except Stop (List Piece) := do
      okAlign dl.toNat io isz
      s.wholeRange h.agent dl.toNat .load io (count * isz)
    let denseRange : Except Stop (List Piece) := do
      okAlign dl.toNat d_o e
      s.wholeRange h.agent dl.toNat (if scatter then .load else .store) d_o (count * e)
    let first ← if scatter then indexRange else tableRange
    let second ← if scatter then denseRange else indexRange
    let third ← if scatter then tableRange else denseRange
    let tab := if scatter then third else first
    let idx := if scatter then first else second
    let den := if scatter then second else third
    let stack := s.tableStack h.t.oid table
    let r : Request :=
      { team := h.team, coach := h.ci, oid := h.t.oid, tag := tg, cls := cls, scope := scope, known := h.c.acq,
        deadline := s.slot + Config.bound cls,
        work := .gather scatter isz e count bound tab idx den,
        pages := s.snapshot h.t.oid 4 table (bound * e),
        old := s.issueBytes h.t.oid idx ++ if scatter then s.issueBytes h.t.oid den else [] }
    pure (issueTagged s h b 7 r (gsTransit (Config.towerOf h.t.core) stack (idx ++ den))
      [.spread (8 + stack) count, .spread stack (count * e)])

/-! ### Waits on tags -/

/-- A tag mask: an even pair whose bits lie below TAGN (R258, R259). -/
def Here.tagMask (h : Here) (reg : BitVec 8) : Except Stop DWord := do
  h.okUPair reg
  let m := (h.uPair reg.toNat).1
  if fld m.toNat h.t.grants.tagn (64 - h.t.grants.tagn) ≠ 0 then .error (raise .tagRange)
  pure m

/-- The index of the lowest set bit, or 64. -/
def lowestBit (m : DWord) : Nat := ((List.range 64).find? fun i => m.getLsbD i).getD 64

/-- WAITANY (R258). -/
def execWaitany (sw : Bool) (reg : BitVec 8) (k : BitVec 6) (s : State) : Host.Outcome State Fault Refusal :=
  closing sw false s fun _ h => do
    let m ← h.tagMask reg
    pure (.waitAny k.toNat m (h.uPair reg.toNat).2)

/-- WAITALL (R258). -/
def execWaitall (sw : Bool) (reg : BitVec 8) (s : State) : Host.Outcome State Fault Refusal :=
  closing sw false s fun _ h => do
    let m ← h.tagMask reg
    pure (.waitAll m)

/-- FFRDY: Sk := the lowest set bit of TAGS AND m, or 64 (R259); the tag that it reports is observed (R114). -/
def execFfrdy (sw : Bool) (reg : BitVec 8) (k : BitVec 6) (s : State) : Host.Outcome State Fault Refusal :=
  native sw false s fun s h => do
    let m ← h.tagMask reg
    let i := lowestBit (h.t.tags &&& m)
    pure (s, (h.sawTags ((1 : DWord) <<< i)).setS k.toNat (BitVec.ofNat 32 i) (h.uPair reg.toNat).2)

/-! ### Remote calls -/

/-- The executor number of a checked target (R263): a place, or the caller's core. -/
def executorOf (layer core : Nat) (l : Loc) : Nat :=
  match layer, l with
  | 4, .sto a => 16 * fld a 36 3 + fld a 11 9 / 32
  | 3, .sto a => let o := a - chipBase; 0x80 + 8 * (o / 0x04000000) + o % 0x04000000 / 0x00800000
  | _, _ => 0x100 + core

/-- The calendar of an executor (R301). -/
def executorRes (ex : Nat) : Nat := if ex < 0x80 then 0x20 + ex else if ex < 0x100 then 0xA0 + (ex - 0x80) else 0x300 + (ex - 0x100)

/-- The transit of a call: twice that of the path (R405). -/
def callTransit (tower ex : Nat) : Nat :=
  let far := if ex < 0x80 then ex / 32 else if ex < 0x100 then (ex - 0x80) / 8 else tower
  if far = tower then 2 else 4

/-- The reservations of a call: half its class bound on its executor, and its argument and reply bytes on the stack
interface that they cross (R302). -/
def callNeeds (ex cls narg nret : Nat) : List Need :=
  .solid (executorRes ex) (Config.bound cls / 2) 1
    :: (if ex < 0x80 then [.spread (ex / 16) (4 * narg + 4 * nret)] else [])

/-- An admitted call: the executor numbers it and queues it (R263, R353). -/
def State.addCall (s : State) (c : Call) : State × Word :=
  let e := Cells.get {} s.executors c.ex
  let token : Word := BitVec.ofNat 32 (pack [(1, 0), (11, c.ex), (20, e.seq % 2 ^ 20)])
  ({ s with
      calls := Cells.put s.calls s.fresh { c with token := token }
      executors := Cells.put s.executors c.ex
        { e with queue := e.queue ++ [s.fresh], seq := (e.seq + 1) % 2 ^ 20,
                 recent := ((token, none) :: e.recent).take 4096 }
      fresh := s.fresh + 1 }, token)

/-- RCALL (R262 to R264). -/
def execRcall (sw : Bool) (b : BitVec 8) (narg : BitVec 5) (nret : BitVec 4) (_sc : BitVec 3) (s : State) :
    Host.Outcome State Fault Refusal :=
  native sw false s fun s h => do
    let w2 := (h.arg b 2).toNat
    let target := h.arg64 b 0
    let cls := fld w2 29 3
    let layer := fld w2 26 3
    let entry := fld w2 0 26
    badArgs (!(layer == 1 || layer == 3 || layer == 4) || decide (h.t.codeLen ≤ entry) || entry % 4 != 0
      || decide (8 ≤ h.c.calls.length))
    if layer == 4 && s.movingIn h.t.oid target 1 then .error (.hold [])
    holdWalks (if layer == 4 then s.walksOf h.t.oid target 1 else [])
    badArgs (layer == 4 && s.anyHost h.t.oid target 1)
    let ps ← s.wholeRange h.agent layer .load target 1
    let loc := (pieceLoc ps 0).getD (.sto 0)
    let ex := executorOf layer h.t.core loc
    match s.tryAdmit h.t.oid cls (callTransit (Config.towerOf h.t.core) ex) [] (callNeeds ex cls narg.toNat nret.toNat) with
    | .error k => pure (s.count (0x300 + cls), h.setStatus b 3 (refusal k))
    | .ok s =>
      let call : Call :=
        { token := 0, ex := ex, team := h.team, coach := h.ci, oid := h.t.oid, deadline := s.slot + Config.bound cls,
          nret := nret.toNat, known := h.c.acq, payload := (List.range narg.toNat).map fun i => h.arg b (4 + i), entry := entry,
          caller := { h.t with coaches := [], scratch := [], lanes := [], acc := [], envs := [], rdvs := [] } }
      let (s', token) := s.addCall call
      pure (s', { (h.setStatus b 3 token.toNat) with c := { (h.setStatus b 3 token.toNat).c with calls := h.c.calls ++ [s.fresh] } })

/-- RCWAIT (R267): parks once the trailer has issued. -/
def execRcwait (sw : Bool) (reg : BitVec 8) (k : BitVec 6) (s : State) : Host.Outcome State Fault Refusal :=
  closing sw false s fun _ h => do
    h.okU reg
    let x := h.u reg.toNat
    pure (.rcwait k.toNat x.1 x.2)

/-- The unconsumed call of a coach with a token (R266). -/
def State.callOf (s : State) (c : Coach) (token : Word) : Option (Nat × Call) :=
  (c.calls.filterMap fun k => (Cells.find s.calls k).map fun x => (k, x)).find? fun p => p.2.token = token

/-- A token lost or probed: the coach keeps the recorded dispositions of the 8 most recent ones, the latest first (R268). Code 4,
PENDING, is none; beside it the third word is 1 once the token's executor has been asked. -/
def Coach.noteDisp (c : Coach) (token : Word) (code : Nat) (fault : Word) : Coach :=
  { c with disps := ((token, code, fault) :: c.disps.filter fun d => d.1 ≠ token).take 8 }

/-- A disposition that arrives is recorded with its token, if the coach still keeps that (R267, R268). -/
def Coach.fillDisp (c : Coach) (token : Word) (code : Nat) (fault : Word) : Coach :=
  { c with disps := c.disps.map fun d => if d.1 = token then (token, code, fault) else d }

/-- A token lost: what is recorded of it already stays (R268). -/
def Coach.loseToken (c : Coach) (token : Word) : Coach :=
  match c.disps.find? fun d => d.1 = token with
  | some d => c.noteDisp token d.2.1 d.2.2
  | none => c.noteDisp token 4 0

/-- The token's executor has been asked (R268). -/
def Coach.asked (c : Coach) (token : Word) : Bool := c.disps.contains (token, 4, 1)

/-- No executor holds the call any more, and no reply is under way. -/
def State.callIdle (s : State) (k : Nat) : Bool :=
  (s.executors.all fun e => e.2.running ≠ some k && !e.2.queue.contains k)
    && match Cells.find s.calls k with | some c => c.result.isNone && !c.probing | none => true

/-- The final disposition that the caller's core holds for a token (R268): from a reply that has arrived, or from its
record. -/
def State.heldDisp (s : State) (c : Coach) (token : Word) : Option (Nat × Word) :=
  let arrived := match s.callOf c token with
    | some (_, k) => if k.delivered then k.result.map fun r => (r.1, if r.1 = 2 then r.2.headD 0 else 0) else none
    | none => none
  let recorded := ((c.disps.find? fun d => d.1 = token).map fun d => d.2).filter fun d => d.1 ≠ 4
  if arrived.isSome then arrived else recorded

/-- S[k] := x, S[k+1] := y, and the next seven registers 0. -/
def Here.setDisp (h : Here) (k code : Nat) (ws : List Word) (taint : Bool) : Here :=
  (List.range 8).foldl (fun g i => g.setS (k + 1 + i) (ws.getD i 0) taint) (h.setS k (BitVec.ofNat 32 code) taint)

/-- The core asks the token's executor, unless it has been asked already (R268). A token that names no call of the coach
is asked for too. -/
def State.probe (s : State) (h : Here) (token : Word) : State :=
  match s.calls.find? fun p => p.2.token = token && p.2.team = h.team && p.2.coach = h.ci with
  | some (k, _) => s.modCall k fun c => { c with probing := true }
  | none =>
    let c : Call :=
      { token := token, ex := fld token.toNat 20 11, team := h.team, coach := h.ci, oid := h.t.oid, deadline := s.slot,
        nret := 0, payload := [], entry := 0, caller := {}, lost := true, probing := true }
    { s with calls := Cells.put s.calls s.fresh c, fresh := s.fresh + 1 }

/-- RCPROBE (R268): never parks. With COMMITTED, ABORTED or FAULTED it is an acquire (R118). -/
def execRcprobe (sw : Bool) (reg : BitVec 8) (k : BitVec 6) (s : State) : Host.Outcome State Fault Refusal :=
  native sw false s fun s h => do
    h.okU reg
    let x := h.u reg.toNat
    match s.heldDisp h.c x.1 with
    | some (code, fault) =>
      let drop := (s.callOf h.c x.1).map Prod.fst
      let c := (h.setDisp k.toNat code [fault] x.2).c.noteDisp x.1 code fault
      let known := if code ≤ 2 then Cells.get [] s.ran x.1.toNat else []
      pure (s, { h with c := { c with calls := c.calls.filter fun i => some i ≠ drop }.joins known })
    | none =>
      let g := h.setDisp k.toNat 4 [] x.2
      pure (if h.c.asked x.1 then s else s.probe h x.1, { g with c := g.c.noteDisp x.1 4 1 })

end Sys2Proof.Machine
end

