-- ==== Sys2Proof/Machine/Matrix.lean ====
section
/-!
DEFINITION. The issue of matrix-unit jobs and of MVSTACK: argument blocks, checks, rendezvous and MWAIT
(spec/18_instr_plane_matrix.md R276 to R288). What the jobs compute stands in Jobs.lean.
-/

namespace Sys2Proof.Machine

/-! ### Geometry -/

/-- Step K of an operand format (R276). -/
def stepK (fmt : Nat) : Nat :=
  match fmt with
  | 0 => 128 | 9 => 128 | 4 => 32 | 5 => 32 | _ => 64

/-- A pairing that the matrix unit accepts (R276). -/
def pairing (a b : Nat) : Bool :=
  ((a == 7 || a == 8) && (b == 7 || b == 8)) || (a == b && (a == 0 || a == 1 || a == 4 || a == 5 || a == 9))

/-- A format of the integer interpretation (R131, R276). -/
def intFmt (f : Nat) : Bool := f == 0 || f == 1

/-- The operand pair breaks R276. -/
def badPair (a b : List DWord) : Bool :=
  !pairing (tidFmt a) (tidFmt b) || tidRank a != 2 || tidRank b != 2
    || (tidBlock a != 0 && tidBax a != 0) || (tidBlock b != 0 && tidBax b != 0)

/-- The 1 bits of a participant mask. -/
def maskCount (pm : Word) : Nat := (lanesOf pm).length

/-- P is 1, 2, 4, 8, 16 or 32 (R280). -/
def okCount (p : Nat) : Bool := [1, 2, 4, 8, 16, 32].contains p

/-- The index of the scale of element (i0, i1) of a rank-2 identifier (R136). -/
def scaleIndex (t : List DWord) (i0 i1 : Nat) : Nat :=
  if tidBax t = 0 then i1 * ceilDiv (tidDim t 0) (tidBlock t) + i0 / tidBlock t
  else i0 * ceilDiv (tidDim t 1) (tidBlock t) + i1 / tidBlock t

/-- How many scales an identifier of rank 1 or 2 has (R136). -/
def scaleCount (t : List DWord) : Nat :=
  if tidBlock t = 0 then 0
  else
    let lines := if tidRank t = 1 then 1 else if tidBax t = 0 then tidDim t 1 else tidDim t 0
    lines * ceilDiv (tidDim t (tidBax t)) (tidBlock t)

/-- Bytes of a line of `n` elements. -/
def lineBytes (t : List DWord) (n : Nat) : Nat := ceilDiv (n * tidHalves (tidFmt t)) 2

/-! ### Ranges -/

/-- Lines of `len` bytes, each checked by R243; offsets are counted from `base`. -/
def State.lines (s : State) (ag : Agent) (layer : Nat) (acc : Access) (base stride len : Nat) :
    Nat → Nat → Except Stop (List Piece)
  | 0, _ => .ok []
  | n + 1, i => do
    let ps ← s.wholeRange ag layer acc (base + i * stride) len
    let rest ← s.lines ag layer acc base stride len n (i + 1)
    pure (ps.map (fun p => { p with off := p.off + i * stride }) ++ rest)

/-- `n` lines of a range that is checked whole: SPACE-RANGE of any line comes before the other checks of R243 (R255). -/
def State.lineRange (s : State) (ag : Agent) (layer : Nat) (acc : Access) (base stride len n : Nat) :
    Except Stop (List Piece) := do
  (List.range n).forM fun i => okSpace layer (base + i * stride) len
  s.lines ag layer acc base stride len n 0

/-- The two-dimensional range of an identifier at an offset, `k` elements of each line (R285 to R288). -/
def State.tensorRange (s : State) (ag : Agent) (layer : Nat) (acc : Access) (base : Nat) (t : List DWord) (k : Nat) :
    Except Stop (List Piece) :=
  s.lineRange ag layer acc base (tidStr t 1) (lineBytes t k) (tidDim t 1)

/-- The scales of an identifier (R135, R136); a reserved layer code is ILLEGAL (R92). -/
def State.scaleRange (s : State) (ag : Agent) (acc : Access) (t : List DWord) : Except Stop (List Piece) :=
  if tidBlock t = 0 then .ok []
  else if 5 ≤ tfld t 1 56 3 then .error illegal
  else s.wholeRange ag (tfld t 1 56 3) acc (tfld t 1 0 56) (scaleCount t)

/-- The scales that the first `k` elements of each line use, where blocks run along the lines (R136, R285). -/
def State.scaleLines (s : State) (ag : Agent) (acc : Access) (t : List DWord) (k : Nat) : Except Stop (List Piece) :=
  if tidBlock t = 0 || tidDim t 0 ≤ k then s.scaleRange ag acc t
  else if 5 ≤ tfld t 1 56 3 then .error illegal
  else s.lineRange ag (tfld t 1 56 3) acc (tfld t 1 0 56) (ceilDiv (tidDim t 0) (tidBlock t)) (ceilDiv k (tidBlock t))
    (tidDim t 1)

/-- The pages of scales in GLOBAL, for a snapshot (R95). -/
def State.scalePages (s : State) (oid : Nat) (t : List DWord) : List (Nat × Nat) :=
  if tidBlock t = 0 then [] else s.snapshot oid (tfld t 1 56 3) (tfld t 1 0 56) (scaleCount t)

/-- The team has the accumulator store (R277). -/
def Here.okAccu (h : Here) : Except Stop Unit := if h.t.accu then .ok () else .error illegal

/-- MATRIX-PARTIAL: the coach is split, or its EXEC is not full (R281). -/
def Here.okWhole (h : Here) : Except Stop Unit :=
  if h.c.subs.length ≠ 1 || h.g.exec ≠ 0xFFFFFFFF then .error (raise .matrixPartial) else .ok ()

/-! ### Collective issue -/

/-- The V registers of a block that were written without an OPFENCE, or whose value is undefined (R115, R177). -/
def Here.unseenV (h : Here) (vf n : Nat) : List Nat :=
  ((List.range (32 * n)).filter fun i =>
    let k := keyV vf 0 + i
    Cells.get false h.c.dirty k || h.c.pending k).map fun i => h.ci * 2 ^ 32 + keyV vf 0 + i

/-- The scratchpad bytes that this coach wrote without an OPFENCE, or that its requests wrote unobserved (R115). -/
def Here.unseenScratch (h : Here) : List Nat :=
  (h.c.dirty.filter fun p => 2 ^ 20 ≤ p.1).map Prod.fst
    ++ h.c.landed.flatMap fun x => (List.range x.2.2).map fun i => 2 ^ 20 + x.2.1 + i

/-- The job of a complete rendezvous (R281, R282): participants in increasing coach index. -/
def Rendezvous.job (r : Rendezvous) (team : Nat) (t : Team) (deadline : Nat) : Job :=
  let arr := (List.range 32).flatMap fun k => r.arrived.filter fun a => a.coach = k
  let w0 := (r.block.getD 0 0).toNat
  let za := fld r.opts 2 1 == 1
  let rm := fld r.opts 0 2
  { id := r.id, team := team, core := t.core, oid := t.oid, coaches := arr.map Arrival.coach, deadline := deadline,
    unseen := r.unseen,
    work := if r.loop then .mloop r.a r.b (fld w0 0 3) (r.block.getD 2 0).toNat za rm r.ra r.rb r.sa r.sb
      else .mma r.a r.b (fld w0 0 3) za (fld r.opts 3 1 == 1) rm arr r.sa r.sb }

/-- The issuer has joined a job or a rendezvous: its operand fragments and result registers are held (R116, R181), and
the job awaits an MWAIT (R282). -/
def Here.joined (h : Here) (id : Nat) (vf vr : Option (Nat × Nat)) : Here :=
  { h with c := { h.c with jobs := h.c.jobs ++ [id],
                           frags := h.c.frags ++ (vf.map fun x => (id, x.1, x.2)).toList,
                           board := h.c.board ++ (vr.map fun x => (id, x.1, x.2)).toList } }

/-- Parks at a rendezvous end. -/
def Coach.unmeet (c : Coach) (id : Nat) : Coach :=
  { c with subs := c.subs.map fun g =>
      { g with parks := g.parks.filter (· ≠ .rendezvous id),
               run := g.run.map fun r => { r with after := r.after.filter (· ≠ .rendezvous id) } } }

/-- The arrival at the team's open rendezvous with the same mask, or at the new one `fresh` (R281). Where it is the last
participant the job starts; else the sub-group parks after its trailer. DESIGN CHOICE (log entry 53): where the
participants' identifiers differ in content, those of the first to arrive govern the job. -/
def arriveRendezvous (s : State) (h : Here) (fresh : Rendezvous) (arr : Arrival) (unseen : List Nat)
    (vf vr : Option (Nat × Nat)) : Except Stop (State × Here) :=
  let open_ := h.t.rdvs.find? fun r => r.pm = fresh.pm
  let r := open_.getD fresh
  if r.loop ≠ fresh.loop || r.block ≠ fresh.block then .error (raise .requestArgs)
  else
    let r := { r with arrived := if r.arrived.any fun a => a.coach = h.ci then r.arrived else r.arrived ++ [arr],
                      unseen := r.unseen ++ unseen }
    let s := if open_.isSome then s else { s with fresh := s.fresh + 1 }
    let h := h.joined r.id vf vr
    let others := h.t.rdvs.filter fun x => x.id ≠ r.id
    if r.arrived.length = maskCount r.pm then
      let deadline := ((Cells.find s.nodes h.t.node).map Node.deadline).getD 0
      let s := { s with jobs := s.jobs ++ [r.job h.team h.t deadline],
                        teams := Cells.modify s.teams h.team fun t =>
                          { t with coaches := t.coaches.map fun c => c.unmeet r.id } }
      .ok (s, { h with t := { h.t with rdvs := others } })
    else
      let q := h.run
      .ok (s, { h.setRun { q with after := q.after ++ [.rendezvous r.id] } with t := { h.t with rdvs := others ++ [r] } })

/-- The checks that MMA and MLOOP share (R280). -/
def badCollective (h : Here) (pm : Word) (a b : List DWord) : Bool :=
  !pm.getLsbD h.ci || decide (2 ^ h.t.coaches.length ≤ pm.toNat) || !okCount (maskCount pm) || badPair a b
    || decide (128 < tidDim a 1) || decide (128 < tidDim b 1) || tidDim a 0 != tidDim b 0

/-- MMA (R278 to R284). -/
def execMma (sw : Bool) (b : BitVec 8) (f : BitVec 8) (rb za : BitVec 1) (rm : BitVec 2) (s : State) :
    Host.Outcome State Fault Refusal :=
  native sw false s fun s h => do
    h.okAccu
    let w0 := (h.arg b 0).toNat
    let pm := h.arg b 1
    let p := maskCount pm
    let vf := f.toNat
    let n := 128 / p
    if 192 ≤ vf || h.c.allot ≤ vf || (okCount p && (vf % n ≠ 0 || decide (h.c.allot < vf + n))) then .error illegal
    h.okWhole
    let ta := h.c.tid (fld w0 24 8)
    let tb := h.c.tid (fld w0 16 8)
    let vr := fld (h.arg b 2).toNat 0 8
    let m := 512 / p
    badArgs (badCollective h pm ta tb || decide (stepK (tidFmt ta) < tidDim ta 0)
      || (rb == 1 && (decide (h.c.allot < vr + m) || (decide (vr < vf + n) && decide (vf < vr + m)))))
    okTid ta; okTid tb
    let sa ← s.scaleRange h.agent .load ta
    let sb ← s.scaleRange h.agent .load tb
    h.okVs vf n
    if rb == 1 then h.okVs vr m
    let fresh : Rendezvous :=
      { id := s.fresh, pm := pm, loop := false, opts := pack [(1, rb.toNat), (1, za.toNat), (2, rm.toNat)],
        block := [h.arg b 0, pm], arrived := [], a := ta, b := tb, ra := [], rb := [], sa := sa, sb := sb }
    arriveRendezvous s h fresh { coach := h.ci, vf := vf, vr := vr, pc := h.g.pc, word := h.run.word }
      (h.unseenV vf n ++ h.unseenScratch)
      (some (vf, n)) (if rb == 1 then some (vr, m) else none)

/-- MLOOP (R278 to R283, R285). -/
def execMloop (sw : Bool) (b : BitVec 8) (za : BitVec 1) (rm : BitVec 2) (s : State) :
    Host.Outcome State Fault Refusal :=
  native sw false s fun s h => do
    h.okAccu
    h.okWhole
    let w0 := (h.arg b 0).toNat
    let pm := h.arg b 1
    let ks := (h.arg b 2).toNat
    let ta := h.c.tid (fld w0 24 8)
    let tb := h.c.tid (fld w0 16 8)
    badArgs (badCollective h pm ta tb || ks == 0 || decide (65536 < ks)
      || decide (tidDim ta 0 ≤ (ks - 1) * stepK (tidFmt ta)))
    okTid ta; okTid tb
    let k := min (tidDim ta 0) (ks * stepK (tidFmt ta))
    let ra ← s.tensorRange h.agent 0 .load (h.arg b 3).toNat ta k
    let rb ← s.tensorRange h.agent 0 .load (h.arg b 4).toNat tb k
    let sa ← s.scaleLines h.agent .load ta k
    let sb ← s.scaleLines h.agent .load tb k
    let fresh : Rendezvous :=
      { id := s.fresh, pm := pm, loop := true, opts := pack [(1, 0), (1, za.toNat), (2, rm.toNat)],
        block := (List.range 5).map (h.arg b), arrived := [], a := ta, b := tb, ra := ra, rb := rb, sa := sa, sb := sb }
    arriveRendezvous s h fresh { coach := h.ci, vf := 0, vr := 0, pc := h.g.pc, word := h.run.word } h.unseenScratch
      none none

/-- MWAIT (R282): matches every job issued or joined and not matched yet; parks once the trailer has issued. -/
def execMwait (sw : Bool) (s : State) : Host.Outcome State Fault Refusal :=
  nativeHere sw false s fun h =>
    if h.c.jobs.isEmpty then pure h
    else
      let r := h.run
      let g := h.setRun { r with after := r.after ++ [.mwait h.c.jobs] }
      pure { g with c := { g.c with jobs := [] } }

/-! ### MDRAIN, QUANT2 -/

/-- The formats of MDRAIN outputs (R280). -/
def drainFmt (f : Nat) : Bool := [1, 2, 3, 4, 5, 6, 7, 8].contains f

/-- A job that starts at its issue (R282). DESIGN CHOICE (log entry 55): its bound is the deadline of its node, since it names no
latency class. -/
def startJob (s : State) (h : Here) (work : JobWork) (pages : List (Nat × Nat)) (late : Option (Nat × Nat × Nat × Nat)) :
    State × Here :=
  let job : Job :=
    { id := s.fresh, team := h.team, core := h.t.core, oid := h.t.oid, coaches := [h.ci], work := work, pages := pages,
      deadline := ((Cells.find s.nodes h.t.node).map Node.deadline).getD 0, late := late }
  ({ s with jobs := s.jobs ++ [job], fresh := s.fresh + 1 }, h.joined s.fresh none none)

/-- MDRAIN (R280, R286). Where a page of its output awaits a swap, the job takes no snapshot until the swap is over (R95;
log entry 12). -/
def execMdrain (sw : Bool) (b : BitVec 8) (tm sat : BitVec 1) (rm : BitVec 2) (s : State) :
    Host.Outcome State Fault Refusal :=
  native sw false s fun s h => do
    h.okAccu
    let w0 := (h.arg b 0).toNat
    let w1 := (h.arg b 1).toNat
    let out := h.c.tid (fld w0 16 8)
    let ol := fld w1 29 3
    let ml := fld w1 26 3
    badArgs (!drainFmt (tidFmt out) || tidBlk out != 0 || tidRank out != 2 || decide (128 < tidDim out 1)
      || decide (128 < tidDim out 0) || decide (5 ≤ ol) || decide (5 ≤ ml) || fld w1 11 3 == 7)
    okTid out
    let base := h.arg64 b 2
    let word := h.arg64 b 4
    let dst ← s.tensorRange h.agent ol .store base out (tidDim out 0)
    if tm == 1 then okAlign ml word 4
    let max ← if tm == 1 then s.wholeRange h.agent ml .atomic word 4 else pure []
    let len := (tidDim out 1 - 1) * tidStr out 1 + lineBytes out (tidDim out 0)
    let pages := s.snapshot h.t.oid ol base len ++ if tm == 1 then s.snapshot h.t.oid ml word 4 else []
    let wait := s.swapPending h.t.oid pages
    pure (startJob s h (.mdrain out (fld w0 0 3) (tm == 1) (sat == 1) rm.toNat dst max) (if wait then [] else pages)
      (if wait then some (ol, base, ml, word) else none))

/-- QUANT2 (R280, R287). -/
def execQuant2 (sw : Bool) (b : BitVec 8) (s : State) : Host.Outcome State Fault Refusal :=
  native sw false s fun s h => do
    h.okAccu
    let w0 := (h.arg b 0).toNat
    let i := h.c.tid (fld w0 24 8)
    let r := h.c.tid (fld w0 16 8)
    let c := h.c.tid (fld w0 8 8)
    let dims (t : List DWord) : Nat × Nat := (tidDim t 0, tidDim t 1)
    badArgs (!([4, 5, 6].contains (tidFmt i)) || tidFmt r != tidFmt c || !([7, 8, 1].contains (tidFmt r))
      || dims i != dims r || dims i != dims c || tidRank i != 2 || tidRank r != 2 || tidRank c != 2
      || decide (128 < tidDim i 0) || decide (128 < tidDim i 1) || tidBlock r != 32 || tidBlock c != 32
      || tidBax r != 0 || tidBax c != 1 || tfld r 1 56 3 != 0 || tfld c 1 56 3 != 0)
    okTid i; okTid r; okTid c
    let src ← s.tensorRange h.agent 0 .load (h.arg b 1).toNat i (tidDim i 0)
    let srcScales ← s.scaleRange h.agent .load i
    let rowOut ← s.tensorRange h.agent 0 .store (h.arg b 2).toNat r (tidDim r 0)
    let colOut ← s.tensorRange h.agent 0 .store (h.arg b 3).toNat c (tidDim c 0)
    let rowScale ← s.scaleRange h.agent .store r
    let colScale ← s.scaleRange h.agent .store c
    pure (startJob s h (.quant2 i r c (src ++ srcScales.map fun p => { p with off := p.off + 2 ^ 60 }) rowOut colOut rowScale
      colScale) [] none)

/-! ### MVSTACK -/

/-- The stacks of the leaves among some walks: none for host memory. -/
def walkStacks (l : List Walk) : List (Option Nat) := l.filterMap fun w => match w with
  | .leaf e _ _ => some (stackOf (fld e 16 36 * 2 ^ 16))
  | _ => none

/-- A byte of the lines of B that translates lies outside the HBM of one stack (R280). -/
def outsideStack (l : List Walk) : Bool := (walkStacks l).any fun x => x = none || some x ≠ (walkStacks l).head?

/-- MVSTACK (R280, R288). -/
def execMvstack (sw : Bool) (b : BitVec 8) (s : State) : Host.Outcome State Fault Refusal :=
  native sw false s fun s h => do
    let w0 := (h.arg b 0).toNat
    let w1 := (h.arg b 1).toNat
    let tg := fld w1 0 6
    h.okTag tg
    let ta := h.c.tid (fld w0 24 8)
    let tb := h.c.tid (fld w0 16 8)
    let k := tidDim ta 0
    let n := tidDim tb 1
    let baddr := h.arg64 b 3
    let blen := (n - 1) * tidStr tb 1 + lineBytes tb k
    badArgs (!([4, 5, 6].contains (tidFmt ta)) || !([4, 5, 7, 8, 9].contains (tidFmt tb)) || tidRank ta != 1
      || tidRank tb != 2 || k != tidDim tb 0 || fld w1 11 3 == 7)
    if (List.range n).any fun i => s.movingIn h.t.oid (baddr + i * tidStr tb 1) (lineBytes tb k) then .error (.hold [])
    let walks := (List.range n).flatMap fun i => s.walksOf h.t.oid (baddr + i * tidStr tb 1) (lineBytes tb k)
    holdWalks walks
    badArgs (outsideStack walks)
    okTid ta; okTid tb
    let va ← s.wholeRange h.agent 0 .load (h.arg b 2).toNat (lineBytes ta k)
    let sa ← s.scaleRange h.agent .load ta
    let vb ← s.tensorRange h.agent 4 .load baddr tb k
    let sb ← s.scaleRange h.agent .load tb
    let vy ← s.wholeRange h.agent 0 .store (h.arg b 5).toNat (4 * n)
    let st := (vb.findSome? fun p => match p.loc with | .sto a => stackOf a | _ => none).getD 0
    let cls := fld w1 8 3
    let r : Request :=
      { team := h.team, coach := h.ci, oid := h.t.oid, tag := tg, cls := cls, scope := fld w1 11 3, known := h.c.acq,
        deadline := s.slot + Config.bound cls, work := .mvstack ta tb va vb vy (sa, sb),
        pages := s.snapshot h.t.oid 4 baddr blen ++ s.scalePages h.t.oid ta ++ s.scalePages h.t.oid tb,
        old := s.issueBytes h.t.oid (va ++ vb) }
    pure (issueTagged s h b 7 r (pathTransit (Config.towerOf h.t.core) (vb ++ sa ++ sb))
      [.spread st (lineBytes ta k + 4 * n + ceilDiv (n * lineBytes tb k) 4)])

end Sys2Proof.Machine
end

