-- ==== Sys2Proof/Machine/Jobs.lean ====
section
/-!
DEFINITION. What the matrix unit does: MMA, MLOOP, MDRAIN and QUANT2 (spec/09_formats.md R130, R131, R138 to R140;
spec/18_instr_plane_matrix.md R282 to R287), and what its results are where a program broke R115 or R116.
-/

namespace Sys2Proof.Machine

/-! ### Elements, scales and sums -/

/-- The value of an element code under its identifier (R126, R130). -/
def codeValue (t : List DWord) (c : Nat) : FVal :=
  match tidElem (tidFmt t) with
  | some k => k.value c
  | none => fval bf16 (tidCode t (fld c 0 4))

/-- The value of an E8M0 code (R129). -/
def e8m0 (c : Nat) : FVal := if c = 255 then .nan else .fin false 1 ((c : Int) - 127)

/-- The scale of element (i0, i1), read from its range (R136). -/
def State.scaleOf (s : State) (oid : Nat) (t : List DWord) (ps : List Piece) (i0 i1 : Nat) : FVal :=
  if tidBlock t = 0 then .fin false 1 0 else e8m0 (s.readPiece oid ps (scaleIndex t i0 i1)).toNat

/-- The byte offset of element (i0, i1) of a rank-2 identifier. -/
def elemOff (t : List DWord) (i0 i1 : Nat) : Nat := i1 * tidStr t 1 + i0 * tidHalves (tidFmt t) / 2

/-- The code of element (i0, i1) in a range (R128). -/
def State.elemCode (s : State) (oid : Nat) (t : List DWord) (ps : List Piece) (i0 i1 : Nat) : Nat :=
  let hs := tidHalves (tidFmt t)
  if hs = 1 then fld (s.readPiece oid ps (elemOff t i0 i1)).toNat (4 * (i0 % 2)) 4
  else leNat (s.readPieces oid ps (elemOff t i0 i1) (hs / 2))

/-- Σ of exact values (R138). DESIGN CHOICE (log entry 53): the sum starts from +0, so that products that are all −0 sum to
+0, and an entry of −0 to which they are added becomes +0. -/
def sumVals (l : List FVal) : FVal := l.foldl FVal.add (.fin false 0 0)

/-- One chunk added to an entry under the float interpretation (R138). DESIGN CHOICE (log entry 53): an infinite entry and a
chunk sum of the other infinity give the canonical NaN, and an exact cancellation +0 in every mode. -/
def accFloat (mode : Nat) (acc : BitVec 56) (p : FVal) : BitVec 56 :=
  BitVec.ofNat 56 (roundF a56 mode false ((fval a56 acc.toNat).add p))

/-- One chunk added to an entry under the integer interpretation (R138). -/
def accInt (acc : BitVec 56) (p : Int) : BitVec 56 := BitVec.ofInt 56 (satInt 56 (acc.toInt + p))

/-- An entry after chunks `lo` to `hi - 1` of 32 products, in increasing k; a product beyond K is exact zero (R138, R284). -/
def runEntry (int : Bool) (mode lo hi k : Nat) (pf : Nat → FVal) (pi : Nat → Int) (acc : BitVec 56) : BitVec 56 :=
  (List.range (hi - lo)).foldl (fun acc j =>
    let c := lo + j
    let ks := (List.range 32).filterMap fun i => if 32 * c + i < k then some (32 * c + i) else none
    if int then accInt acc (ks.map pi).sum else accFloat mode acc (sumVals (ks.map pf))) acc

/-- An operand of a step: the code and the scale of element (row, k), and whether it is undefined. -/
structure Operand where
  t : List DWord
  code : Nat → Nat → Nat
  scale : Nat → Nat → FVal
  open_ : Nat → Nat → Bool

/-- The exact value of an element with its scale. -/
def Operand.value (o : Operand) (r k : Nat) : FVal := (codeValue o.t (o.code r k)).mul (o.scale r k)

/-- The exact integer of an element of INT4 or INT8. -/
def Operand.int (o : Operand) (r k : Nat) : Int := sext (4 * tidHalves (tidFmt o.t)) (o.code r k)

/-- Number of an entry of the accumulator store (R277). -/
def entryNo (tile m n : Nat) : Nat := tile * 16384 + 128 * m + n

/-- A tile after chunks `lo` to `hi - 1` of a job: entries with an undefined operand element, or all where `spoiled`, are
free values (R115, R116, R138, R284, R285). -/
def runTile (tick : Nat) (tile : Nat) (za spoiled : Bool) (mode lo hi : Nat) (a b : Operand) (acc : Cells (BitVec 56)) :
    Cells (BitVec 56) :=
  let k := tidDim a.t 0
  let int := intFmt (tidFmt a.t)
  let read := min k (32 * hi)
  let rowOpen := (List.range (tidDim a.t 1)).map fun m => (List.range read).any fun i => a.open_ m i
  let colOpen := (List.range (tidDim b.t 1)).map fun n => (List.range read).any fun i => b.open_ n i
  (List.range (tidDim a.t 1)).foldl (fun acc m =>
    (List.range (tidDim b.t 1)).foldl (fun acc n =>
      let e := entryNo tile m n
      let x := if spoiled || rowOpen.getD m false || colOpen.getD n false then Config.freeEntry tick e
        else runEntry int mode lo hi k (fun i => (a.value m i).mul (b.value n i)) (fun i => a.int m i * b.int n i)
          (if za && lo = 0 then 0 else Cells.get 0 acc e)
      Cells.set 0 acc e x) acc) acc

/-! ### MMA -/

/-- The register and lane that hold byte `beta` of a fragment, and the participant (R284). -/
def fragPlace (p which beta : Nat) : Nat × Nat × Nat :=
  let q := 8192 / p
  (beta / q, which * (64 / p) + beta % q / 128, beta % 128 / 4)

/-- Element `e` of a fragment: participant, register offset, lane, and lowest bit (R284). -/
def fragElem (t : List DWord) (p which e : Nat) : Nat × Nat × Nat × Nat :=
  let hs := tidHalves (tidFmt t)
  let beta := e * hs / 2
  let w := fragPlace p which beta
  (w.1, w.2.1, w.2.2, 8 * (beta % 4) + (if hs = 1 then 4 * (e % 2) else 0))

/-- Byte `k` of a resolved range is a scratchpad byte of the team that was written without an OPFENCE (R115). -/
def unseenByte (team : Nat) (ps : List Piece) (unseen : List Nat) (k : Nat) : Bool :=
  match pieceLoc ps k with
  | some (.core t o) => decide (t = team) && unseen.contains (2 ^ 20 + o)
  | _ => false

/-- The block scale of element (r, k) of an operand is such a byte. -/
def unseenScale (team : Nat) (td : List DWord) (sc : List Piece) (unseen : List Nat) (r k : Nat) : Bool :=
  decide (tidBlock td ≠ 0) && unseenByte team sc unseen (scaleIndex td k r)

/-- An operand of an MMA, from the fragments of the participants (R284). -/
def fragOperand (s : State) (team : Nat) (t : Team) (oid : Nat) (td : List DWord) (frags : List Arrival) (which : Nat) (sc : List Piece)
    (unseen : List Nat) : Operand :=
  let place (r k : Nat) : Arrival × Nat × Nat × Nat :=
    let w := fragElem td frags.length which (r * stepK (tidFmt td) + k)
    (frags.getD w.1 { coach := 0, vf := 0, vr := 0, pc := 0, word := 0 }, w.2)
  { t := td
    code := fun r k =>
      let w := place r k
      match t.coaches[w.1.coach]? with
      | some c => fld (Cells.get 0 c.v (keyV (w.1.vf + w.2.1) w.2.2.1)).toNat w.2.2.2 (4 * tidHalves (tidFmt td))
      | none => 0
    scale := fun r k => s.scaleOf oid td sc k r
    open_ := fun r k =>
      let w := place r k
      unseen.contains (w.1.coach * 2 ^ 32 + keyV (w.1.vf + w.2.1) w.2.2.1) || unseenScale team td sc unseen r k }

/-- The taint of every fragment register of every participant (R284). -/
def fragTaint (t : Team) (frags : List Arrival) : Bool :=
  frags.any fun a => match t.coaches[a.coach]? with
    | some c => (List.range (128 / frags.length)).any fun i => (List.range 32).any fun l =>
        Cells.get false c.vt (keyV (a.vf + i) l)
    | none => false

/-- The result word of an entry (R284). -/
def resultWord (int : Bool) (rm : Nat) (e : BitVec 56) : Word :=
  if int then BitVec.ofInt 32 (satInt 32 e.toInt) else BitVec.ofNat 32 (roundF fp32 rm false (fval a56 e.toNat))

/-- The results of RB = 1 written into the participants' registers (R284). -/
def writeResults (t : Team) (frags : List Arrival) (tile m n rm : Nat) (int : Bool) : Team :=
  let taint := fragTaint t frags
  let share := 16384 / frags.length
  (List.range m).foldl (fun t i => (List.range n).foldl (fun t j =>
    let w := 128 * i + j
    let x := resultWord int rm (Cells.get 0 t.acc (entryNo tile i j))
    match frags[w / share]? with
    | none => t
    | some a =>
      let key := keyV (a.vr + w % share / 32) (w % share % 32)
      { t with coaches := t.coaches.modify a.coach fun c =>
          { c with v := Cells.set 0 c.v key x, vt := Cells.set false c.vt key taint } }) t) t

/-! ### MLOOP -/

/-- An operand of an MLOOP, from scratchpad (R285). -/
def scratchOperand (s : State) (team oid : Nat) (td : List DWord) (ps sc : List Piece) (unseen : List Nat) : Operand :=
  { t := td
    code := fun r k => s.elemCode oid td ps k r
    scale := fun r k => s.scaleOf oid td sc k r
    open_ := fun r k =>
      ((List.range (max 1 (tidHalves (tidFmt td) / 2))).any fun i => unseenByte team ps unseen (elemOff td k r + i))
        || unseenScale team td sc unseen r k }

/-! ### MDRAIN -/

/-- The converted code of an entry (R139, R286). -/
def drainCode (fmt rm : Nat) (sat : Bool) (e : BitVec 56) : Nat :=
  match tidElem fmt with
  | some (.int w) => (Elem.int w).round rm true (.ofInt e.toInt)
  | some k => k.round rm sat (fval a56 e.toNat)
  | none => 0

/-- The magnitude of a converted value that takes part in the tile maximum (R139). -/
def drainMag (fmt code : Nat) : Nat :=
  match tidElem fmt with
  | some (.int w) => (sext w code).natAbs
  | some k => match k.value code with
    | .nan => 0x7FC00000
    | .inf _ => 0x7F800000
    | .fin _ m e => roundF fp32 0 false (.fin false m e)
  | none => 0

/-- The tile maximum over converted codes: a NaN makes it 0x7FC0_0000, which no magnitude exceeds (R139). -/
def tileMax (fmt : Nat) (codes : List Nat) : Nat := codes.foldl (fun m c => max m (drainMag fmt c)) 0

/-- `n` free bytes. -/
def freeBytes (tick base n : Nat) : List Byte := (List.range n).map fun i => Config.freeByte tick (base + i)

/-- MDRAIN performed (R139, R286). -/
def runDrain (s : State) (oid : Nat) (acc : Cells (BitVec 56)) (out : List DWord) (tile : Nat) (tm sat : Bool) (rm : Nat)
    (dst mx : List Piece) (spoiled : Bool) : State :=
  let fmt := tidFmt out
  let size := fmtBytes fmt
  let cells := (List.range (tidDim out 1)).flatMap fun m => (List.range (tidDim out 0)).map fun n => (m, n)
  let code (c : Nat × Nat) : Nat := drainCode fmt rm sat (Cells.get 0 acc (entryNo tile c.1 c.2))
  let s' := cells.foldl (fun x c =>
    x.writePieces oid dst (elemOff out c.2 c.1)
      (if spoiled then freeBytes s.tick (entryNo tile c.1 c.2 * 8) size else leBytes size (code c))) s
  if tm then
    let old := leNat (s'.readPieces oid mx 0 4)
    s'.writePieces oid mx 0 (if spoiled then freeBytes s.tick (2 ^ 30) 4 else leBytes 4 (max old (tileMax fmt (cells.map code))))
  else s'

/-! ### QUANT2 -/

/-- The scale code and the element codes of one block (R140). -/
def quantBlock (q : Nat) (xs : List FVal) : Nat × List Nat :=
  let emax : Int := match q with | 7 => 8 | 8 => 15 | _ => 6
  let bad := xs.any fun x => match x with | .fin _ _ _ => false | _ => true
  let amax : FVal := xs.foldl (fun (m : FVal) x => match x with
    | .fin _ k e => let y := FVal.fin false k e; if m.cmp y == some .lt then y else m
    | _ => m) (.fin false 0 0)
  let k := (tidElem q).getD (.int 8)
  if bad then (255, xs.map fun _ => match k with | .float f => canonNaN f | .int _ => 0)
  else match amax with
    | .fin _ m e =>
      if m = 0 then (0, xs.map fun _ => 0)
      else
        let sh := max (-127) (min 127 ((Nat.log2 m : Int) + e - emax))
        ((sh + 127).toNat, xs.map fun x => match x with
          | .fin neg m e => k.round 0 true (.fin neg m (e - sh))
          | _ => 0)
    | _ => (255, xs.map fun _ => 0)

/-- The pieces of a QUANT2 input that hold its elements, and those that hold its scales (R287). -/
def quantSrc (ps : List Piece) : List Piece × List Piece :=
  (ps.filter fun p => p.off < 2 ^ 60, (ps.filter fun p => 2 ^ 60 ≤ p.off).map fun p => { p with off := p.off - 2 ^ 60 })

/-- Whether any two of several ranges overlap. -/
def anyOverlap : List (List Piece) → Bool
  | [] => false
  | p :: rest => rest.any (overlap p) || anyOverlap rest

/-- QUANT2 performed (R140, R287): overlapping ranges leave undefined bytes. -/
def runQuant2 (s : State) (oid : Nat) (i r c : List DWord) (src rowOut colOut rowScale colScale : List Piece)
    (spoiled : Bool) : State :=
  let hgt := tidDim i 1
  let wid := tidDim i 0
  let p := quantSrc src
  let free := spoiled || anyOverlap [src, rowOut, colOut, rowScale, colScale]
  let x (y z : Nat) : FVal := (codeValue i (s.elemCode oid i p.1 z y)).mul (s.scaleOf oid i p.2 z y)
  let put (st : State) (ps : List Piece) (off code : Nat) : State :=
    st.writePieces oid ps off [if free then Config.freeByte s.tick (2 ^ 31 + off) else BitVec.ofNat 8 code]
  let rows := (List.range hgt).foldl (fun st y => (List.range (ceilDiv wid 32)).foldl (fun st b =>
    let n := min 32 (wid - 32 * b)
    let q := quantBlock (tidFmt r) ((List.range n).map fun k => x y (32 * b + k))
    (List.range n).foldl (fun st k => put st rowOut (elemOff r (32 * b + k) y) (q.2.getD k 0))
      (put st rowScale (y * ceilDiv wid 32 + b) q.1)) st) s
  (List.range wid).foldl (fun st z => (List.range (ceilDiv hgt 32)).foldl (fun st b =>
    let n := min 32 (hgt - 32 * b)
    let q := quantBlock (tidFmt c) ((List.range n).map fun k => x (32 * b + k) z)
    (List.range n).foldl (fun st k => put st colOut (elemOff c z (32 * b + k)) (q.2.getD k 0))
      (put st colScale (z * ceilDiv hgt 32 + b) q.1)) st) rows

/-! ### A job performed -/

/-- The participants after a job: its result registers are written, so that the scoreboard lets them go (R181). -/
def Coach.jobDone (c : Coach) (id : Nat) : Coach := { c with board := c.board.filter fun b => b.1 ≠ id }

/-- A coach wrote an operand register of the job before its MWAIT (R116). -/
def Team.spoiledJob (t : Team) (id : Nat) : Bool := t.coaches.any fun c => c.spoiled.contains id

/-- The effect of a job on the state (R282). -/
def State.performJob (s : State) (j : Job) : State :=
  match Cells.find s.teams j.team with
  | none => s
  | some t =>
    let spoiled := j.spoiled || t.spoiledJob j.id
    let put (t : Team) : State := { s with teams := Cells.put s.teams j.team t }
    match j.work with
    | .mma a b tile za rb rm frags sa sb =>
      let oa := fragOperand s j.team t j.oid a frags 0 sa j.unseen
      let ob := fragOperand s j.team t j.oid b frags 1 sb j.unseen
      let t := { t with acc := runTile s.tick tile za spoiled rm 0 (stepK (tidFmt a) / 32) oa ob t.acc }
      put (if rb then writeResults t frags tile (tidDim a 1) (tidDim b 1) rm (intFmt (tidFmt a)) else t)
    | .mloop a b tile ks za rm ra rb sa sb =>
      let oa := scratchOperand s j.team j.oid a ra sa j.unseen
      let ob := scratchOperand s j.team j.oid b rb sb j.unseen
      let lo := j.at_ * stepK (tidFmt a) / 32
      put { t with acc := runTile s.tick tile za spoiled rm lo (ks * stepK (tidFmt a) / 32) oa ob t.acc }
    | .mdrain out tile tm sat rm dst mx => runDrain s j.oid t.acc out tile tm sat rm dst mx spoiled
    | .quant2 i r c src ro co rs cs => runQuant2 s j.oid i r c src ro co rs cs spoiled

/-- A job that has been performed and is not matched yet has lost its results: a program touched its regions or its operand
registers (R116). -/
def State.lostResults (s : State) (j : Job) : Bool :=
  j.done && !j.freed && !j.coaches.isEmpty
    && (j.spoiled || match Cells.find s.teams j.team with | some t => t.spoiledJob j.id | none => false)

/-- The results of such jobs become undefined (R116): their outputs are written again, as free values. -/
def State.spoilDone (s : State) : State :=
  (s.jobs.filter s.lostResults).foldl (fun s j =>
    let s := s.performJob { j with spoiled := true }
    { s with jobs := s.jobs.map fun (x : Job) => if x.id = j.id then { x with freed := true } else x }) s

/-- A team whose matrix jobs may run: an MLOOP stands still once the matrix unit has acknowledged its stop, and while its team is
saved (R283, R306). -/
def State.jobRuns (s : State) (j : Job) : Bool :=
  match Cells.find s.teams j.team with
  | some t => (match t.state with | .saved _ => false | .stopping _ _ acked => !acked.contains .matrix | .resident => true)
  | none => false

/-- An MLOOP that a stop order reaches performs K-steps up to one that the device chooses (R283, R306). -/
def State.performSteps (s : State) (j : Job) : State :=
  match j.work with
  | .mloop a b tile ks za rm ra rb sa sb =>
    let k := j.at_ + Config.choose s.tick (j.id + 4096) % (ks - j.at_)
    if ks ≤ j.at_ || !(s.heldChannels j.work.regions).isEmpty then s
    else
      let s' := s.performJob { j with work := .mloop a b tile k za rm ra rb sa sb }
      { s' with jobs := s'.jobs.map fun (x : Job) => if x.id = j.id then { x with at_ := k } else x }
  | _ => s

/-- The channels that a kernel holds among a job's places (R339). -/
def State.jobHeld (s : State) (j : Job) : List Nat := s.heldChannels j.work.regions

/-- The oldest started job of a core that is not done (R282). -/
def State.nextJob (s : State) (core : Nat) : Option Job :=
  s.jobs.find? fun j => j.core = core && !j.done && s.jobRuns j

/-- Jobs that every participant has matched, and that are done, leave. -/
def State.dropJobs (s : State) : State := { s with jobs := s.jobs.filter fun j => !(j.done && j.coaches.isEmpty) }

/-- The agent of the matrix unit working for a team. -/
def State.unitAgent (s : State) (j : Job) : Agent :=
  let t := (Cells.find s.teams j.team).getD {}
  { oid := j.oid, team := j.team, t := t, cluster := some (Config.clusterOf t.core), core := some t.core }

/-- An MDRAIN that waited for a swap takes its translations (R95): nothing while another swap awaits or moves one of its
pages. -/
def State.lateDrain (s : State) (j : Job) : Option Job :=
  match j.late, j.work with
  | some (ol, base, ml, word), .mdrain out tile tm sat rm dst mx =>
    let len := (tidDim out 1 - 1) * tidStr out 1 + lineBytes out (tidDim out 0)
    let pages := s.snapshot j.oid ol base len ++ if tm then s.snapshot j.oid ml word 4 else []
    if s.swapPending j.oid pages || s.movingIn j.oid base (if ol = 4 then len else 0)
        || s.movingIn j.oid word (if tm && ml = 4 then 4 else 0) then none
    else
      let dst := match s.tensorRange (s.unitAgent j) ol .store base out (tidDim out 0) with | .ok ps => ps | .error _ => dst
      let mx := if tm then match s.wholeRange (s.unitAgent j) ml .atomic word 4 with | .ok ps => ps | .error _ => mx else mx
      some { j with late := none, work := .mdrain out tile tm sat rm dst mx }
  | _, _ => some j

/-- MATRIX_JOB_COMPLETION (R282): the oldest job of the core is performed whole. -/
def execMatrixJobCompletion (core : Nat) (s : State) : Host.Outcome State Fault Refusal :=
  whenRunning s <|
  let s := s.spoilDone
  match (s.nextJob core).bind s.lateDrain with
  | none => .next s
  | some j =>
    if !(s.jobHeld j).isEmpty then .next (s.markBoth j.work.reads j.work.regions)
    else
      let s0 := s
      let s := s.performJob j
      let s : State := { s with
        jobs := s.jobs.map fun (x : Job) => if x.id = j.id then { x with done := true, known := Known.wrote x.known s0 s } else x
        teams := Cells.modify s.teams j.team fun t =>
          { t with coaches := t.coaches.map fun (c : Coach) => c.jobDone j.id } }
      .next s.dropJobs

/-- MATRIX_RENDEZVOUS (R281): an open rendezvous whose arrived participants are parked is cancelled, without effect; each
of them stops with the mask of the absent coaches, to resume after its trailer. -/
def execMatrixRendezvous (team rdv : Nat) (s : State) : Host.Outcome State Fault Refusal :=
  whenRunning s <| match Cells.find s.teams team with
  | none => .next s
  | some t =>
    match t.rdvs.find? fun r => r.id = rdv, t.state with
    | some r, .resident =>
      let parked (a : Arrival) : Bool :=
        match t.coaches[a.coach]? with
        | some c => c.subs.any fun g => g.parks.contains (.rendezvous rdv)
        | none => false
      if !r.arrived.all parked then .next s
      else
        let absent := r.pm &&& ~~~(maskOf (r.arrived.map Arrival.coach))
        let s := { s with teams := Cells.modify s.teams team fun t =>
          { t with rdvs := t.rdvs.filter fun x => x.id ≠ rdv,
                   coaches := t.coaches.map fun c =>
                     { c with jobs := c.jobs.filter (· ≠ rdv), frags := c.frags.filter fun f => f.1 ≠ rdv,
                              board := c.board.filter fun f => f.1 ≠ rdv } } }
        .next (r.arrived.foldl (fun s a =>
          match s.coach team a.coach with
          | none => s
          | some (t, c) =>
            match c.subs.find? fun g => g.parks.contains (.rendezvous rdv) with
            | none => s
            | some g =>
              let g := { g with parks := g.parks.filter (· ≠ .rendezvous rdv), pc := g.fall }
              let h : Here := { tick := s.tick, team := team, t := t, ci := a.coach, c := c, g := g }
              s.stopWith h
                { trap := { cause := .matrixRendezvous, w6 := absent }, pc := a.pc, word := a.word, pre := none,
                  resume := g.pc, exec := g.exec, mem := g.mem, run := g.lastRun, sub := g.id }) s)
    | _, _ => .next s

end Sys2Proof.Machine
end

