-- ==== Sys2Proof/Machine/Issue.lean ====
section
/-!
DEFINITION. The issue decision of a half, fusion, the ends of parks, and the end of member lanes
(spec/01_execution.md R30 to R51; spec/13_encoding.md R178, R180; spec/16_instr_memory.md R258, R267).
-/

namespace Sys2Proof.Machine

/-! ### Parks and waits that end -/

/-- The issuer that a context and a sub-group number name. -/
def State.hereAt (s : State) (ctx : Ctx) (sub : Nat) : Option Here := { s with cur := ctx, curSub := sub }.here

/-- Every long result of runs numbered up to `run` has returned (R178). -/
def Coach.backUpTo (c : Coach) (run : Nat) : Bool := c.longs.all fun r => r.back || decide (run < r.run)

/-- Every long result issued before number `seq` has returned (R180). -/
def Coach.backBefore (c : Coach) (seq : Nat) : Bool := c.longs.all fun r => r.back || decide (seq ≤ r.seq)

/-- Those results are observed (R177). -/
def Coach.observeBefore (c : Coach) (seq : Nat) : Coach :=
  { c with longs := c.longs.filter fun r => !(r.back && decide (r.seq < seq)) }

/-- The results of runs numbered up to `run` are observed (R177). -/
def Coach.observe (c : Coach) (run : Nat) : Coach :=
  { c with longs := c.longs.filter fun r => !(r.back && decide (r.run ≤ run)) }

/-- The slots named in a wait mask. -/
def slotsOf (wait : BitVec 8) : List Nat := (List.range 8).filter fun n => wait.getLsbD n

/-- A BARSYNC that has been released is an acquire, of the arrivals of its phase (R111). -/
def Here.settleSync (h : Here) : Here :=
  match h.g.sync with
  | some b =>
    if h.g.parks.any Park.isBarrier then h
    else { h with g := { h.g with sync := none }, c := h.c.joins (h.t.barrier b).past }
  | none => h

/-- A pending WAIT is satisfied once every slot it names is complete, and its results are then observed (R178). -/
def Here.settleWait (h : Here) : Here :=
  if (slotsOf h.g.wait).all fun n => h.c.backUpTo (Cells.get 0 h.c.w n) then
    { h with c := (slotsOf h.g.wait).foldl (fun c n => c.observe (Cells.get 0 c.w n)) h.c, g := { h.g with wait := 0 } }
  else h

/-- A matrix job has been performed, or its rendezvous is gone without a job (R281, R282). -/
def State.jobOver (s : State) (t : Team) (id : Nat) : Bool :=
  (s.jobs.all fun j => j.id ≠ id || j.done) && t.rdvs.all fun r => r.id ≠ id

/-- A coach has matched jobs by MWAIT, or has ended: it takes no more part in them (R116, R282). -/
def State.leaveJobs (s : State) (team ci : Nat) (which : Nat → Bool) : State :=
  State.dropJobs { s with jobs := s.jobs.map fun (j : Job) =>
    if j.team = team && which j.id then { j with coaches := j.coaches.filter (· ≠ ci) } else j }

/-- A sub-group can still come to where another waits for it (R48): its lanes do not end, and it is not itself parked at
barriers or at such a wait. DESIGN CHOICE (log entry 34): else the other goes on. -/
def SubGroup.mayCome (g : SubGroup) : Bool :=
  !g.atBarrier && !g.parks.any fun p => match p with | .ending _ => true | .meeting => true | _ => false

/-- The park `p` ends: nothing while it holds, else the state and the issuer afterwards (R32, R44, R180, R258, R267,
R281, R282). -/
def State.endPark (s : State) (h : Here) : Park → Option (State × Here)
  | .switch seq => if h.c.backBefore seq then some (s, { h with c := h.c.observeBefore seq }) else none
  | .bar b phase => if (h.t.barrier b).phase != phase then some (s, h) else none
  | .tagAny k m taint =>
    let x := h.t.tags &&& m
    if m = 0 || x ≠ 0 then some (s, (h.sawTags x).setS k (BitVec.ofNat 32 (lowestBit x)) taint) else none
  | .tagAll m => if h.t.tags &&& m = m then some (s, h.sawTags m) else none
  | .mwait ids =>
    if ids.all fun i => s.jobOver h.t i then
      let c := { h.c with frags := h.c.frags.filter fun f => !ids.contains f.1,
                          spoiled := h.c.spoiled.filter fun i => !ids.contains i }
      let results := s.jobs.filter fun j => ids.contains j.id
      some (s.leaveJobs h.team h.ci ids.contains, { h with c := results.foldl (fun c j => c.joins j.known) c })
    else none
  | .rcwait k token taint =>
    match s.callOf h.c token with
    | none => some (s, h.setDisp k 5 [] taint)
    | some (i, call) =>
      let consume (g : Here) : Here := { g with c := { g.c with calls := g.c.calls.filter (· ≠ i) } }
      if call.lost then
        some (if s.callIdle i then { s with calls := Cells.drop s.calls i } else s, consume (h.setDisp k 3 [] taint))
      else match call.delivered, call.result with
        | true, some r =>
          some ({ s with calls := Cells.drop s.calls i },
            (consume (h.setDisp k r.1 r.2 taint)).onCoach fun c => c.joins (Cells.get [] s.ran token.toNat))
        | _, _ => none
  | .rendezvous id => if h.t.rdvs.all fun r => r.id ≠ id then some (s, h) else none
  | .meeting => if h.c.subs.all fun x => x.id = h.g.id || !x.mayCome then some (s, h) else none
  | _ => none

/-- The parks of a list that end, one after another. -/
def State.settleParks (s : State) (h : Here) : List Park → State × Here
  | [] => (s, h)
  | p :: rest =>
    match s.endPark h p with
    | some (s', h') => s'.settleParks { h' with g := { h'.g with parks := h'.g.parks.filter (· ≠ p) } } rest
    | none => s.settleParks h rest

/-- Every park and WAIT of an agent's sub-groups that can end, ends. -/
def State.settle (s : State) (ctx : Ctx) (subs : List Nat) : State :=
  subs.foldl (fun s id =>
    match s.hereAt ctx id with
    | none => s
    | some h => let p := s.settleParks h h.g.parks; p.1.put p.2.settleWait.settleSync) s

/-! ### Readiness and selection -/

/-- A sub-group may issue (R32). -/
def SubGroup.ready (g : SubGroup) : Bool := g.parks.isEmpty && g.wait = 0

/-- A coach is descheduled by a fault (R47); in compatibility mode its other sub-groups run on (R48), unless the stop is the
whole coach's. -/
def Coach.descheduled (c : Coach) (compat : Bool) : Bool :=
  !c.stops.isEmpty && c.saved.isNone && (!compat || c.stops.any Stopped.whole)

/-- A coach is ready (R32). -/
def Team.coachReady (t : Team) (c : Coach) : Bool :=
  t.here && !c.ended && c.parked.isNone && !c.descheduled t.compat && c.subs.any SubGroup.ready

/-- The coaches resident on a half: team, index, team record and coach. -/
def State.coachesOn (s : State) (half : Nat) : List (Nat × Nat × Team × Coach) :=
  s.teams.flatMap fun p =>
    if p.2.here then (p.2.coaches.zipIdx.filter fun q => halfOf p.2.core q.1 = half).map fun q => (p.1, q.2, p.2, q.1) else []

/-- The ready coaches of a half. -/
def State.readyOn (s : State) (half : Nat) : List (Nat × Nat × Coach) :=
  ((s.coachesOn half).filter fun x => x.2.2.1.coachReady x.2.2.2 && !s.nodeStopped x.2.2.1.node).map fun x =>
    (x.1, x.2.1, x.2.2.2)

/-- The coach that became resident earliest, then the lower context number (R32). -/
def earliest (l : List (Nat × Nat × Coach)) : Option (Nat × Nat × Coach) :=
  l.foldl (fun best x => match best with
    | none => some x
    | some b => if x.2.2.since < b.2.2.since || (x.2.2.since = b.2.2.since && x.2.2.ctx < b.2.2.ctx) then some x else some b)
    none

/-- The coach that a half selects (R32). -/
def selectCoach (last : Option (Nat × Nat)) (l : List (Nat × Nat × Coach)) : Option (Nat × Nat × Coach) :=
  match earliest (l.filter fun x => x.2.2.overdue) with
  | some x => some x
  | none => match l.find? fun x => last = some (x.1, x.2.1) with
    | some x => some x
    | none => earliest l

/-- A ready coach that is not selected (R32). -/
def Coach.passOver (c : Coach) : Coach :=
  { c with waitCount := c.waitCount + 1, overdue := c.overdue || decide (56 ≤ c.waitCount + 1) }

/-! ### Fusion -/

/-- Two sub-groups may fuse (R37). -/
def SubGroup.fuses (a b : SubGroup) : Bool :=
  let still (g : SubGroup) : Bool := g.parks.all fun p => p = .converged || p = .meeting
  a.id ≠ b.id && a.parent = b.parent && a.pc = b.pc && still a && still b && sameRecs a.recs b.recs

/-- The T registers of the lanes of `m` hold nothing in a new run (R176). -/
def Coach.clearT (c : Coach) (m : Word) : Coach :=
  { c with tw := c.tw.filter fun p => !m.getLsbD (p.1 % 32) }

/-- Two sub-groups of which only one is in the middle of a run: the lanes of the other come new to that run (R176). -/
def Coach.joinRun (c : Coach) (a b : SubGroup) : Coach :=
  if a.run.isSome && b.run.isNone then c.clearT b.mem
  else if a.run.isNone && b.run.isSome then c.clearT a.mem
  else c

/-- The fused entry (R37): the parent where the two hold all its members, else an entry beside the third (log entry 27).
In compatibility mode a fusion is a convergence point (R48). -/
def Coach.fuseTwo (c : Coach) (a b : SubGroup) : Coach :=
  let c := c.joinRun a b
  let rest := a.rest || b.rest
  let g : SubGroup :=
    { a with mem := a.mem ||| b.mem, exec := a.exec ||| b.exec, wait := a.wait ||| b.wait, pass := 0, overdue := false,
             rest := rest, parks := if rest then [.converged] else [], run := if a.run.isSome then a.run else b.run,
             lastRun := max a.lastRun b.lastRun }
  let others := c.subs.filter fun x => x.id ≠ a.id && x.id ≠ b.id
  match c.parents.find? fun p => a.parent = some p.id && p.mem = g.mem with
  | some p =>
    { c with subs := others ++ [{ g with id := p.id, parent := p.parent }], parents := c.parents.filter fun x => x.id ≠ p.id }
  | none => { c with subs := others ++ [g] }

/-- A pair of sub-groups that may fuse. -/
def fusePair (l : List SubGroup) : Option (SubGroup × SubGroup) :=
  l.findSome? fun a => (l.find? fun b => a.fuses b).map fun b => (a, b)

/-- All fusions of a coach: each leaves one sub-group fewer. -/
def Coach.fuseAll : Nat → Coach → Coach
  | 0, c => c
  | n + 1, c => match fusePair c.subs with
    | some (a, b) => Coach.fuseAll n (c.fuseTwo a b)
    | none => c

/-! ### Sub-group selection and the start of a run -/

/-- The overdue sub-group with the highest pass-over count; among equal counts the lowest program counter (R38). -/
def mostOverdue (l : List SubGroup) : Option SubGroup :=
  let m := l.foldl (fun m g => max m g.pass) 0
  lowestSub (l.filter fun g => g.pass = m)

/-- The sub-group that a selected coach issues (R38). -/
def selectSub (l : List SubGroup) : Option SubGroup :=
  let ready := l.filter SubGroup.ready
  match mostOverdue (ready.filter SubGroup.overdue) with
  | some g => some g
  | none => lowestSub ready

/-- The sub-group `g` issues: a new run under the next number, or the continuation of a stopped one (R175, R178). The
other ready sub-groups are passed over (R38). -/
def Coach.startRun (c : Coach) (g : SubGroup) : Coach :=
  let fresh := match g.run with | some r => decide (r.no = 0) | none => true
  let c := if g.run.isNone then c.clearT g.mem else c
  let no := if fresh then c.runNo + 1 else c.runNo
  let r : Run := match g.run with
    | some r => if r.no = 0 then { r with no := no } else r
    | none => { no := no }
  { c with runNo := no, waitCount := 0, overdue := false, subs := c.subs.map fun (x : SubGroup) =>
      if x.id = g.id then { x with run := some r, pass := 0, overdue := false }
      else if x.ready then { x with pass := x.pass + 1, overdue := x.overdue || decide (16 ≤ x.pass + 1) }
      else x }

/-- The half stands in the middle of a run of a sub-group, or chose nothing. -/
def State.setHalf (s : State) (half : Nat) (x : Half) : State := { s with halves := Cells.set {} s.halves half x }

/-- Every park and WAIT of the coaches on a half that can end, ends; a team that then stands at barriers only stalls
(R46). -/
def State.settleHalf (s : State) (half : Nat) : State :=
  let s := s.spoilDone
  let s := (s.coachesOn half).foldl (fun s q => s.settle (.coach q.1 q.2.1) (q.2.2.2.subs.map SubGroup.id)) s
  (s.coachesOn half).foldl (fun s q => s.checkStall q.1) s

/-- ISSUE_DECISION (R31, R32, R37, R38): a half that is in no run selects a coach, which fuses what may fuse and issues one
sub-group. -/
def execIssueDecision (half : Nat) (s : State) : Host.Outcome State Fault Refusal :=
  whenRunning s <|
    let x := Cells.get {} s.halves half
    if x.inRun.isSome then .next s
    else
      let s := s.settleHalf half
      let ready := s.readyOn half
      match selectCoach x.last ready with
      | none => .next (s.setHalf half { x with last := none })
      | some (team, ci, _) =>
        let s := ready.foldl (fun s y => if y.1 = team && y.2.1 = ci then s else s.modCoach y.1 y.2.1 Coach.passOver) s
        let s := s.modCoach team ci fun c => Coach.fuseAll c.subs.length c
        match s.coach team ci with
        | none => .next s
        | some (_, c) => match selectSub c.subs with
          | none => .next ((s.modCoach team ci fun c => { c with waitCount := 0, overdue := false }).setHalf half
              { inRun := none, last := some (team, ci) })
          | some g => .next ((s.modCoach team ci fun c => c.startRun g).setHalf half
              { inRun := some (team, ci, g.id), last := some (team, ci) })

/-- COACH_OVERDUE (R32): a wait count of 56 makes a coach overdue; the decision that counts it does so already. -/
def execCoachOverdue (team coach : Nat) (s : State) : Host.Outcome State Fault Refusal :=
  whenRunning s <| .next (s.modCoach team coach fun c => { c with overdue := c.overdue || decide (56 ≤ c.waitCount) })

/-- SUBGROUP_OVERDUE (R38): 16 pass-overs make a sub-group overdue; the selection that counts them does so already. -/
def execSubgroupOverdue (team coach sub : Nat) (s : State) : Host.Outcome State Fault Refusal :=
  whenRunning s <| .next (s.modCoach team coach fun c => { c with subs := c.subs.map fun (g : SubGroup) =>
    if g.id = sub then { g with overdue := g.overdue || decide (16 ≤ g.pass) } else g })

/-! ### Long results, handler entry -/

/-- LONG_RESULT_RETURN (R177, R178): a long result has returned, none of its accesses waiting for a channel; a stop that
waited for it may enter its handler (R312). -/
def execLongResultReturn (ctx : Ctx) (ix : Nat) (s : State) : Host.Outcome State Fault Refusal :=
  whenRunning s <|
    let s := s.modCtx ctx fun c => { c with longs := c.longs.modify ix fun r => if r.left = 0 then { r with back := true } else r }
    .next (match ctx with | .coach team ci => s.tryEntry team ci | _ => s)

/-- HANDLER_ENTRY (R312, R319): entered once the long results have returned. -/
def execHandlerEntry (team coach : Nat) (s : State) : Host.Outcome State Fault Refusal :=
  whenRunning s <| .next (s.tryEntry team coach)

/-! ### END -/

/-- The requests and jobs that the coach issued or joined have completed (R42, R96). -/
def State.coachIdle (s : State) (team : Nat) (t : Team) (ci : Nat) : Bool :=
  (s.requests.all fun p => !(decide (p.2.team = team) && decide (p.2.coach = ci)))
    && (s.jobs.all fun j => !(decide (j.team = team) && j.coaches.contains ci) || j.done)
    && t.rdvs.all fun r => r.arrived.all fun a => a.coach ≠ ci

/-- The lanes of a sub-group leave the coach: its parents keep the remaining members (R42). DESIGN CHOICE (log entry
34): a lone remaining child stays a child of its parent. -/
def Coach.endLanes (c : Coach) (g : SubGroup) : Coach :=
  { c with subs := c.subs.filter fun x => x.id ≠ g.id,
           parents := (c.parents.map fun p => { p with mem := p.mem &&& ~~~g.mem }).filter fun p => p.mem ≠ 0 }

/-- The instruction word at an offset and its prefix, as far as they can be fetched (R317). -/
def State.peek (s : State) (h : Here) (pc : Nat) : Word × Option (BitVec 24) :=
  match s.fetch h pc with
  | .ok w =>
    if fld w.toNat 24 8 = 0xBE then
      match s.fetch h (pc + 4) with
      | .ok x => (x, some (BitVec.ofNat 24 w.toNat))
      | .error _ => (0, some (BitVec.ofNat 24 w.toNat))
    else (w, none)
  | .error _ => (0, none)

/-- The number of the run that a sub-group is in, or of its last one. -/
def SubGroup.runNo (g : SubGroup) : Nat :=
  match g.run with
  | some r => if r.no = 0 then g.lastRun else r.no
  | none => g.lastRun

/-- A sub-group is parked at barrier `b` by a BARSYNC, be it a repeated one (R45). -/
def SubGroup.heldAt (g : SubGroup) (b : Nat) : Bool :=
  g.parks.any fun p => match p with | .barHeld x => x = b | .barAgain x _ sync => x = b && sync | _ => false

/-- The recordings of a sub-group at `b` are cleared; an arrival that it has made beyond them counts toward the coach's next
(R45). -/
def SubGroup.cleared (b : Nat) (g : SubGroup) : SubGroup :=
  let recs := g.recs.filter fun r => r.1 ≠ b
  match g.parks.find? fun p => match p with | .barAgain x _ _ => x = b | _ => false with
  | some (.barAgain _ e sync) =>
    { g with recs := recs ++ [(b, e)], parks := g.parks.filterMap fun p => match p with
        | .barAgain x _ _ => if x = b then (if sync then some (.barHeld b) else none) else some p
        | _ => some p }
  | _ => { g with recs := recs }

/-- The sub-group stands again before the BARSYNC that parks it: the run goes on where its trailer has not issued, else a
new one begins (R175, R313). -/
def SubGroup.beforeSync (g : SubGroup) (b : Nat) : SubGroup × (Nat × Word × Option (BitVec 24) × Nat) :=
  let w := match g.run with | some r => r.stopAt.getD g.at_ | none => g.at_
  let no := match g.run with | some r => r.no | none => 0
  ({ g with pc := w.1, run := some { no := no, words := w.2.2.2 }, sync := none, recs := g.recs.filter fun r => r.1 ≠ b
            parks := g.parks.filter fun p => match p with | .barHeld x => x ≠ b | .barAgain x _ _ => x ≠ b | _ => true }, w)

/-- The failed arrival of a coach whose last sub-group without a recording has ended (R45, R313): its recordings at the
barrier are cleared, and the whole coach stops (R47), at a parked BARSYNC, which issues again, or at a next instruction, with
the IMMX of that instruction (R172). DESIGN CHOICE (log entry 34): the other sub-groups parked at that BARSYNC stay parked, a
repeated arrival counts toward the coach's next one, and the record of a next instruction that stands in no run names the
sub-group's last run. -/
def State.failArrival (s : State) (team ci b : Nat) : State :=
  match s.coach team ci with
  | none => s
  | some (t, c) =>
    let pick := match lowestSub (c.subs.filter fun g => g.heldAt b) with
      | some g => some g
      | none => lowestSub (c.subs.filter fun g => g.recs.any fun r => r.1 = b)
    match pick with
    | none => s
    | some g =>
      let h : Here := { tick := s.tick, team := team, t := t, ci := ci, c := { c with subs := c.subs.map (SubGroup.cleared b) },
                        g := g.cleared b }
      let trap : Trap := { cause := .barrierCount, detail := BitVec.ofNat 16 b }
      if g.heldAt b then
        let (back, pc, word, pre, _) := g.beforeSync b
        s.stopWhole { h with g := back }
          { trap := trap, pc := pc, word := word, pre := pre, resume := pc, exec := g.exec, mem := g.mem, run := g.runNo,
            sub := g.id }
      else
        let h := h.rewind
        let w := s.peek h h.g.pc
        s.stopWhole h
          { trap := trap, pc := h.g.pc, word := w.1, pre := w.2, resume := h.g.pc, exec := g.exec, mem := g.mem,
            run := g.runNo, sub := g.id }

/-- After lanes have ended: the coach's arrivals that are now complete are made (R45). -/
def State.arriveAfterEnd (s : State) (team ci : Nat) : State :=
  upto (fun s b =>
    match s.coach team ci with
    | none => s
    | some (t, c) =>
      if allRecorded c.subs b then
        match arriveRecorded b c.acq 2 t c.subs with
        | none => s.failArrival team ci b
        | some (t', subs, done) =>
          let s := s.setTeam team { t with barriers := t'.barriers, coaches := t.coaches.set ci { c with subs := subs } }
          if done then s.releaseBarrier team b else s
      else s) s 16

/-- A coach whose lanes have all ended: its unconsumed calls are discarded, and it takes no more part in jobs (R42). -/
def State.endCoach (s : State) (team ci : Nat) : State :=
  let s := s.modCoach team ci fun c =>
    { c with ended := true, saved := none, stops := [], parents := [], calls := [], disps := [], jobs := [], frags := [],
             board := [], longs := [] }
  s.leaveJobs team ci fun _ => true

/-- Accesses of an agent's instructions wait for their channels (R31, R42). -/
def State.accessWaits (s : State) (ctx : Ctx) : Bool :=
  s.arrivals.any fun w => w.ctx = ctx && match w.work with | .again _ _ => false | _ => true

/-- Accesses of a team's instructions wait for their channels. -/
def State.teamWaits (s : State) (team : Nat) : Bool :=
  s.arrivals.any fun w => (match w.work with | .again _ _ => false | _ => true) && match w.ctx with
    | .coach t _ => decide (t = team)
    | .thread t _ => decide (t = team)
    | _ => false

/-- Nothing parks a sub-group but its END, and the wait of R48 (R180: no park replaces another). -/
def SubGroup.onlyEnds (g : SubGroup) : Bool :=
  g.parks.all fun p => match p with | .ending _ => true | .converged => true | _ => false

/-- MEMBER_LANES_END (R42, R180, R205): the park of END ends, every other park of the sub-group having ended and every access
of the coach having been performed, and the member lanes with it. A remote function ends so as well (R264). -/
def execMemberLanesEnd (ctx : Ctx) (sub : Nat) (s : State) : Host.Outcome State Fault Refusal :=
  whenRunning s <|
    let s := s.spoilDone.settle ctx [sub]
    match s.hereAt ctx sub with
    | none => .next s
    | some h =>
      match h.g.parks.findSome? fun p => match p with | .ending r => some r | _ => none with
      | none => .next s
      | some run =>
        if !h.c.backUpTo run || !h.g.onlyEnds || s.accessWaits ctx then .next s
        else match h.remote with
          | some ex =>
            let nret := ((s.running ex).map fun p => p.2.nret).getD 0
            .next (s.endCall ex 0 ((List.range nret).map fun i => Cells.get 0 h.c.s i))
          | none =>
            if !h.t.here || !s.coachIdle h.team h.t h.ci then .next s
            else
              let c := (h.c.observe run).endLanes h.g
              let s := s.modCoach h.team h.ci fun _ => c
              if c.subs.isEmpty then .next ((s.endCoach h.team h.ci).checkStall h.team)
              else .next (((s.arriveAfterEnd h.team h.ci).tryEntry h.team h.ci).checkStall h.team)

end Sys2Proof.Machine
end

