-- ==== Sys2Proof/Machine/Calls.lean ====
section
/-!
DEFINITION. Executors: the start of a function, its reply, a lost call, and the answer to a probe
(spec/16_instr_memory.md R262 to R269; spec/25_near_memory.md R353 to R355).
-/

namespace Sys2Proof.Machine

/-! ### GLOBAL accesses of the device itself -/

/-- A page of the owner that a swap moves holds the device's own accesses back (R95). -/
def State.moving (s : State) (oid : Nat) : Bool := s.swaps.any fun w => w.begun && decide (w.oid = oid)

/-- One byte read by the device under an owner, or nothing where the translation fails (R86). -/
def State.gByte (s : State) (oid va : Nat) : Option Byte :=
  match s.translate none oid va .load with
  | .ok pa _ _ => some (s.readSto oid pa)
  | _ => none

/-- `n` bytes from `va`. -/
def State.gBytes (s : State) (oid va n : Nat) : Option (List Byte) := (List.range n).mapM fun i => s.gByte oid (va + i)

/-- The little-endian dwords of bytes. -/
def bytesDWords : List Byte → List DWord
  | a :: b :: c :: d :: e :: f :: g :: h :: r => BitVec.ofNat 64 (leNat [a, b, c, d, e, f, g, h]) :: bytesDWords r
  | _ => []

/-- Bytes written by the device within one page: nothing is written where the translation fails R86 (R299). -/
def State.gStore (s : State) (oid va : Nat) (bs : List Byte) : State :=
  match s.translate none oid va .store with
  | .ok pa _ _ => s.writeLocs oid (.sto pa) bs
  | _ => s

/-- What the device has written at `va` is a release at system scope of all that has been written (R299; log entry 15). -/
def State.gRelease (s : State) (oid va n : Nat) : State :=
  match s.translate none oid va .store with
  | .ok pa _ _ => s.post (.sto pa) n [{ agent := {}, scope := 6, known := s.written }]
  | _ => s

/-- The channels that an access of the device to one byte waits for, its walk included (R339). -/
def State.gWait (s : State) (oid va : Nat) (acc : Access) : List Nat :=
  match s.translate none oid va acc with
  | .held chans => chans
  | .ok pa _ _ => if s.channelHeld pa then [channelOf pa] else []
  | .fails _ => []

/-- The channels that an access of the device to a range waits for. -/
def State.gWaits (s : State) (oid va n : Nat) (acc : Access) : List Nat :=
  ((List.range (n / 2048 + 2)).flatMap fun i =>
    let x := max va (va / 2048 * 2048 + 2048 * i)
    if x < va + n then s.gWait oid x acc else []).eraseDups

/-- A kernel holds the channel of the page's byte (R339). -/
def State.gHeld (s : State) (oid va : Nat) : Bool := !(s.gWait oid va .load ++ s.gWait oid va .store).isEmpty

/-- The first byte of a range that the device cannot read, with the reason (R86). -/
def State.gFails (s : State) (oid va n : Nat) : Option (Nat × Nat) :=
  (List.range n).findSome? fun i => match s.translate none oid (va + i) .load with
    | .fails r => some (va + i, r)
    | _ => none

/-! ### Functions -/

/-- Field `[lo + len - 1 : lo]` of record word `w`. -/
def Node.fld (n : Node) (w lo len : Nat) : Nat := Sys2Proof.fld (n.words.getD w 0).toNat lo len

/-- The reserved time of a record (R295). -/
def Node.dur (n : Node) : Nat := n.fld 0 32 20

/-- A function ran for longer than the reserved time of its node (R304, R355); one still running at `slot` is timed to there. -/
def Call.ranLong (c : Call) (dur slot : Nat) : Bool := decide (c.startedAt + dur < c.endedAt.getD slot)

/-- The registers of a function at its start (R264, R353). -/
def functionStart (entry : Nat) (payload : List Word) : Coach :=
  { s := (payload.zipIdx).foldl (fun m p => Cells.set 0 m p.2 p.1) [], nextId := 1,
    subs := [{ id := 0, pc := entry, mem := 0xFFFFFFFF, exec := 0xFFFFFFFF }] }

/-- Words 3 to 14 of a node. -/
def State.nodeWord (s : State) (node w : Nat) : Nat :=
  match Cells.find s.nodes node with | some n => (n.words.getD w 0).toNat | none => 0

/-- The payload of a call at its start: for an invocation of a batch the words of its argument record, and S16 := i
(R355). -/
def State.callPayload (s : State) (c : Call) : Option (List Word) :=
  match c.batch with
  | none => some c.payload
  | some (node, i) =>
    (s.gBytes c.oid (fld (s.nodeWord node 6) 0 56 + 64 * i) 64).map fun b => bytesWords b ++ [BitVec.ofNat 32 i]

/-- The invocations of a batch before this one have started (R355). -/
def State.batchTurn (s : State) (c : Call) : Bool :=
  match c.batch with
  | none => true
  | some (node, i) => s.calls.all fun p => match p.2.batch with
    | some (n, j) => !(decide (n = node) && decide (j < i)) || p.2.started
    | none => true

/-- The address of record `i` of the table that word `w` of a batch node names (R355). -/
def State.batchAt (s : State) (node w i : Nat) : Nat := fld (s.nodeWord node w) 0 56 + 64 * i

/-- The argument record of an invocation cannot be read yet: a swap moves its page, a kernel holds its channel, or its node is
switched out (R95, R311, R339). -/
def State.argumentHeld (s : State) (c : Call) : Bool :=
  match c.batch with
  | none => false
  | some (node, i) => s.moving c.oid || s.gHeld c.oid (fld (s.nodeWord node 6) 0 56 + 64 * i)
      || match Cells.find s.nodes node with | some n => n.out | none => false

/-- The channel that the read of an argument record waits for (R341). -/
def State.argumentChannels (s : State) (c : Call) : List Nat :=
  match c.batch with
  | none => []
  | some (node, i) => s.gWait c.oid (s.batchAt node 6 i) .load

/-- The words of the reply of a function whose argument record cannot be read: the fault code, and words 0 to 6 of the fault
record of a load at its entry (R264, R317, R355; log entry 45). -/
def State.argumentFault (s : State) (c : Call) : List Word :=
  let at_ := match c.batch with | some (node, i) => s.batchAt node 6 i | none => 0
  let x := (s.gFails c.oid at_ 64).getD (at_, 1)
  let f : Stopped :=
    { trap := { cause := .pageFault, reason := x.2, space := spaceGlobal, addr := x.1 }, pc := c.entry, word := 0, pre := none,
      resume := c.entry, exec := 0xFFFFFFFF, mem := 0xFFFFFFFF, run := 0, sub := 0 }
  BitVec.ofNat 32 Cause.pageFault.code :: (f.record 0 0).take 7

/-- REMOTE_FUNCTION_START (R264, R353, R355): the executor starts the call that it admitted first. An argument record
that cannot be read faults the invocation (log entry 45). -/
def execRemoteFunctionStart (ex : Nat) (s : State) : Host.Outcome State Fault Refusal :=
  whenRunning s <| match Cells.find s.executors ex with
  | none => .next s
  | some e =>
    match e.running, e.queue with
    | none, k :: rest =>
      if s.accessWaits (.remote ex) then .next s
      else match Cells.find s.calls k with
      | none => .next { s with executors := Cells.put s.executors ex { e with queue := rest } }
      | some c =>
        if !s.batchTurn c then .next s
        else if s.argumentHeld c then .next (s.markWaiting (s.argumentChannels c))
        else
          let s1 := { s with executors := Cells.put s.executors ex { e with queue := rest, running := some k } }
          match s.callPayload c with
          | some p =>
            .next (s1.modCall k fun c => { c with started := true, startedAt := s.slot, fn := some { functionStart c.entry p with acq := c.known } })
          | none =>
            .next ((s1.modCall k fun c => { c with started := true, startedAt := s.slot }).endCall ex 2 (s.argumentFault c))
    | _, _ => .next s

/-! ### Replies -/

/-- The result record of an invocation (R355): S0 to S7 are stated at END only, so that they are free otherwise. -/
def resultRecord (tick : Nat) (r : Nat × List Word) : List Word :=
  ((List.range 8).map fun i => if r.1 = 0 then r.2.getD i 0 else Config.freeWord tick (200000 + i))
    ++ [BitVec.ofNat 32 r.1]
    ++ (List.range 7).map fun i => if r.1 = 2 then r.2.getD (i + 1) 0 else 0

/-- The fault code of a disposition (R268). -/
def dispFault (r : Nat × List Word) : Word := if r.1 = 2 then r.2.headD 0 else 0

/-- What a peer answers to a call that the relay has sent: COMMITTED, ABORTED or FAULTED with a fault code (R266, R395); the
peer's choice is open (log entry 24). -/
def State.peerAnswer (s : State) : Nat × Word :=
  match Config.choose s.tick 3 % 3 with
  | 2 => (2, Config.freeWord s.tick 6)
  | d => (d, 0)

/-- A disposition of a call that the relay has sent (R266, R395). -/
def State.relayDisp (s : State) (number : Nat) (d : Nat × Word) : State :=
  { s with relayed := Cells.modify s.relayed number fun r => { r with disp := some d } }

/-- A call past its class bound (R304, R305): late by a hardware fault it counts as a missed deadline, else as an overrun of its
function. -/
def State.countLate (s : State) (c : Call) : State := s.count (if c.excused then 0x310 else 0x311)

/-- Accesses of the function that an executor ran last wait for their channels (R118). -/
def State.executorWaits (s : State) (ex : Nat) : Bool :=
  (Cells.get {} s.executors ex).running.isNone && s.accessWaits (.remote ex)

/-- REPLY (R264, R267, R269, R355, R395): the reply of a finished call arrives at the caller's core once every access of its
function has been performed (R118), or the result record of an invocation is written, or a peer answers the relay. After LOST no
RCWAIT gets it: the core only records its disposition. -/
def execReply (call : Nat) (s : State) : Host.Outcome State Fault Refusal :=
  whenRunning s <| match Cells.find s.calls call with
  | none => .next s
  | some c =>
    if c.relay.isNone && s.executorWaits c.ex then .next s
    else match c.relay, c.result, c.batch with
    | some n, _, _ => .next { s.relayDisp n s.peerAnswer with calls := Cells.drop s.calls call }
    | none, none, _ => .next s
    | none, some r, some (node, i) =>
      let va := s.batchAt node 7 i
      if s.moving c.oid || s.gHeld c.oid va then .next (s.markWaiting (s.gWait c.oid va .store) false)
      else
        let s := s.gStore c.oid va (wordBytes (resultRecord s.tick r))
        .next { s with calls := Cells.drop s.calls call,
                       nodes := Cells.modify s.nodes node fun n =>
                         { n with batch := n.batch - 1, late := n.late || c.ranLong n.dur s.slot } }
    | none, some r, none =>
      match s.coach c.team c.coach with
      | some (_, x) =>
        if x.calls.contains call && !c.lost then .next (s.modCall call fun c => { c with delivered := true })
        else if x.calls.contains call then
          let s := s.modCoach c.team c.coach fun x => x.fillDisp c.token r.1 (dispFault r)
          .next (s.modCall call fun c => { c with result := none })
        else
          let s := s.modCoach c.team c.coach fun x => x.fillDisp c.token r.1 (dispFault r)
          .next (if c.probing then s else { s with calls := Cells.drop s.calls call })
      | none => .next { s with calls := Cells.drop s.calls call }

/-- A call may still be lost: it waits for its reply, unconsumed, or the relay has sent it (R267, R395). -/
def State.callWaits (s : State) (call : Nat) (c : Call) : Bool :=
  !c.lost && (c.relay.isSome || match s.coach c.team c.coach with
    | some (_, x) => x.calls.contains call && !c.delivered
    | none => false)

/-- CALL_LOST (R267, R304, R305, R395): the deadline has passed without a reply. -/
def execCallLost (call : Nat) (s : State) : Host.Outcome State Fault Refusal :=
  whenRunning s <| match Cells.find s.calls call with
  | none => .next s
  | some c =>
    if !s.callWaits call c || s.slot < c.deadline then .next s
    else
      let s1 := s.modCall call fun c => { c with lost := true }
      .next ((match c.relay with
        | some n => s1.relayDisp n (3, 0)
        | none => s1.modCoach c.team c.coach fun x => x.loseToken c.token).countLate c)

/-- What an executor answers to a probe (R268, R354): disposition and fault code. -/
def Executor.answer (e : Executor) (token : Word) : Nat × Word :=
  match e.recent.find? fun p => p.1 = token with
  | none => (5, 0)
  | some (_, none) => (4, 0)
  | some (_, some r) => r

/-- PROBE_ANSWER (R268, R354): the core records the answer; PENDING is no disposition. -/
def execProbeAnswer (call : Nat) (s : State) : Host.Outcome State Fault Refusal :=
  whenRunning s <| match Cells.find s.calls call with
  | none => .next s
  | some c =>
    if !c.probing then .next s
    else
      let a := (Cells.get {} s.executors c.ex).answer c.token
      let s := s.modCall call fun c => { c with probing := false }
      match s.coach c.team c.coach with
      | none => .next { s with calls := Cells.drop s.calls call }
      | some (_, x) =>
        let s := if a.1 = 4 then s else s.modCoach c.team c.coach fun x => x.fillDisp c.token a.1 a.2
        .next (if s.callIdle call && !x.calls.contains call then { s with calls := Cells.drop s.calls call } else s)

end Sys2Proof.Machine
end

