-- ==== Sys2Proof/Machine/Swap.lean ====
section
/-!
DEFINITION. The swap engine (spec/05_memory.md R95; spec/07_ordering.md R119; spec/23_faults.md R322).
-/

namespace Sys2Proof.Machine

/-- Some request, job or dray kernel node holds a snapshot in a page (R95). -/
def State.snapshotHeld (s : State) (oid : Nat) (page : Nat × Nat) : Bool :=
  (s.requests.any fun p => p.2.oid = oid && p.2.pages.any (pagesMeet page))
    || (s.jobs.any fun j => j.oid = oid && !j.done && j.pages.any (pagesMeet page))
    || s.nodes.any fun p => p.2.oid = oid && p.2.admitted.isSome && p.2.eng = 1 && pagesMeet page p.2.region

/-- SWAP_REQUEST (R95): the page that translates `va` is to move to the physical address `pa`, between HBM and host memory
or between two stacks. -/
def execSwapRequest (oid va pa : Nat) (s : State) : Host.Outcome State Fault Refusal :=
  whenRunning s <| match s.walk oid va with
  | .fails _ => .next s
  | .waits ch => .next (s.markWaiting [ch])
  | .leaf e lvl at_ =>
    let size := pageSize lvl
    let old := fld e 16 36 * 2 ^ 16
    let base := va / size * size
    if pa % size = 0 && backed pa size && pa < 2 ^ 52 && stackOf pa ≠ stackOf old
        && !s.swaps.any fun w => w.oid = oid && pagesMeet (w.va, w.size) (base, size) then
      .next { s with
        swaps := s.swaps ++ [{ id := s.fresh, oid := oid, va := base, size := size, leafAt := at_, old := old, new := pa }]
        fresh := s.fresh + 1 }
    else .next s

/-- An access that an instruction has issued waits for a channel of the page at its old place (R341). -/
def State.pageWaits (s : State) (w : Swap) : Bool :=
  s.arrivals.any fun x => (match x.work with | .again _ _ => false | _ => true)
    && decide (w.old ≤ x.a) && decide (x.a < w.old + w.size)

/-- SWAP_BEGIN (R95): no snapshot remains in the page; its translations are held back from now on, and every TLB entry for
it is shot down. The migration fence precedes (R119): no access of the page is still to be performed. -/
def execSwapBegin (swap : Nat) (s : State) : Host.Outcome State Fault Refusal :=
  whenRunning s <| match s.swaps.find? fun w => w.id = swap && !w.begun with
  | none => .next s
  | some w =>
    if s.snapshotHeld w.oid (w.va, w.size) || s.pageWaits w then .next s
    else .next { (s.shootdown w.oid w.va w.size) with
      swaps := s.swaps.map fun (x : Swap) => if x.id = swap then { x with begun := true } else x }

/-- The entries of a table with keys in a range moved to another base; the entries that stood there are lost. -/
def moveCells {α : Type} (c : Cells α) (old new size : Nat) : Cells α :=
  let from_ := c.filter fun p => decide (old ≤ p.1) && decide (p.1 < old + size)
  let rest := c.filter fun p => !(decide (new ≤ p.1) && decide (p.1 < new + size))
  from_.foldl (fun m p => Cells.put m (new + (p.1 - old)) p.2) rest

/-- A page's data moved with its keys (R95). -/
def Storage.movePage (m : Storage) (old new size : Nat) : Storage :=
  { m with bytes := moveCells m.bytes old new size, owner := moveCells m.owner (old / 32) (new / 32) (size / 32),
           stamp := moveCells m.stamp old new size }

/-- The records of stable pages under a page that has moved go with it (R88). -/
def moveStable (c : Cells Nat) (old new size : Nat) : Cells Nat :=
  let page (k : Nat) : Nat := k % 2 ^ 36 * 2 ^ 16
  let inside (k : Nat) : Bool := decide (old ≤ page k) && decide (page k < old + size)
  (c.filter fun p => inside p.1).foldl (fun m p => Cells.put m (p.1 - old / 2 ^ 16 + new / 2 ^ 16) p.2)
    (c.filter fun p => !inside p.1)

/-- A page's data has moved, and with it what names its place: records of stable pages, released values, and the ranges of matrix
jobs and open rendezvous, which take no snapshots (R88, R95, R119). -/
def State.pageMoved (s : State) (old new size : Nat) : State :=
  { s with mem := s.mem.movePage old new size, stable := moveStable s.stable old new size
           jobs := s.jobs.map fun (j : Job) => { j with work := j.work.moved old new size }
           posts := s.posts.map fun (p : Posted) => { p with at_ := { p.at_ with loc := p.at_.loc.moved old new size } }
           teams := s.teams.map fun p => (p.1, { p.2 with rdvs := p.2.rdvs.map (Rendezvous.moved old new size) }) }

/-- HELD_TRANSLATION_RELEASE (R95): the page's data has moved, the new leaf is installed, and the held translations see
the new location. -/
def execHeldTranslationRelease (swap : Nat) (s : State) : Host.Outcome State Fault Refusal :=
  whenRunning s <| match s.swaps.find? fun w => w.id = swap && w.begun with
  | none => .next s
  | some w =>
    if s.channelHeld w.leafAt then .next (s.markWaiting [channelOf w.leafAt])
    else
    let s := s.pageMoved w.old w.new w.size
    let e := leNat (s.readStoN w.oid w.leafAt 8)
    let leaf := fld e 52 12 * 2 ^ 52 + w.new / 2 ^ 16 * 2 ^ 16 + fld e 0 16
    let s := s.writeLocs w.oid (.sto w.leafAt) (leBytes 8 leaf)
    .next { s with swaps := s.swaps.filter fun x => x.id ≠ swap }

end Sys2Proof.Machine
end

