-- ==== Sys2Proof/Machine/Objects.lean ====
section
/-!
DEFINITION. Code objects as the device reads them, and the checks of Celud programs
(spec/29_portable_isa.md R375 to R383; spec/01_execution.md R28; spec/05_memory.md R75, R76; spec/07_ordering.md R122).
-/

namespace Sys2Proof.Machine

/-! ### The header -/

/-- Field `[lo + len - 1 : lo]` of header word `w`. -/
def hfld (h : List DWord) (w lo len : Nat) : Nat := fld (h.getD w 0).toNat lo len

/-- Offset and byte length of the table that header word `w` names, `unit` bytes a unit (R375). -/
def hsec (h : List DWord) (w unit : Nat) : Nat × Nat := (hfld h w 0 32, hfld h w 32 32 * unit)

/-- The sections and tables of an object. -/
def objSections (h : List DWord) : List (Nat × Nat) := [hsec h 5 1, hsec h 6 1, hsec h 7 1, hsec h 8 8, hsec h 9 136]

/-- No two of the ranges overlap, and none the header. -/
def apart : List (Nat × Nat) → Bool
  | [] => true
  | a :: r => (r.all fun b => a.2 = 0 || b.2 = 0 || decide (a.1 + a.2 ≤ b.1) || decide (b.1 + b.2 ≤ a.1)) && apart r

/-- An allotment that R28 admits. -/
def okAllot (a : Nat) : Bool := decide (16 ≤ a) && decide (a ≤ 192) && a % 16 = 0

/-- Contexts of each half that a team can use: context 15 of slot 3 is reserved (R22). -/
def halfContexts (half : Nat) : Nat := if half % 8 = 7 then 7 else 8

/-- Coaches of an allotment that an empty core can hold (R22, R28). -/
def emptyCoaches (allot : Nat) : Nat := ((List.range 8).map fun k => min (halfContexts k) (768 / allot)).sum

/-- The header obeys R375, R28, R75, R76, R122 and, for the code section of a native object, R182. -/
def headerOk (h : List DWord) : Bool :=
  let kind := hfld h 1 62 2
  let nc := hfld h 2 59 5 + 1
  let code := hsec h 5 1
  hfld h 0 32 32 = 0x4C453943 && hfld h 0 16 16 = 1 && hfld h 0 0 16 = 0
    && decide (kind ≤ 1) && decide (1 ≤ hfld h 1 60 2) && okAllot (hfld h 1 49 8)
    && decide (hfld h 1 43 6 ≤ 32) && decide (hfld h 1 35 8 ≤ 128) && decide (hfld h 1 29 6 ≤ 56)
    && decide (hfld h 1 25 4 ≤ 8) && decide (hfld h 1 18 7 ≤ 64) && hfld h 1 0 18 = 0
    && hfld h 2 16 13 = 0 && hfld h 3 48 16 = 0 && hfld h 4 48 16 = 0
    && (objSections h).all (fun x => x.1 % 8 = 0) && apart ((0, 128) :: objSections h)
    && decide (hfld h 9 32 32 ≤ 256)
    && hfld h 10 58 6 = 0 && hfld h 10 14 18 = 0 && decide (hfld h 10 0 14 ≤ 8192) && hfld h 10 0 14 % 4 = 0
    && hfld h 10 32 26 % 4 = 0 && (List.range 5).all (fun i => h.getD (11 + i) 0 = 0)
    && decide (nc ≤ emptyCoaches (hfld h 1 49 8))
    && decide (hfld h 1 35 8 * 4096 + nc * 32 * (hfld h 1 43 6 * 256) ≤ 2 ^ 19)
    && (if kind = 0 then
          hfld h 2 0 16 = 0 && hfld h 10 0 14 = 0 && code.2 % 4 = 0 && decide (8 ≤ code.2) && decide (code.2 ≤ 2 ^ 26)
            && decide (hfld h 10 32 26 < code.2)
        else hfld h 1 59 1 = 0 && hfld h 1 43 6 = 0 && hfld h 10 32 26 = 0 && code.2 % 8 = 0 && code.2 ≠ 0)

/-! ### Tensor templates -/

/-- The reserved bits of an identifier are zero (R135, R375). -/
def tidReservedZero (t : List DWord) : Bool :=
  (t.zipIdx).all fun p => p.1.toNat &&& (2 ^ 64 - 1 - tidMask p.2) = 0

/-- The templates of an object, 17 words each: number and identifier (R376). -/
def templates : Nat → List DWord → List (Nat × List DWord)
  | 0, _ => []
  | n + 1, l => ((l.getD 0 0).toNat, (l.drop 1).take 16) :: templates n (l.drop 17)

/-- Distinct numbers below 256, and every template passes R136 (R376). -/
def templatesOk (ts : List (Nat × List DWord)) : Bool :=
  (ts.map Prod.fst).eraseDups.length = ts.length && ts.all fun t => decide (t.1 < 256) && tidOk t.2 && tidReservedZero t.2

/-- The table of identifiers at launch (R135). -/
def templateCells (ts : List (Nat × List DWord)) : Cells DWord :=
  ts.foldl (fun m t => (t.2.zipIdx).foldl (fun m p => Cells.set 0 m (16 * t.1 + p.2) p.1) m) []

/-! ### Relocation -/

/-- A word whose major, or CTL minor, has an immediate field (R191, R223). -/
def hasImm (w : Word) : Bool := takesImmx 0 w

/-- An IMMX stands at an offset of a code section, before an instruction with an immediate field (R377). -/
def immxAt (code : List Byte) (off : Nat) : Bool :=
  off % 4 = 0 && decide (off + 8 ≤ code.length) && fld (leNat ((code.drop off).take 4)) 24 8 = 0xBE
    && hasImm (BitVec.ofNat 32 (leNat ((code.drop (off + 4)).take 4)))

/-- A relocation entry is well formed and names a dword of its section or an IMMX of a native code section (R377). -/
def relocOk (native : Bool) (code : List Byte) (constLen dataLen : Nat) (e : DWord) : Bool :=
  let n := e.toNat
  let off := fld n 0 32
  fld n 32 28 = 0 && (fld n 60 2 = 1 || fld n 60 2 = 2) && match fld n 62 2 with
    | 0 => decide (off + 8 ≤ constLen)
    | 1 => decide (off + 8 ≤ dataLen)
    | 2 => native && immxAt code off
    | _ => false

/-! ### Celud programs -/

/-- A Celud word with its index and its literal. -/
structure CelWord where
  ix : Nat
  n : Nat
  lit : Option Nat

/-- The words of a program; nothing where a literal is missing at the end (R381). -/
def celWords : Nat → List DWord → Option (List CelWord)
  | _, [] => some []
  | i, w :: rest =>
    if fld w.toNat 48 1 = 0 then (celWords (i + 1) rest).map ({ ix := i, n := w.toNat, lit := none } :: ·)
    else match rest with
      | [] => none
      | l :: rest => (celWords (i + 2) rest).map ({ ix := i, n := w.toNat, lit := some l.toNat } :: ·)

def CelWord.opc (w : CelWord) : Nat := fld w.n 56 8
def CelWord.d (w : CelWord) : Nat := fld w.n 36 12
def CelWord.a (w : CelWord) : Nat := fld w.n 24 12
def CelWord.b (w : CelWord) : Nat := fld w.n 12 12
def CelWord.c (w : CelWord) : Nat := fld w.n 0 12

/-- The OPCs of R382. -/
def celListed (o : Nat) : Bool :=
  (1 ≤ o && o ≤ 4) || (0x10 ≤ o && o ≤ 0x20) || (0x30 ≤ o && o ≤ 0x3A) || (0x40 ≤ o && o ≤ 0x44) || (0x50 ≤ o && o ≤ 0x54)
    || (0x60 ≤ o && o ≤ 0x63) || o = 0x6F

/-- Words that order memory or access it. -/
def celMem (o : Nat) : Bool := 0x50 ≤ o && o ≤ 0x54

/-- SCOPE, ORD, REV and LIT (R381, R382). -/
def CelWord.headOk (w : CelWord) : Bool :=
  let sc := fld w.n 53 3
  let od := fld w.n 51 2
  let rv := fld w.n 49 2
  let ordered := 1 ≤ sc && sc ≤ 6
  let o := w.opc
  celListed o
    && (match o with
      | 0x50 => od ≤ 1 && (if od = 0 then sc = 0 else ordered)
      | 0x51 => (od = 0 || od = 2) && (if od = 0 then sc = 0 else ordered)
      | 0x52 => od = 0 && ordered
      | 0x53 => if od = 0 then sc = 0 else ordered
      | 0x54 => od ≠ 0 && ordered && rv = 0
      | _ => sc = 0 && od = 0 && rv = 0)
    && (match o with
      | 0x01 => w.lit.isNone | 0x02 => w.lit.isNone | 0x03 => w.lit.isNone | 0x54 => w.lit.isNone | 0x60 => w.lit.isNone
      | 0x6F => w.lit.isNone
      | 0x61 => w.lit.isSome | 0x62 => w.lit.isSome | 0x63 => w.lit.isSome
      | _ => true)

/-- The literal replaces register B, or A where the row names no B (R381). -/
def CelWord.replacesB (w : CelWord) : Bool := w.lit.isSome && (celudUses w.opc).2.2.1 && !celMem w.opc
def CelWord.replacesA (w : CelWord) : Bool := w.lit.isSome && (w.opc = 0x04 || w.opc = 0x39 || w.opc = 0x3A)

/-- The register fields: used ones name a register, a replaced one and an unused one as R381 says; and the codes of C. -/
def CelWord.fieldsOk (w : CelWord) : Bool :=
  let u := celudUses w.opc
  let reg (x : Nat) : Bool := x ≠ 4095
  let un (x : Nat) : Bool := x = 0 || x = 4095
  (if u.1 then reg w.d else un w.d)
    && (if w.replacesA then w.a = 4095 else if u.2.1 then reg w.a else un w.a)
    && (if w.replacesB then w.b = 4095 else if u.2.2.1 then reg w.b else un w.b)
    && (match w.opc with
      | 0x01 => w.c ≤ 5
      | 0x1F => reg w.c
      | 0x39 => w.c ≤ 5
      | 0x3A => w.c < 512
      | 0x50 => fld w.c 0 3 ≤ 4 && w.c < 128
      | 0x51 => fld w.c 0 3 ≤ 4 && w.c < 128
      | 0x52 => fld w.c 0 3 ≤ 4 && w.c < 128 && 2 ≤ fld w.c 3 2
      | 0x53 => fld w.c 0 3 ≤ 4 && fld w.c 3 2 = 0 && w.c < 1024
      | _ => un w.c)

/-- The types of the registers of a word (R380, R382): i32 0, i64 1, f32 2, h2 3, b2 4, pred 5. -/
def CelWord.typesOk (ty : Cells Nat) (w : CelWord) : Bool :=
  let t (x : Nat) : Nat := Cells.get 99 ty x
  let is (x k : Nat) : Bool := t x = k
  let a (k : Nat) : Bool := w.replacesA || is w.a k
  let b (k : Nat) : Bool := w.replacesB || is w.b k
  let bits32 (k : Nat) : Bool := k = 0 || k = 2 || k = 3 || k = 4
  let addr : Bool := is w.a (if fld w.c 0 3 = 4 then 1 else 0)
  let sized (x : Nat) : Bool := if fld w.c 3 2 = 3 then is x 1 else bits32 (t x)
  let o := w.opc
  match o with
  | 0x02 => is w.d 0 | 0x03 => is w.d 0
  | 0x04 => t w.d ≤ 5 && (w.replacesA || t w.a = t w.d)
  | 0x1C => is w.d 5 && a 0 && b 0 | 0x1D => is w.d 5 && a 0 && b 0 | 0x1E => is w.d 5 && a 0 && b 0
  | 0x1F => is w.c 5 && t w.d ≤ 5 && t w.a = t w.d && (w.replacesB || t w.b = t w.d)
  | 0x20 => is w.d 1 && a 1 && b 1
  | 0x36 => is w.d 5 && a 2 && b 2 | 0x37 => is w.d 5 && a 2 && b 2 | 0x38 => is w.d 5 && a 2 && b 2
  | 0x39 => is w.d 2 && a 2
  | 0x3A => bits32 (t w.d) && (w.replacesA || bits32 (t w.a))
  | 0x40 => is w.d 3 && a 3 && b 3 | 0x41 => is w.d 3 && a 3 && b 3
  | 0x42 => is w.d 4 && a 4 && b 4 | 0x43 => is w.d 4 && a 4 && b 4
  | 0x44 => is w.d 2 && a 3 && b 3
  | 0x50 => addr && sized w.d | 0x51 => addr && sized w.b | 0x52 => addr && sized w.d
  | 0x53 => addr && is w.d 0 && is w.b 0
  | 0x62 => is w.a 5 || is w.a 0 | 0x63 => is w.a 5 || is w.a 0
  | 0x54 => true | 0x60 => true | 0x61 => true | 0x6F => true
  | _ => if o ≤ 0x1B then is w.d 0 && a 0 && b 0 else is w.d 2 && a 2 && b 2

/-- Declarations stand before uses, each once, and every word's types fit (R380 to R382). -/
def celTyped : Cells Nat → List CelWord → Bool
  | _, [] => true
  | ty, w :: rest =>
    if w.opc = 0x01 then (Cells.find ty w.d).isNone && celTyped (Cells.put ty w.d w.c) rest
    else w.typesOk ty && celTyped ty rest

/-- The region of a word: how many bars stand before it; none for a bar (R378). -/
def celRegion (ws : List CelWord) (ix : Nat) : Option Nat :=
  match ws.find? fun w => w.ix = ix with
  | some w => if w.opc = 0x60 then none else some (ws.filter fun x => x.opc = 0x60 && decide (x.ix < ix)).length
  | none => none

/-- A target is an instruction word, of the same region except for jmp (R381). -/
def CelWord.targetOk (ws : List CelWord) (w : CelWord) : Bool :=
  match w.lit with
  | none => true
  | some t =>
    if w.opc = 0x61 then ws.any fun x => x.ix = t
    else if w.opc = 0x62 || w.opc = 0x63 then (celRegion ws t).isSome && celRegion ws t = celRegion ws w.ix
    else true

/-- The words of a Celud object obey R380 to R382 (R384). -/
def celudValid (words : List DWord) : Bool :=
  match celWords 0 words with
  | none => false
  | some ws => ws.all (fun w => w.headOk && w.fieldsOk && w.targetOk ws) && celTyped [] ws

/-! ### Reading an object -/

/-- Stages of the coaches (R375). -/
def stagesOf (h : List DWord) : List Nat := (List.range 32).map fun c => hfld h (3 + c / 16) (3 * (c % 16)) 3

/-- The object at an address under an owner, read where it stands (R375): nothing where it cannot be read or is invalid
(R296, R375 to R377); with its sections and its relocation table. -/
def State.readObject (s : State) (oid at_ : Nat) : Option (Object × (List Byte × List Byte × List Byte) × List DWord) := do
  let hb ← s.gBytes oid at_ 128
  let h := bytesDWords hb
  if !headerOk h then none
  let get (w unit : Nat) : Option (List Byte) := let x := hsec h w unit; s.gBytes oid (at_ + x.1) x.2
  let code ← get 5 1
  let cst ← get 6 1
  let dat ← get 7 1
  let rel ← get 8 8
  let tpl ← get 9 136
  let ts := templates (hfld h 9 32 32) (bytesDWords tpl)
  let native := hfld h 1 62 2 = 0
  if !templatesOk ts || !(bytesDWords rel).all (relocOk native code cst.length dat.length) then none
  let o : Object :=
    { celud := !native, rev := hfld h 1 60 2, compat := hfld h 1 59 1 = 1, envu := hfld h 1 58 1 = 1,
      accu := hfld h 1 57 1 = 1, allot := hfld h 1 49 8, lssz := hfld h 1 43 6, spsz := hfld h 1 35 8,
      ocsz := hfld h 1 29 6, cgsz := hfld h 1 25 4, tagn := hfld h 1 18 7, nc := hfld h 2 59 5 + 1,
      gx := hfld h 2 49 10 + 1, gy := hfld h 2 39 10 + 1, gz := hfld h 2 29 10 + 1,
      threads := if native then 0 else hfld h 2 0 16 + 1, stages := stagesOf h, code := at_ + (hsec h 5 1).1,
      codeLen := code.length, entry := hfld h 10 32 26, cslice := hfld h 10 0 14, tids := templateCells ts,
      words := if native then [] else bytesDWords code }
  pure (o, (code, cst, dat), bytesDWords rel)

end Sys2Proof.Machine
end

