-- ==== Sys2Proof/Machine/Dzitum.lean ====
section
/-!
DEFINITION. What the Dzitum translator may make of a Celud program (spec/29_portable_isa.md R382 to R387): native words
grouped into runs, long results posted to await slots and awaited before they are read, registers in their places, and
LDC results reloaded with LDC. The choice of words, registers and runs is the translator's (log entry 21).
-/

namespace Sys2Proof.Machine

/-! ### Runs of native words -/

/-- A native word with its offset and the IMMX before it. -/
structure NatWord where
  pc : Nat
  n : Nat
  pre : Option Nat := none

/-- A run (R175): the offset of its first word, its instructions, the offset of its trailer and the trailer's masks. -/
structure NatRun where
  pc : Nat
  words : List NatWord
  stop : Nat
  post : Nat
  wait : Nat

/-- The words of a code section grouped into runs, from offset `pc` in the run begun at `start` (R152); nothing where a run
is empty, an IMMX stands last in one, or the section ends without a trailer. -/
def natRuns : Nat → Nat → Option Nat → List NatWord → List Word → Option (List NatRun)
  | _, _, pre, acc, [] => if acc.isEmpty && pre.isNone then some [] else none
  | pc, start, pre, acc, w :: rest =>
    let n := w.toNat
    if isTrailer w then
      if acc.isEmpty || pre.isSome then none
      else (natRuns (pc + 4) (pc + 4) none [] rest).map
        ({ pc := start, words := acc.reverse, stop := pc, post := fld n 16 8, wait := fld n 8 8 } :: ·)
    else if fld n 24 8 = 0xBE then
      if pre.isSome then none else natRuns (pc + 4) start (some (fld n 0 24)) acc rest
    else natRuns (pc + 4) start none ({ pc := pc, n := n, pre := pre } :: acc) rest

def NatWord.lane (x : NatWord) : Bool := fld x.n 31 1 = 0
def NatWord.major (x : NatWord) : Nat := fld x.n 24 6
def NatWord.d (x : NatWord) : Nat := fld x.n 16 8
def NatWord.a (x : NatWord) : Nat := fld x.n 8 8
def NatWord.b (x : NatWord) : Nat := fld x.n 0 8

/-- A lane access of memory by the MEM formats: LS, LSO, LDC or an atomic. -/
def NatWord.mem (x : NatWord) : Bool := x.lane && decide (0x35 ≤ x.major) && decide (x.major ≤ 0x39)

/-- The space of a MEM word (R169). -/
def NatWord.space (x : NatWord) : Nat := spaceOfWh (fld x.n 5 3)

/-- A conditional or unconditional branch: its target, and whether it may fall through (R171, R187). -/
def NatWord.branch (x : NatWord) : Option (Int × Bool) :=
  let off (w : Nat) : Int := match x.pre with
    | some p => sext (24 + w) (p * 2 ^ w + fld x.n 0 w)
    | none => sext w (fld x.n 0 w)
  if x.lane then (if x.major = 0x33 || x.major = 0x34 then some (x.pc + 4 * off 16, true) else none)
  else if x.major = 0x1B || x.major = 0x1C then some (x.pc + 4 * off 16, true)
  else if x.major = 0x1F && fld x.n 18 6 = 0 then some (x.pc + 4 * off 18, false)
  else none

def NatWord.isEnd (x : NatWord) : Bool := !x.lane && x.major = 0x1F && fld x.n 18 6 = 5
def NatWord.isFence (x : NatWord) : Bool := !x.lane && x.major = 0x1F && fld x.n 18 6 = 10
def NatWord.isBarsync (x : NatWord) : Bool := !x.lane && x.major = 0x21 && fld x.n 18 6 = 1
def NatWord.isLdc (x : NatWord) : Bool := x.lane && x.major = 0x37

/-- An instruction that closes its run (R175). -/
def NatWord.closes (x : NatWord) : Bool := x.branch.isSome || x.isEnd || x.isBarsync

/-- The instructions that R382 lowers to, and those of the uniform pipe that count copies and select lanes (R385). -/
def NatWord.lowered (x : NatWord) : Bool :=
  let m := x.major
  let within (lo hi : Nat) : Bool := decide (lo ≤ m) && decide (m ≤ hi)
  (decode (BitVec.ofNat 32 x.n)).isSome
    && (if x.lane then within 0x01 0x11 || within 0x19 0x29 || within 0x2B 0x2D || within 0x32 0x39
        else within 0x01 0x1D || m = 0x20 || x.closes || x.isFence)
    && (x.pre.isNone || takesImmx (BitVec.ofNat 24 (x.pre.getD 0)) (BitVec.ofNat 32 x.n))

/-- Registers from `r` on. -/
def block (r k : Nat) : List Nat := (List.range k).map (r + ·)

/-- Registers that a MEM word moves: 4 bytes each. -/
def NatWord.width (x : NatWord) : Nat :=
  match x.major with
  | 0x35 => if fld x.n 0 3 = 3 then 2 else if fld x.n 0 3 = 4 then 4 else 1
  | 0x38 => 1 | 0x39 => 1
  | _ => if fld x.n 3 1 = 1 then 2 else 1

/-- A MEM word that stores and returns nothing. -/
def NatWord.isStore (x : NatWord) : Bool := (x.major = 0x35 && fld x.n 4 1 = 1) || (x.major = 0x36 && fld x.n 4 1 = 1)

/-- A MEM word whose address is the offset alone. -/
def NatWord.absolute (x : NatWord) : Bool := x.major = 0x35 && fld x.n 3 1 = 1

/-- Address registers of a MEM word: a pair for GLOBAL. -/
def NatWord.base (x : NatWord) : List Nat :=
  if x.absolute then []
  else block (if x.major = 0x38 || x.major = 0x39 then fld x.n 10 8 else x.a) (if x.space = spaceGlobal then 2 else 1)

/-- The data registers of a MEM word; CAS takes a pair. -/
def NatWord.data (x : NatWord) : List Nat :=
  if x.major = 0x38 || x.major = 0x39 then block (fld x.n 18 6) (if x.major = 0x39 && fld x.n 8 2 = 3 then 2 else 1)
  else block x.d x.width

/-- The register key of a lane field: V0 to V191, S0 to S55 from 192 on, T0 to T7 from 300 on (R170). -/
def natKey (r : Nat) : Nat := if r < 248 then r else 300 + (r - 248)

/-- The register of a CTRL word in the R sub-form (R168). -/
def NatWord.reg (x : NatWord) : Nat := fld x.n 10 8

/-- Registers that a uniform word reads: V0 to V191, S0 to S63 from 192 on (R170, R192 to R201, R208). -/
def NatWord.uniReads (x : NatWord) : List Nat :=
  match x.major with
  | 0x13 => [x.d, x.a, x.b] | 0x14 => [x.a, x.a + 1, x.b] | 0x19 => [x.a, x.a + 1]
  | 0x15 => [x.a] | 0x16 => [x.a] | 0x17 => [x.a] | 0x18 => [x.a]
  | 0x1B => [x.d] | 0x1C => [x.d]
  | 0x1A => [] | 0x1D => []
  | 0x20 => if fld x.n 18 6 = 1 || fld x.n 18 6 = 9 then [x.reg] else []
  | m => if 1 ≤ m && m ≤ 0x12 then [x.a, x.b] else []

/-- A system register of 64 bits is read into a pair (R214, R215). -/
def srPair (n : Nat) : Bool := n = 8 || n = 0x10 || n = 0x11

/-- Registers that a uniform word writes. -/
def NatWord.uniWrites (x : NatWord) : List Nat :=
  match x.major with
  | 0x14 => [x.d, x.d + 1] | 0x19 => [x.d, x.d + 1]
  | 0x1B => [] | 0x1C => []
  | 0x1D => if srPair (fld x.n 0 16) then [x.d, x.d + 1] else [x.d]
  | 0x20 => if fld x.n 18 6 = 0 || fld x.n 18 6 = 8 || fld x.n 18 6 = 10 then [x.reg] else []
  | m => if 1 ≤ m && m ≤ 0x1A then [x.d] else []

/-- Registers read. -/
def NatWord.reads (x : NatWord) : List Nat :=
  if !x.lane then x.uniReads
  else List.map natKey <| if x.mem then
    x.base ++ if x.isStore || x.major = 0x38 || x.major = 0x39 then x.data else []
  else match x.major with
    | 0x11 => [x.d, x.a, x.b] | 0x1C => [x.d, x.a, x.b] | 0x23 => [x.d, x.a, x.b] | 0x25 => [x.d, x.a, x.b]
    | 0x32 => []
    | 0x33 => [x.d] | 0x34 => [x.d]
    | m => if m < 0x26 then [x.a, x.b] else [x.a]

/-- Registers written: an atomic writes the first of its data registers. -/
def NatWord.writes (x : NatWord) : List Nat :=
  if !x.lane then x.uniWrites
  else List.map natKey <| if x.mem then (if x.isStore then [] else if x.major = 0x38 || x.major = 0x39 then x.data.take 1 else x.data)
  else if x.major = 0x33 || x.major = 0x34 then []
  else [x.d]

/-- The result is long (R177). -/
def NatWord.long (x : NatWord) : Bool := x.lane && ((x.mem && !x.isStore) || x.major = 0x2B)

/-- The fields of a uniform word that name pairs (R198, R214). -/
def NatWord.uniPairs (x : NatWord) : List Nat :=
  if x.lane then []
  else match x.major with
    | 0x14 => [x.d, x.a] | 0x19 => [x.d, x.a]
    | 0x1D => if srPair (fld x.n 0 16) then [x.d] else []
    | _ => []

/-- Every V register lies below the allotment, a pair or block begins at a multiple of its size, and no lane word writes an S
register (R170, R386). -/
def NatWord.regsOk (x : NatWord) (allot : Nat) : Bool :=
  (x.reads ++ x.writes).all (fun r => decide (r < allot) || decide (192 ≤ r))
    && (!x.lane || x.writes.all fun r => decide (r < 192) || decide (300 ≤ r))
    && x.uniPairs.all (fun r => r % 2 = 0)
    && (!x.mem || (x.data.headD 0 % max 1 x.data.length = 0 && x.base.headD 0 % max 1 x.base.length = 0))

/-! ### The flow of long results and of taint -/

/-- What holds where a run begins, on some path: for each register with a long result that has not been observed, the await
slots that cover it (R178); and which registers and spilled words hold LDC taint (R112). Spilled words have the keys 1000 + word
number, one stored through a register the key 999. -/
structure Flow where
  late : Cells Nat := []
  taint : Cells Bool := []
deriving DecidableEq

/-- The keys of the words of the spill area that a MEM word accesses. -/
def NatWord.cells (x : NatWord) : List Nat :=
  if x.absolute then (List.range x.width).map fun i => 1000 + x.pre.getD 0 / 4 + i else [999]

/-- A MEM word moves a register to or from the spill area: a LANE access that is no memory word of the program (R386). -/
def NatWord.spills (x : NatWord) (points : List Nat) : Bool := x.mem && x.space = spaceLane && !points.contains x.pc

/-- The flow after a word. -/
def Flow.word (points : List Nat) (f : Flow) (x : NatWord) : Flow :=
  let tainted := x.isLdc || x.reads.any fun r => Cells.get false f.taint r
  let f := x.writes.foldl (fun f r => { late := Cells.set 256 f.late r (if x.long then 0 else 256),
                                        taint := Cells.set false f.taint r tainted }) f
  if x.spills points && x.isStore then
    let t := x.data.any fun r => Cells.get false f.taint r
    x.cells.foldl (fun f k => { f with taint := Cells.set false f.taint k (t || (k = 999 && Cells.get false f.taint k)) }) f
  else f

/-- A word may stand where the flow is `f` and the run has written the T registers `ts`: it neither reads nor writes a
register whose long result has not been observed (R177), reads T registers of its own run only (R176), and reloads what LDC
has returned only with LDC (R387). -/
def Flow.allows (points ts : List Nat) (f : Flow) (x : NatWord) : Bool :=
  (x.reads ++ x.writes).all (fun r => Cells.get 256 f.late r = 256)
    && x.reads.all (fun r => decide (r < 300) || ts.contains r)
    && (!x.spills points || x.isStore || x.isLdc
        || (if x.absolute then (999 :: x.cells).all fun k => !Cells.get false f.taint k
            else f.taint.all fun p => decide (p.1 < 999)))

/-- The words of a run one after another: whether each may stand, and the flow before the trailer. -/
def Flow.run (points : List Nat) : List Nat → Flow → List NatWord → Bool × Flow
  | _, f, [] => (true, f)
  | ts, f, x :: rest =>
    let r := Flow.run points (x.writes ++ ts) (f.word points x) rest
    (f.allows points ts x && r.1, r.2)

/-- A trailer posts its slots, which then cover every earlier result, and its wait mask observes what a slot it names
covers (R178, R179). -/
def Flow.trailer (f : Flow) (post wait : Nat) : Flow :=
  { f with late := (f.late.map fun p => (p.1, p.2 ||| post)).filter fun p => p.2 &&& wait = 0 }

/-- What holds where two paths meet. -/
def Flow.join (a b : Flow) : Flow :=
  { late := b.late.foldl (fun m p => Cells.put m p.1 (match Cells.find m p.1 with | some x => x &&& p.2 | none => p.2)) a.late,
    taint := b.taint.foldl (fun m p => Cells.put m p.1 p.2) a.taint }

/-- Where a run leads: targets and the word after its trailer. -/
def NatRun.next (r : NatRun) : List Int :=
  match r.words.getLast? with
  | none => []
  | some x => match x.branch with
    | some (t, falls) => t :: if falls then [(r.stop + 4 : Int)] else []
    | none => if x.isEnd then [] else [(r.stop + 4 : Int)]

/-- The flow at the beginning of each run, after one more pass over all of them. -/
def flowPass (points : List Nat) (runs : List NatRun) (m : Cells Flow) : Cells Flow :=
  runs.foldl (fun m r => match Cells.find m r.pc with
    | none => m
    | some f =>
      let out := (Flow.run points [] f r.words).2.trailer r.post r.wait
      r.next.foldl (fun m t => Cells.put m t.toNat (match Cells.find m t.toNat with | some g => g.join out | none => out)) m) m

/-- Passes until nothing changes. -/
def flowFix (points : List Nat) (runs : List NatRun) : Nat → Cells Flow → Cells Flow
  | 0, m => m
  | fuel + 1, m => let n := flowPass points runs m; if n = m then m else flowFix points runs fuel n

/-- The runs are closed only by their last instruction, hold at most 24 words and lead to runs (R152, R175). -/
def runsOk (runs : List NatRun) (allot : Nat) : Bool :=
  runs.all fun r => decide (r.stop ≤ r.pc + 96) && r.words.all (fun x => x.lowered && x.regsOk allot)
    && r.words.dropLast.all (fun x => !x.closes) && r.next.all fun t => runs.any fun q => (q.pc : Int) = t

/-- Every run may stand where its flow is a fixed point: long results are posted and awaited before use, and none is left
without a slot where lanes end (R387). -/
def flowsOk (points : List Nat) (runs : List NatRun) : Bool :=
  let m := flowFix points runs (16 * runs.length * 256) [(0, {})]
  flowPass points runs m = m && runs.all fun r => match Cells.find m r.pc with
    | none => true
    | some f =>
      let q := Flow.run points [] f r.words
      q.1 && (!r.words.any NatWord.isEnd || (q.2.trailer r.post r.wait).late.all fun p => p.2 ≠ 0)

/-! ### Memory words -/

def CelWord.scope (w : CelWord) : Nat := fld w.n 53 3
def CelWord.ord (w : CelWord) : Nat := fld w.n 51 2
def CelWord.rev (w : CelWord) : Nat := fld w.n 49 2
def CelWord.size (w : CelWord) : Nat := fld w.c 3 2

/-- The native word that a memory word is lowered to (R382). -/
def CelWord.lowersTo (w : CelWord) (x : NatWord) : Bool :=
  let wide := decide (2 ≤ w.size)
  let sc (n : Nat) : Bool := fld x.n 0 3 = n
  x.mem && x.space = fld w.c 0 3 + 1 && match w.opc with
    | 0x50 => if w.ord = 0 || !wide then x.major = 0x35 && !x.isStore && sc w.size
        else x.major = 0x36 && fld x.n 3 2 = w.size - 2 && sc w.scope
    | 0x51 => if w.ord = 0 || !wide then x.major = 0x35 && x.isStore && sc w.size
        else x.major = 0x36 && fld x.n 3 2 = w.size && sc w.scope
    | 0x52 => x.major = 0x37 && fld x.n 3 2 = w.size - 2 && sc w.scope
    | 0x53 => x.major = 0x38 + fld w.c 9 1 && fld x.n 8 2 = fld w.c 7 2 && fld x.n 3 2 = w.ord && (w.ord = 0 || sc w.scope)
    | _ => false

/-- The fences that a word needs beside its access: kind, scope, and whether they stand before it (R382). -/
def CelWord.fences (w : CelWord) : List (Nat × Nat × Bool) :=
  (if w.opc = 0x54 then [(w.ord, w.scope, false)] else [])
    ++ (if w.opc = 0x50 && w.ord ≠ 0 && w.size < 2 then [(w.ord, w.scope, false)] else [])
    ++ (if w.opc = 0x51 && w.ord ≠ 0 && w.size < 2 then [(w.ord, w.scope, true)] else [])
    ++ match w.rev with | 1 => [(3, 2, false)] | 2 => [(3, 5, false)] | _ => []

/-- The types that a program declares, by register (R380). -/
def celTypes (ws : List CelWord) : Cells Nat :=
  (ws.filter fun w => w.opc = 0x01).foldl (fun m w => Cells.put m w.d w.c) []

/-- The 4-byte units of a place: V registers, then S registers, then spilled words. -/
def Place.units (two : Bool) : Place → List Nat
  | .v n => block n (if two then 2 else 1)
  | .s n => block (192 + n) (if two then 2 else 1)
  | .spill off => block (1000 + off / 4) (if two then 2 else 1)

/-- A place may hold a value: V below the allotment and an even pair for i64; S0 to S55; an aligned word of the spill area
(R386). -/
def Place.ok (allot spill : Nat) (two : Bool) : Place → Bool
  | .v n => decide (n + (if two then 2 else 1) ≤ allot) && (!two || n % 2 = 0)
  | .s n => decide (n + (if two then 2 else 1) ≤ 56) && (!two || n % 2 = 0)
  | .spill off => off % 4 = 0 && decide (off + (if two then 8 else 4) ≤ spill)

/-- The registers that a word reads (R381, R382). -/
def CelWord.sources (w : CelWord) : List Nat :=
  let u := celudUses w.opc
  (if u.2.1 && w.a ≠ 4095 then [w.a] else []) ++ (if u.2.2.1 && w.b ≠ 4095 then [w.b] else [])
    ++ (if w.opc = 0x1F then [w.c] else [])
    ++ if w.opc = 0x33 || w.opc = 0x41 || w.opc = 0x43 || w.opc = 0x44 then [w.d] else []

/-- The registers that may differ among threads, after one more pass: those that a word writes from the thread index, from
memory or from another such register, or in a region in which threads may branch differently. -/
def varyPass (ws : List CelWord) (v : List Nat) : List Nat :=
  let region (w : CelWord) : Nat := (ws.filter fun x => x.opc = 0x60 && decide (x.ix < w.ix)).length
  let split (r : Nat) : Bool := ws.any fun w => (w.opc = 0x62 || w.opc = 0x63) && region w = r && v.contains w.a
  ws.foldl (fun v w =>
    if (celudUses w.opc).1 && w.opc ≠ 0x01 && !v.contains w.d
        && (w.opc = 0x02 || (0x50 ≤ w.opc && w.opc ≤ 0x53) || (w.sources.any fun r => v.contains r) || split (region w)) then
      w.d :: v
    else v) v

/-- Passes until nothing is added. -/
def varyFix (ws : List CelWord) : Nat → List Nat → List Nat
  | 0, v => v
  | fuel + 1, v => let u := varyPass ws v; if u.length = v.length then v else varyFix ws fuel u

/-- The registers whose values the translator cannot prove equal in every thread. DESIGN CHOICE (log entry 21): what it can
prove. -/
def celVarying (ws : List CelWord) : List Nat := varyFix ws (ws.length + 1) []

/-- The places of the live registers at a point: each in its own, each copy once; an S register may serve every copy of a
register that is equal in all threads, and none of another (R386). -/
def Point.placesOk (ty : Cells Nat) (varying : List Nat) (allot spill copies : Nat) (p : Point) : Bool :=
  let two (r : Nat) : Bool := Cells.get 0 ty r = 1
  (p.live.all fun q => (Cells.find ty q.1).isSome && decide (q.2.1 < copies) && Place.ok allot spill (two q.1) q.2.2
      && match q.2.2 with | .s _ => !varying.contains q.1 | _ => true)
    && (p.live.map fun q => (q.1, q.2.1)).eraseDups.length = p.live.length
    && (p.live.zipIdx).all fun a => (p.live.zipIdx).all fun b => a.2 = b.2
      || (match a.1.2.2 with | .s _ => a.1.1 = b.1.1 && a.1.2.2 = b.1.2.2 | _ => false)
      || (Place.units (two a.1.1) a.1.2.2).all fun u => !(Place.units (two b.1.1) b.1.2.2).contains u

/-- The end of the spill area that a word needs. -/
def NatWord.spillEnd (x : NatWord) (points : List Nat) : Nat :=
  if x.spills points && x.absolute then x.pre.getD 0 + 4 * x.width else 0

/-- The end of the spill area that the places of a point need. -/
def Point.spillEnd (ty : Cells Nat) (p : Point) : Nat :=
  p.live.foldl (fun m q => match q.2.2 with
    | .spill off => max m (off + if Cells.get 0 ty q.1 = 1 then 8 else 4)
    | _ => m) 0

/-- Bytes of all registers of all copies: the most that any point needs to spill. -/
def spillMost (ty : Cells Nat) (copies : Nat) : Nat := copies * (ty.map fun p => if p.2 = 1 then 8 else 4).sum

/-- SP is the largest spill area that any point needs; what accesses through registers need, the translator knows, and it is no
more than all values together (R386). -/
def spillOk (runs : List NatRun) (ty : Cells Nat) (copies : Nat) (tr : Translation) : Bool :=
  let points := tr.points.map Point.pc
  let ws := runs.flatMap NatRun.words
  let need := max (ws.foldl (fun m x => max m (x.spillEnd points)) 0) (tr.points.foldl (fun m p => max m (Point.spillEnd ty p)) 0)
  tr.spill % 4 = 0 && (tr.spill = need
    || (decide (need ≤ tr.spill) && decide (tr.spill ≤ max need (spillMost ty copies))
      && ws.any fun x => x.spills points && !x.absolute))

/-- What kind of instruction a native word is, for the lowering of R382: an immediate form, and the uniform form that computes a
value which is equal in every thread (R386), count as the register form of the lane pipe. -/
def NatWord.kind (x : NatWord) : Nat :=
  if x.lane then
    match x.major with
    | 0x26 => 0x01 | 0x27 => 0x08 | 0x28 => 0x09 | 0x29 => 0x0B + fld x.n 6 2
    | 0x2B => 0x1000 + x.b | 0x2C => 0x2000 + x.b | 0x2D => 0x3000 + x.b
    | m => m
  else if x.isEnd then 0x80 else if x.isBarsync then 0x81
  else match x.major with
    | 0x1F => if fld x.n 18 6 = 0 then 0x82 else 0
    | 0x1D => 0x83
    | 0x0E => 0x06 | 0x0F => 0x07 | 0x10 => 0x0E | 0x11 => 0x0F | 0x12 => 0x10 | 0x13 => 0x11
    | 0x15 => 0x01 | 0x16 => 0x08 | 0x17 => 0x09 | 0x18 => 0x0B + fld x.n 6 2 | 0x1A => 0x32
    | m => if (1 ≤ m && m ≤ 5) || (8 ≤ m && m ≤ 0x0D) then m else 0

/-- The kinds of the native words that a word is lowered to, but for the accesses and fences of memory words (R382); `two`
says that its value takes two registers. -/
def CelWord.kinds (two : Bool) (w : CelWord) : List Nat :=
  let each (l : List Nat) : List Nat := if two then l ++ l else l
  match w.opc with
  | 0x02 => [0x83, 0x01] | 0x03 => [0x32]
  | 0x04 => each [if w.lit.isSome then 0x32 else 0x09]
  | 0x1F => each [0x09, 0x11, 0x09]
  | 0x20 => [0x01, 0x10, 0x01, 0x01, 0x09]
  | 0x39 => [0x1000 + w.c]
  | 0x3A => [(if 256 ≤ w.c then 0x3000 else 0x2000) + w.c % 256]
  | 0x44 => [0x2002, 0x2002, 0x1C, 0x0C, 0x0C, 0x2002, 0x2002, 0x1C]
  | 0x60 => [0x81] | 0x61 => [0x82] | 0x62 => [0x33] | 0x63 => [0x34]
  | o =>
    if 0x10 ≤ o && o ≤ 0x1B then [[0x01, 0x02, 0x03, 0x04, 0x06, 0x07, 0x08, 0x09, 0x0A, 0x0B, 0x0C, 0x0D].getD (o - 0x10) 0]
    else if 0x1C ≤ o && o ≤ 0x1E then [o - 0x1C + 0x0E]
    else if 0x30 ≤ o && o ≤ 0x38 then [o - 0x30 + 0x19]
    else if 0x40 ≤ o && o ≤ 0x43 then [o - 0x40 + 0x22]
    else []

/-- The native words of every kind are at least those that the words of the program are lowered to, and lanes end in END
(R382). -/
def kindsLowered (ty : Cells Nat) (ws : List CelWord) (xs : List NatWord) : Bool :=
  let need := ws.flatMap fun w => w.kinds (Cells.get 0 ty w.d = 1)
  let have_ := xs.map NatWord.kind
  need.all (fun k => decide (need.count k ≤ have_.count k)) && (!ws.any (fun w => w.opc = 0x6F) || have_.contains 0x80)

/-- The words of a program stand in its translation, each memory word once for each copy or once for all (R382, R385). -/
def wordsLowered (ty : Cells Nat) (ws : List CelWord) (xs : List NatWord) (nc copies : Nat) (points : List Point) : Bool :=
  let isFence (k sc : Nat) (x : NatWord) : Bool := x.isFence && fld x.n 3 2 = k && fld x.n 0 3 = sc
  kindsLowered ty ws xs
    && points.all (fun p => (match p.copy with | some k => decide (k < copies) | none => true)
      && ws.any fun w => w.ix = p.word && xs.any fun x => x.pc = p.pc && w.lowersTo x)
    && ws.all (fun w => !(0x50 ≤ w.opc && w.opc ≤ 0x53)
      || (List.range copies).all fun k => (points.filter fun p => p.serves w.ix k).length = 1)
    && ws.all (fun w => w.fences.all fun f =>
        if w.opc = 0x54 then xs.any (isFence f.1 f.2.1)
        else points.all fun p => p.word ≠ w.ix
          || xs.any fun x => isFence f.1 f.2.1 x && (if f.2.2 then decide (x.pc < p.pc) else decide (p.pc < x.pc)))
    && (!ws.any (fun w => w.opc = 0x60) || xs.any fun x => x.isBarsync && fld x.n 0 4 = 0 && fld x.n 9 1 = 1 && fld x.n 4 5 + 1 = nc)

/-- The translator may make `tr` of a valid Celud object (R382 to R387). -/
def Object.mayBe (o : Object) (tr : Translation) : Bool :=
  match celWords 0 o.words, natRuns 0 0 none [] tr.code with
  | some ws, some runs =>
    let ty := celTypes ws
    let points := tr.points.map Point.pc
    let copies := ceilDiv o.threads (32 * o.nc)
    !runs.isEmpty && runsOk runs o.allot && flowsOk points runs
      && wordsLowered ty ws (runs.flatMap NatRun.words) o.nc copies tr.points
      && tr.points.all (Point.placesOk ty (celVarying ws) o.allot tr.spill copies) && spillOk runs ty copies tr
  | _, _ => false

/-- The object with its translation: the slices of its lanes hold the spill area and CSLICE (R383); nothing where they do
not fit (R75, R76). -/
def Object.translated (o : Object) (tr : Translation) : Option Object :=
  let lssz := ceilDiv (tr.spill + o.cslice) 256
  if lssz ≤ 32 && o.spsz * 4096 + o.nc * 32 * (lssz * 256) ≤ 2 ^ 19 then some { o with lssz := lssz, native := tr } else none

end Sys2Proof.Machine
end

