-- ==== Sys2Proof/Machine/Transcend.lean ====
section
/-!
DEFINITION. The special functions (spec/15_instr_lane.md R235, spec/09_formats.md R141, R142), correctly rounded. Each is
computed in fixed point with 320 fraction bits; where the exact value is not of the form k/2^j the computed quotient ends
in a sticky bit, so that the one rounding sees a value between the neighbouring representable ones (log entry 29).
-/

namespace Sys2Proof.Machine

/-- Fraction bits of the fixed-point values. -/
def fx : Nat := 320

/-- ⌊π · 2^fx⌋. -/
def piFx : Nat := 0x3243f6a8885a308d313198a2e03707344a4093822299f31d0082efa98ec4e6c89452821e638d01377

/-- ⌊ln 2 · 2^fx⌋. -/
def ln2Fx : Nat := 0xb17217f7d1cf79abc9e3b39803f2f6af40f343267298b62d8a0d175b8baafa2be7b876206debac98

/-- Product of two fixed-point values. -/
def mulFx (a b : Nat) : Nat := a * b / 2 ^ fx

/-- Σ yᵏ/k! for k from `k` on, `t` being the term of index `k - 1`; `n` terms. -/
def expFx (y : Nat) : Nat → Nat → Nat → Nat
  | 0, _, _ => 0
  | n + 1, k, t => let t' := mulFx t y / k; t' + expFx y n (k + 1) t'

/-- e^y for y in [0, 1). -/
def expOf (y : Nat) : Nat := 2 ^ fx + expFx y 90 1 (2 ^ fx)

/-- Σ t^(2j+1)/(2j+1) for odd exponents from `k` on, `p` being t^k; `n` terms. -/
def atanhFx (t2 : Nat) : Nat → Nat → Nat → Nat
  | 0, _, _ => 0
  | n + 1, k, p => p / k + atanhFx t2 n (k + 2) (mulFx p t2)

/-- ln z for the fixed-point z in [1, 2). -/
def lnOf (z : Nat) : Nat :=
  let t := (z - 2 ^ fx) * 2 ^ fx / (z + 2 ^ fx)
  2 * atanhFx (mulFx t t) 110 1 t

/-- y − y³/3! + y⁵/5! − …: `t` the term of index `k`, `n` pairs of terms. -/
def sinFx (y2 : Nat) : Nat → Nat → Int → Int
  | 0, _, _ => 0
  | n + 1, k, t =>
    let u := t * y2 / 2 ^ fx / ((k + 1) * (k + 2))
    t - u + sinFx y2 n (k + 4) (u * y2 / 2 ^ fx / ((k + 3) * (k + 4)))

/-- sin y for the fixed-point y in [0, π/2]. -/
def sinOf (y : Nat) : Nat := (sinFx (mulFx y y) 45 1 y).toNat

/-- ⌊√n⌋ for n below 2^(2b). -/
def isqrt (n : Nat) : Nat → Nat → Nat
  | 0, r => r
  | b + 1, r => let r' := r + 2 ^ b; isqrt n b (if r' * r' ≤ n then r' else r)

/-- 2^v rounded once to FP32 by RNE, for a value v (R235 EXP2, R141). -/
def exp2Val : FVal → Word
  | .nan => 0x7FC00000
  | .inf neg => if neg then 0 else 0x7F800000
  | .fin neg m e =>
    let p := scaleQuot m 1 e
    let i : Int := if neg then -(ceilDiv p.1 p.2 : Int) else (p.1 / p.2 : Nat)
    if i ≥ 128 then 0x7F800000
    else if i < -160 then 0
    else
      let fr : Nat := (signedNat neg p.1 - i * p.2).toNat
      let q := if fr = 0 then (1, 1) else (2 * expOf (fr * ln2Fx / p.2) + 1, 2 ^ (fx + 1))
      let r := scaleQuot q.1 q.2 i
      BitVec.ofNat 32 (roundRat fp32 0 false false r.1 r.2)

/-- m + log₂ s rounded once to FP32 by RNE, for finite m and s > 0 (R235 LOG2 with m = 0, R142). -/
def addLog2 (mneg : Bool) (mm : Nat) (me : Int) (sm : Nat) (se : Int) : Word :=
  let k : Int := Nat.log2 sm
  let exact := sm == 2 ^ k.toNat
  let frac : Nat := if exact then 0 else lnOf (sm * 2 ^ fx / 2 ^ k.toNat) * 2 ^ fx / ln2Fx
  let p := scaleQuot (mm * 2 ^ (fx + 1)) 1 me
  let tot : Int := signedNat mneg (p.1 / p.2) + (k + se) * 2 ^ (fx + 1) + 2 * frac + (if exact then 0 else 1)
  BitVec.ofNat 32 (roundRat fp32 0 false (decide (tot < 0)) tot.natAbs (2 ^ (fx + 1)))

/-- LOG2 of R235. -/
def log2Val : FVal → Word
  | .nan => 0x7FC00000
  | .inf neg => if neg then 0x7FC00000 else 0x7F800000
  | .fin neg m e => if m = 0 then 0xFF800000 else if neg then 0x7FC00000 else addLog2 false 0 0 m e

/-- 1/v rounded once to FP32 by RNE (R235 RCP, R142). -/
def rcpVal : FVal → Word
  | .nan => 0x7FC00000
  | .inf neg => BitVec.ofNat 32 (signBit fp32 neg)
  | .fin neg m e =>
    if m = 0 then BitVec.ofNat 32 (infBits fp32 neg)
    else let p := scaleQuot 1 m (-e); BitVec.ofNat 32 (roundRat fp32 0 false neg p.1 p.2)

/-- 1/√v rounded once to FP32 by RNE (R235 RSQRT). -/
def rsqrtVal : FVal → Word
  | .nan => 0x7FC00000
  | .inf neg => if neg then 0x7FC00000 else 0
  | .fin neg m e =>
    if m = 0 then BitVec.ofNat 32 (infBits fp32 neg)
    else if neg then 0x7FC00000
    else
      let m' := if e % 2 = 0 then m else 2 * m
      let e' := if e % 2 = 0 then e else e - 1
      let r := isqrt (2 ^ (2 * fx) / m') (fx + 1) 0
      let q := if r * r * m' = 2 ^ (2 * fx) then (r, 2 ^ fx) else (2 * r + 1, 2 ^ (fx + 1))
      let p := scaleQuot q.1 q.2 (-(e' / 2))
      BitVec.ofNat 32 (roundRat fp32 0 false false p.1 p.2)

/-- |sin 2πu| and whether it is negative, for u = n/d turns in [0, 1): zero, one, or a fixed-point value. -/
def sinTurn (n d : Nat) : Bool × (Nat × Nat) :=
  let neg := decide (d ≤ 2 * n)
  let h := if neg then 2 * n - d else 2 * n
  let u := if 2 * h ≤ d then h else d - h
  if u = 0 then (neg, (0, 1))
  else if 2 * u = d then (neg, (1, 1))
  else (neg, (2 * sinOf (u * piFx / d) + 1, 2 ^ (fx + 1)))

/-- SIN of R235: the argument in turns. -/
def sinVal : FVal → Word
  | .nan => 0x7FC00000
  | .inf _ => 0x7FC00000
  | .fin neg m e =>
    let p := scaleQuot m 1 e
    let r := sinTurn (p.1 % p.2) p.2
    BitVec.ofNat 32 (roundRat fp32 0 false (if r.2.1 = 0 then neg else r.1 != neg) r.2.1 r.2.2)

/-- COS of R235: the sine a quarter turn on. -/
def cosVal : FVal → Word
  | .nan => 0x7FC00000
  | .inf _ => 0x7FC00000
  | .fin _ m e =>
    let p := scaleQuot m 1 e
    let r := sinTurn ((4 * p.1 + p.2) % (4 * p.2)) (4 * p.2)
    BitVec.ofNat 32 (roundRat fp32 0 false (if r.2.1 = 0 then false else r.1) r.2.1 r.2.2)

/-- The functions of SFN by code (R235). -/
def sfnWord (fn : Nat) (x : Word) : Word :=
  match fn with
  | 0 => exp2Val (val32 x)
  | 1 => log2Val (val32 x)
  | 2 => rcpVal (val32 x)
  | 3 => rsqrtVal (val32 x)
  | 4 => sinVal (val32 x)
  | _ => cosVal (val32 x)

end Sys2Proof.Machine
end

