-- ==== Sys2Proof/Machine/CeludRun.lean ====
section
/-!
DEFINITION. Celud, the portable instruction set, run directly on the threads of a translated program
(spec/29_portable_isa.md R378 to R388; log entry 21): the translation changes nothing that a program may rely on. Where its native
words can be seen, in a fault, they are those that Dzitum made (R382, R385, R386).
-/

namespace Sys2Proof.Machine

/-! ### Threads -/

/-- The thread that issues: its team, its number, the lane and the coach it runs in (R385). -/
structure CelHere where
  team : Nat
  t : Team
  p : Celud
  n : Nat
  th : Thread
  ci : Nat
  lane : Nat

/-- The thread that the state names as the issuer. -/
def State.celudHere (s : State) : Option CelHere :=
  match s.cur with
  | .thread team n =>
    match Cells.find s.teams team with
    | none => none
    | some t => match t.celud with
      | none => none
      | some p => (p.threads[n]?).map fun th =>
          let l := n % (32 * t.coaches.length)
          { team := team, t := t, p := p, n := n, th := th, ci := l / 32, lane := l % 32 }
  | _ => none

/-- The types of the program's registers (R380). -/
def Celud.types (p : Celud) : Cells Nat := match celWords 0 p.words with | some ws => celTypes ws | none => []

/-- The thread may run: its team is resident, it has not ended and waits at no bar, and its coach is not stopped. -/
def CelHere.active (h : CelHere) : Bool :=
  (match h.t.state with | .resident => true | _ => false) && !h.th.ended && h.th.bar.isNone
    && match h.t.coaches[h.ci]? with
      | some c => c.stops.isEmpty && c.saved.isNone && c.parked.isNone
      | none => false

/-- A team's program replaced. -/
def State.setCelud (s : State) (team : Nat) (p : Celud) : State :=
  { s with teams := Cells.modify s.teams team fun t => { t with celud := some p } }

/-- The state with the thread replaced. -/
def State.putThread (s : State) (h : CelHere) (th : Thread) : State :=
  s.setCelud h.team { h.p with threads := h.p.threads.set h.n th }

/-- Threads of one copy: 32 in each coach (R385). -/
def CelHere.width (h : CelHere) : Nat := 32 * h.t.coaches.length

/-- The thread of copy `k` in a lane of the coach, if it has one (R385). -/
def CelHere.threadAt (h : CelHere) (k lane : Nat) : Option Thread := h.p.threads[k * h.width + 32 * h.ci + lane]?

/-- The lanes of the coach whose thread of the same copy stands at the same word: those that EXEC can hold. A lane without a
thread is idle (R385). -/
def CelHere.together (h : CelHere) : Word :=
  (List.range 32).foldl (fun m l => match h.threadAt (h.n / h.width) l with
    | some th => if th.pc = h.th.pc && !th.ended && th.bar.isNone then m ||| 1 <<< l else m
    | none => m) 0

/-- The memory word of the translation that the thread stands at: that of its copy (R382, R385). -/
def CelHere.point (h : CelHere) : Point :=
  (h.p.native.points.find? fun p => p.serves h.th.pc (h.n / h.width)).getD { word := h.th.pc, pc := 0, live := [] }

/-- Where the live registers stand in the native registers when a coach stops at a point, lane by lane (R386): a V register that
holds none, or none of a thread that stands there, has a free value. -/
def CelHere.placeV (h : CelHere) (tick : Nat) (p : Point) (exec : Word) (allot : Nat) : Cells Word :=
  (List.range allot).foldl (fun m n => (List.range 32).foldl (fun m l =>
    let held := p.live.findSome? fun q => match q.2.2 with
      | .v k => if k = n then some (q.1, q.2.1, 0) else if k + 1 = n && Cells.get 0 h.p.types q.1 = 1 then some (q.1, q.2.1, 1) else none
      | _ => none
    let x : Word := match held with
      | some (r, c, half) => match h.threadAt c l with
        | some th => if exec.getLsbD l then BitVec.ofNat 32 ((Cells.get 0 th.regs r).toNat / 2 ^ (32 * half))
            else Config.freeWord tick (100 + 32 * n + l)
        | none => Config.freeWord tick (100 + 32 * n + l)
      | none => Config.freeWord tick (100 + 32 * n + l)
    Cells.set 0 m (keyV n l) x) m) []

/-- The same of S0 to S55, which serve registers that are equal in every thread. -/
def CelHere.placeS (h : CelHere) (tick : Nat) (p : Point) (s : Cells Word) : Cells Word :=
  (List.range 56).foldl (fun m n =>
    let held := p.live.findSome? fun q => match q.2.2 with
      | .s k => if k = n then some (q.1, 0) else if k + 1 = n && Cells.get 0 h.p.types q.1 = 1 then some (q.1, 1) else none
      | _ => none
    Cells.set 0 m n (match held with
      | some (r, half) => BitVec.ofNat 32 ((Cells.get 0 h.th.regs r).toNat / 2 ^ (32 * half))
      | none => Config.freeWord tick (50 + n))) s

/-- The same of the spill area. -/
def State.placeSpill (s : State) (h : CelHere) (p : Point) (exec : Word) : State :=
  p.live.foldl (fun s q => match q.2.2 with
    | .spill off => (List.range 32).foldl (fun s l => match h.threadAt q.2.1 l with
      | some th => if exec.getLsbD l then
          s.writeLocs h.t.oid (.lane h.team (32 * h.ci + l) off)
            (leBytes (if Cells.get 0 h.p.types q.1 = 1 then 8 else 4) (Cells.get 0 th.regs q.1).toNat)
        else s
      | none => s) s
    | _ => s) s

/-- A trap of a thread stops its coach at the native word that makes the access, with the program's registers in the places
that the translation gives them (R382, R385, R386). What else the record says of the native code is the translator's choice
and so a free value (log entry 22). -/
def State.celudTrap (s : State) (h : CelHere) (t : Trap) : State :=
  let p := h.point
  let word (pc : Nat) : Word := h.p.native.code.getD (pc / 4) 0
  let prefixed := decide (4 ≤ p.pc) && fld (word (p.pc - 4)).toNat 24 8 = 0xBE
  let at_ := if prefixed then p.pc - 4 else p.pc
  let exec := (Config.freeWord s.tick 4 &&& h.together) ||| 1 <<< h.lane
  let f : Stopped :=
    { trap := t, pc := at_, word := word p.pc, pre := if prefixed then some (BitVec.ofNat 24 (word at_).toNat) else none,
      resume := at_, exec := exec, mem := Config.freeWord s.tick 3 ||| exec, run := (Config.freeWord s.tick 5).toNat, sub := 0 }
  let s := s.placeSpill h p exec
  (s.modCoach h.team h.ci fun c =>
    { c with v := h.placeV s.tick p exec c.allot, s := h.placeS s.tick p c.s, stops := c.stops ++ [f] }).tryEntry h.team h.ci

/-- A register of the thread. -/
def CelHere.r (h : CelHere) (n : BitVec 12) : DWord := Cells.get 0 h.th.regs n.toNat

/-- The low 32 bits of a register. -/
def CelHere.r32 (h : CelHere) (n : BitVec 12) : Word := BitVec.ofNat 32 (h.r n).toNat

/-- The last register source of a word: its register, or the literal (R381). -/
def CelHere.last (h : CelHere) (lit : Option (BitVec 64)) (n : BitVec 12) : DWord := lit.getD (h.r n)

/-- The last register source of a word of any type: of a literal the low 32 bits, all 64 for i64 (R381). -/
def CelHere.lastAs (h : CelHere) (d : BitVec 12) (lit : Option (BitVec 64)) (n : BitVec 12) : DWord :=
  match lit with
  | some v => if Cells.get 0 h.p.types d.toNat = 1 then v else BitVec.ofNat 64 (v.toNat % 2 ^ 32)
  | none => h.r n

def CelHere.last32 (h : CelHere) (lit : Option (BitVec 64)) (n : BitVec 12) : Word := BitVec.ofNat 32 (h.last lit n).toNat

/-- The thread after a word that writes `x`, standing at the next word. -/
def CelHere.done (h : CelHere) (lit : Bool) (d : BitVec 12) (x : DWord) : Thread :=
  { h.th with regs := Cells.set 0 h.th.regs d.toNat x, pc := h.th.pc + if lit then 2 else 1 }

/-- The common frame of a Celud word: what the thread does, if it may run, which it may not once its node is stopped (R379).
`reads` says that an access which waits for its channel returns data (R341). -/
def celudOp (s : State) (f : CelHere → Except Stop State) (reads : Bool := true) : Host.Outcome State Fault Refusal :=
  match s.celudHere with
  | none => .fault .noIssuer
  | some h =>
    if !h.active || s.nodeStopped h.t.node then .next s
    else match f h with
      | .ok s' => .next s'
      | .error (.hold cs) => .next (s.markWaiting cs reads)
      | .error (.trap t) => .next (s.celudTrap h t)

/-- A word whose result is a function of the thread's registers. -/
def celudReg1 (s : State) (lit : Bool) (d : BitVec 12) (f : CelHere → DWord) : Host.Outcome State Fault Refusal :=
  celudOp s fun h => .ok (s.putThread h (h.done lit d (f h)))

/-- d := f a b on 32-bit values, the last source perhaps a literal. -/
def celudBin (s : State) (lit : Option (BitVec 64)) (d a b : BitVec 12) (f : Word → Word → Word) :
    Host.Outcome State Fault Refusal :=
  celudReg1 s lit.isSome d fun h => (f (h.r32 a) (h.last32 lit b)).zeroExtend 64

/-- d := f d a b on 32-bit values. -/
def celudTern (s : State) (lit : Option (BitVec 64)) (d a b : BitVec 12) (f : Word → Word → Word → Word) :
    Host.Outcome State Fault Refusal :=
  celudReg1 s lit.isSome d fun h => (f (h.r32 d) (h.r32 a) (h.last32 lit b)).zeroExtend 64

/-! ### Memory -/

/-- The thread's agent for memory accesses: a lane of its team (R378). -/
def CelHere.agent (h : CelHere) : Agent :=
  { oid := h.t.oid, team := h.team, t := h.t, coach := h.ci, cluster := some (Config.clusterOf h.t.core),
    core := some h.t.core }

/-- The coach of the thread (R385). -/
def CelHere.coach (h : CelHere) : Coach := h.t.coaches.getD h.ci {}

/-- The place of the thread (R101). -/
def CelHere.spot (h : CelHere) : Spot := coachSpot h.team h.ci h.t.core

/-- The AR fence that revision 1 has after each GLOBAL access (R122, R123). -/
def CelHere.fenced (h : CelHere) (space : BitVec 3) (c : Coach) : Coach :=
  if h.t.rev = 1 && space = 4 then c.fence h.spot 2 else c

/-- ORD of a memory word includes an acquire or a release (R251, R382): its scope. -/
def celudAcq (ord : BitVec 2) (sc : BitVec 3) : Option Nat := if ord.getLsbD 0 then some sc.toNat else none
def celudRel (ord : BitVec 2) (sc : BitVec 3) : Option Nat := if ord.getLsbD 1 then some sc.toNat else none

/-- The address of a memory word: a register of 64 bits for GLOBAL and of 32 bits elsewhere, plus the literal (R381,
R382). -/
def CelHere.addr (h : CelHere) (space : BitVec 3) (lit : Option (BitVec 64)) (a : BitVec 12) : Int :=
  (if space = 4 then (h.r a).toNat else (h.r32 a).toNat : Nat) + (lit.map BitVec.toInt).getD 0

/-- One access checked; LANE offsets lie above the spill area and below CSLICE (R383). -/
def State.celudCheck (s : State) (h : CelHere) (space : BitVec 3) (ea : Int) (n : Nat) (acc : Access) :
    Except Stop Checked :=
  let sp := space.toNat + 1
  let ea := if sp = spaceLane then ea + h.p.native.spill else ea
  let bad (c : Cause) (r : Nat) : Stop :=
    .trap { cause := c, reason := r, space := sp, addr := recAddr ea,
            lanes := [{ lane := h.lane, cause := c, reason := r, space := sp, addr := recAddr ea }] }
  if sp = spaceLane && ea % n = 0 && (decide (ea < h.p.native.spill) || decide ((h.p.native.spill + h.p.cslice : Int) < ea + n)) then
    .error (bad .spaceRange 0)
  else match s.check h.agent sp h.lane ea n acc with
    | .fails c r => .error (bad c r)
    | .held chans => .error (.hold chans)
    | .ok l leaf => (s.channelHold l n).map fun _ => { lane := h.lane, ea := ea, loc := l, leaf := leaf }

/-- A load of 2^size bytes, zero-extended, an acquire at scope `acq` if it is one (R246, R247, R382). -/
def celudLoad (s : State) (lit : Option (BitVec 64)) (d a : BitVec 12) (space : BitVec 3) (size : BitVec 2) (acq : Option Nat) :
    Host.Outcome State Fault Refusal :=
  celudOp s fun h => do
    let n := 2 ^ size.toNat
    let c ← s.celudCheck h space (h.addr space lit a) n .load
    let x := leNat (s.readData h.agent c.loc c.leaf n)
    let s' := s.modCoach h.team h.ci fun x => h.fenced space (x.saw h.spot acq (s.postsAt c.loc n))
    pure ((s'.putThread h (h.done lit.isSome d (BitVec.ofNat 64 x))).noteAll h.agent (space.toNat + 1) [c])

/-! ### Registers -/

/-- decl declares a type and does nothing at run time (R380). -/
def execCeludDecl (_d : BitVec 12) (_ty : BitVec 3) (s : State) : Host.Outcome State Fault Refusal :=
  celudOp s fun h => .ok (s.putThread h { h.th with pc := h.th.pc + 1 })

/-- tid: the thread index (R382). -/
def execCeludTid (d : BitVec 12) (s : State) : Host.Outcome State Fault Refusal :=
  celudReg1 s false d fun h => BitVec.ofNat 64 h.n

/-- nthr: T (R382). -/
def execCeludNthr (d : BitVec 12) (s : State) : Host.Outcome State Fault Refusal :=
  celudReg1 s false d fun h => BitVec.ofNat 64 h.p.threads.length

/-- mov (R382). -/
def execCeludMov (lit : Option (BitVec 64)) (d a : BitVec 12) (s : State) : Host.Outcome State Fault Refusal :=
  celudReg1 s lit.isSome d fun h => h.lastAs d lit a

/-! ### Arithmetic -/

/-- add (R224, R225, R382). -/
def execCeludAdd (lit : Option (BitVec 64)) (d a b : BitVec 12) (s : State) : Host.Outcome State Fault Refusal :=
  celudBin s lit d a b fun a b => a + b

/-- sub (R224, R225, R382). -/
def execCeludSub (lit : Option (BitVec 64)) (d a b : BitVec 12) (s : State) : Host.Outcome State Fault Refusal :=
  celudBin s lit d a b fun a b => a - b

/-- mul (R224, R225, R382). -/
def execCeludMul (lit : Option (BitVec 64)) (d a b : BitVec 12) (s : State) : Host.Outcome State Fault Refusal :=
  celudBin s lit d a b fun a b => a * b

/-- mulh (R224, R225, R382). -/
def execCeludMulh (lit : Option (BitVec 64)) (d a b : BitVec 12) (s : State) : Host.Outcome State Fault Refusal :=
  celudBin s lit d a b mulhS

/-- min (R224, R225, R382). -/
def execCeludMin (lit : Option (BitVec 64)) (d a b : BitVec 12) (s : State) : Host.Outcome State Fault Refusal :=
  celudBin s lit d a b minS

/-- max (R224, R225, R382). -/
def execCeludMax (lit : Option (BitVec 64)) (d a b : BitVec 12) (s : State) : Host.Outcome State Fault Refusal :=
  celudBin s lit d a b maxS

/-- and (R224, R225, R382). -/
def execCeludAnd (lit : Option (BitVec 64)) (d a b : BitVec 12) (s : State) : Host.Outcome State Fault Refusal :=
  celudBin s lit d a b fun a b => a &&& b

/-- or (R224, R225, R382). -/
def execCeludOr (lit : Option (BitVec 64)) (d a b : BitVec 12) (s : State) : Host.Outcome State Fault Refusal :=
  celudBin s lit d a b fun a b => a ||| b

/-- xor (R224, R225, R382). -/
def execCeludXor (lit : Option (BitVec 64)) (d a b : BitVec 12) (s : State) : Host.Outcome State Fault Refusal :=
  celudBin s lit d a b fun a b => a ^^^ b

/-- shl (R224, R225, R382). -/
def execCeludShl (lit : Option (BitVec 64)) (d a b : BitVec 12) (s : State) : Host.Outcome State Fault Refusal :=
  celudBin s lit d a b shl32

/-- shr (R224, R225, R382). -/
def execCeludShr (lit : Option (BitVec 64)) (d a b : BitVec 12) (s : State) : Host.Outcome State Fault Refusal :=
  celudBin s lit d a b shr32

/-- sar (R224, R225, R382). -/
def execCeludSar (lit : Option (BitVec 64)) (d a b : BitVec 12) (s : State) : Host.Outcome State Fault Refusal :=
  celudBin s lit d a b sar32

/-- ceq (R224, R225, R382). -/
def execCeludCeq (lit : Option (BitVec 64)) (d a b : BitVec 12) (s : State) : Host.Outcome State Fault Refusal :=
  celudBin s lit d a b ceq

/-- clt (R224, R225, R382). -/
def execCeludClt (lit : Option (BitVec 64)) (d a b : BitVec 12) (s : State) : Host.Outcome State Fault Refusal :=
  celudBin s lit d a b clt

/-- cltu (R224, R225, R382). -/
def execCeludCltu (lit : Option (BitVec 64)) (d a b : BitVec 12) (s : State) : Host.Outcome State Fault Refusal :=
  celudBin s lit d a b cltu

/-- sel: a where the predicate is 1, else b (R382). -/
def execCeludSel (lit : Option (BitVec 64)) (d a b c : BitVec 12) (s : State) : Host.Outcome State Fault Refusal :=
  celudReg1 s lit.isSome d fun h => if h.r32 c ≠ 0 then h.r a else h.lastAs d lit b

/-- add64 (R382). -/
def execCeludAdd64 (lit : Option (BitVec 64)) (d a b : BitVec 12) (s : State) : Host.Outcome State Fault Refusal :=
  celudReg1 s lit.isSome d fun h => h.r a + h.last lit b

/-- fadd (R232, R382). -/
def execCeludFadd (lit : Option (BitVec 64)) (d a b : BitVec 12) (s : State) : Host.Outcome State Fault Refusal :=
  celudBin s lit d a b fadd

/-- fsub (R232, R382). -/
def execCeludFsub (lit : Option (BitVec 64)) (d a b : BitVec 12) (s : State) : Host.Outcome State Fault Refusal :=
  celudBin s lit d a b fsub

/-- fmul (R232, R382). -/
def execCeludFmul (lit : Option (BitVec 64)) (d a b : BitVec 12) (s : State) : Host.Outcome State Fault Refusal :=
  celudBin s lit d a b fmul

/-- ffma: d + a·b (R232, R382). -/
def execCeludFfma (lit : Option (BitVec 64)) (d a b : BitVec 12) (s : State) : Host.Outcome State Fault Refusal :=
  celudTern s lit d a b ffma

/-- fmin (R233, R382). -/
def execCeludFmin (lit : Option (BitVec 64)) (d a b : BitVec 12) (s : State) : Host.Outcome State Fault Refusal :=
  celudBin s lit d a b fmin

/-- fmax (R233, R382). -/
def execCeludFmax (lit : Option (BitVec 64)) (d a b : BitVec 12) (s : State) : Host.Outcome State Fault Refusal :=
  celudBin s lit d a b fmax

/-- fceq (R233, R382). -/
def execCeludFceq (lit : Option (BitVec 64)) (d a b : BitVec 12) (s : State) : Host.Outcome State Fault Refusal :=
  celudBin s lit d a b fceq

/-- fclt (R233, R382). -/
def execCeludFclt (lit : Option (BitVec 64)) (d a b : BitVec 12) (s : State) : Host.Outcome State Fault Refusal :=
  celudBin s lit d a b fclt

/-- fcle (R233, R382). -/
def execCeludFcle (lit : Option (BitVec 64)) (d a b : BitVec 12) (s : State) : Host.Outcome State Fault Refusal :=
  celudBin s lit d a b fcle

/-- sfn (R235, R382). -/
def execCeludSfn (lit : Option (BitVec 64)) (d a : BitVec 12) (fn : BitVec 3) (s : State) : Host.Outcome State Fault Refusal :=
  celudReg1 s lit.isSome d fun h => (sfnWord fn.toNat (h.last32 lit a)).zeroExtend 64

/-- cvt (R236, R382). -/
def execCeludCvt (lit : Option (BitVec 64)) (d a : BitVec 12) (i8 : BitVec 8) (sat : Bool) (s : State) : Host.Outcome State Fault Refusal :=
  celudReg1 s lit.isSome d fun h =>
    BitVec.ofNat 64 (cvtWord (fld i8.toNat 6 2) (fld i8.toNat 3 3) (fld i8.toNat 0 3) sat (h.last32 lit a).toNat)

/-- hadd2 (R234, R382). -/
def execCeludHadd2 (lit : Option (BitVec 64)) (d a b : BitVec 12) (s : State) : Host.Outcome State Fault Refusal :=
  celudBin s lit d a b (halfAdd fp16)

/-- hfma2 (R234, R382). -/
def execCeludHfma2 (lit : Option (BitVec 64)) (d a b : BitVec 12) (s : State) : Host.Outcome State Fault Refusal :=
  celudTern s lit d a b (halfFma fp16)

/-- badd2 (R234, R382). -/
def execCeludBadd2 (lit : Option (BitVec 64)) (d a b : BitVec 12) (s : State) : Host.Outcome State Fault Refusal :=
  celudBin s lit d a b (halfAdd bf16)

/-- bfma2 (R234, R382). -/
def execCeludBfma2 (lit : Option (BitVec 64)) (d a b : BitVec 12) (s : State) : Host.Outcome State Fault Refusal :=
  celudTern s lit d a b (halfFma bf16)

/-- dot2 (R382). -/
def execCeludDot2 (lit : Option (BitVec 64)) (d a b : BitVec 12) (s : State) : Host.Outcome State Fault Refusal :=
  celudTern s lit d a b dot2

/-! ### Loads, stores, atomics, fences -/

/-- ld (R246, R382). -/
def execCeludLd (sc : BitVec 3) (ord _rev : BitVec 2) (lit : Option (BitVec 64)) (d a : BitVec 12) (space : BitVec 3)
    (size _hint : BitVec 2) (s : State) : Host.Outcome State Fault Refusal :=
  celudLoad s lit d a space size (celudAcq ord sc)

/-- ldc (R248, R382): toward memory a load; threads have no taint that a program can read. -/
def execCeludLdc (_sc : BitVec 3) (_rev : BitVec 2) (lit : Option (BitVec 64)) (d a : BitVec 12) (space : BitVec 3)
    (size _hint : BitVec 2) (s : State) : Host.Outcome State Fault Refusal :=
  celudLoad s lit d a space size none

/-- st: the low bytes of the register (R246, R382). -/
def execCeludSt (sc : BitVec 3) (ord _rev : BitVec 2) (lit : Option (BitVec 64)) (a b : BitVec 12) (space : BitVec 3)
    (size _hint : BitVec 2) (s : State) : Host.Outcome State Fault Refusal :=
  celudOp s (fun h => do
    let n := 2 ^ size.toNat
    let c ← s.celudCheck h space (h.addr space lit a) n .store
    let s' := (s.writeData h.agent c.loc (leBytes n (h.r b).toNat)).post c.loc n (h.coach.releases h.spot (celudRel ord sc))
    let s' := s'.modCoach h.team h.ci fun x => h.fenced space (x.wrote s s')
    pure ((s'.putThread h { h.th with pc := h.th.pc + if lit.isSome then 2 else 1 }).noteAll h.agent (space.toNat + 1) [c])) false

/-- atom (R249, R250, R382): for CAS, v0 is the old d and v1 is b. -/
def execCeludAtom (sc : BitVec 3) (ord _rev : BitVec 2) (lit : Option (BitVec 64)) (d a b : BitVec 12) (space : BitVec 3)
    (_hint : BitVec 2) (op : BitVec 3) (s : State) : Host.Outcome State Fault Refusal :=
  celudOp s fun h => do
    let c ← s.celudCheck h space (h.addr space lit a) 4 .atomic
    let old : Word := BitVec.ofNat 32 (leNat (s.readData h.agent c.loc c.leaf 4))
    let v := h.r32 b
    let new : Word := match op.toNat with
      | 0 => old + v | 1 => minS old v | 2 => maxS old v | 3 => old &&& v | 4 => old ||| v | 5 => old ^^^ v | 6 => v
      | _ => if old = h.r32 d then v else old
    let rels := s.postsAt c.loc 4
    let x := h.coach.saw h.spot (celudAcq ord sc) rels
    let s' := (s.writeData h.agent c.loc (leBytes 4 new.toNat)).post c.loc 4 (rels ++ x.releases h.spot (celudRel ord sc))
    let s' := s'.modCoach h.team h.ci fun _ => h.fenced space (x.wrote s s')
    pure ((s'.putThread h (h.done lit.isSome d (old.zeroExtend 64))).noteAll h.agent (space.toNat + 1) [c])

/-- fence (R252): all accesses of the model are performed already (log entry 1); it acquires and releases as FENCE does. -/
def execCeludFence (sc : BitVec 3) (kind : BitVec 2) (s : State) : Host.Outcome State Fault Refusal :=
  celudOp s fun h =>
    .ok ((s.modCoach h.team h.ci fun c => c.fenceBy kind h.spot sc.toNat).putThread h { h.th with pc := h.th.pc + 1 })

/-! ### Control -/

/-- A thread has taken every jump over a bar that another has taken (R382). -/
def Thread.tookAll (x y : Thread) : Bool := y.trail.all fun j => decide (y.trail.count j ≤ x.trail.count j)

/-- A thread at a bar, or ended, disagrees with another (R379), or with another's jumps over a bar (R382): those that wait at one
bar have taken the same. -/
def disagree (l : List Thread) : Bool :=
  let at_ := l.filter fun th => !th.ended && th.bar.isSome
  at_.any fun x => l.any Thread.ended || at_.any fun y => x.bar ≠ y.bar || !x.tookAll y

/-- The threads that wait at a bar go on past it. -/
def passBar (th : Thread) : Thread := if th.bar.isSome then { th with bar := none, pc := th.pc + 1, trail := [] } else th

/-- Another thread has taken a jump over a bar that thread `n`, which ends now, has not (R382): every jump that has been taken
so far it had to take. -/
def missedJump (l : List Thread) (n : Nat) : Bool :=
  match l[n]? with
  | some th => th.ended && l.any fun x => !th.tookAll x
  | none => false

/-- The threads of a team pass a bar, at which their coaches synchronise (R111, R382). -/
def State.passBars (s : State) (team : Nat) (p : Celud) : State :=
  let join (l : List Coach) : List Coach := let k := l.foldl (fun k c => Known.join k c.acq) []; l.map fun c => c.joins k
  { s with teams := Cells.modify s.teams team fun t =>
      { t with coaches := join t.coaches, celud := some { p with threads := p.threads.map passBar } } }

/-- After thread `n` has reached a bar or has ended: where every thread waits at the one bar, all go on; where threads
disagree, the device may stop the node, let all threads or one of them run on, or leave them waiting (R379, R5). -/
def State.settleBar (s : State) (team : Nat) (p : Celud) (n : Nat) : State :=
  match Cells.find s.teams team with
  | none => s
  | some t =>
    if disagree p.threads || missedJump p.threads n then
      let s := s.setCelud team { p with broken := true }
      match Config.choose s.tick 0 % 4 with
      | 0 => s
      | 1 => s.passBars team { p with broken := true }
      | 2 => s.setCelud team { p with broken := true, threads := p.threads.modify (Config.choose s.tick 1 % p.threads.length) passBar }
      | _ => s.stopNode t.node 5
    else if p.threads.all fun th => th.bar.isSome then s.passBars team p
    else s.setCelud team p

/-- bar (R379): the thread waits for every thread of the team. -/
def execCeludBar (s : State) : Host.Outcome State Fault Refusal :=
  celudOp s fun h =>
    .ok (s.settleBar h.team { h.p with threads := h.p.threads.set h.n { h.th with bar := some h.th.pc } } h.n)

/-- Bars before a word of a program (R378). -/
def barsBefore (words : List DWord) (ix : Nat) : Nat :=
  match celWords 0 words with
  | some ws => (ws.filter fun w => w.opc = 0x60 && decide (w.ix < ix)).length
  | none => 0

/-- jmp (R382): one over a bar is noted, since every thread that has not ended must take it too. -/
def execCeludJmp (target : BitVec 64) (s : State) : Host.Outcome State Fault Refusal :=
  celudOp s fun h =>
    let crosses := barsBefore h.p.words h.th.pc ≠ barsBefore h.p.words target.toNat
    .ok (s.putThread h { h.th with pc := target.toNat, trail := if crosses then h.th.trail ++ [h.th.pc] else h.th.trail })

/-- A branch of the thread alone (R382): the word and its literal take two words. -/
def celudBranch (s : State) (a : BitVec 12) (target : BitVec 64) (zero : Bool) : Host.Outcome State Fault Refusal :=
  celudOp s fun h =>
    .ok (s.putThread h { h.th with pc := if (h.r32 a == 0) == zero then target.toNat else h.th.pc + 2 })

/-- brz (R241, R382). -/
def execCeludBrz (a : BitVec 12) (target : BitVec 64) (s : State) : Host.Outcome State Fault Refusal :=
  celudBranch s a target true

/-- brnz (R241, R382). -/
def execCeludBrnz (a : BitVec 12) (target : BitVec 64) (s : State) : Host.Outcome State Fault Refusal :=
  celudBranch s a target false

/-- A coach has ended once all its threads have (R382). -/
def Team.endCoaches (t : Team) (p : Celud) : Team :=
  let l := 32 * t.coaches.length
  { t with coaches := t.coaches.mapIdx fun ci c =>
      { c with ended := (p.threads.zipIdx).all fun q => q.1.ended || q.2 % l / 32 != ci } }

/-- end: the thread ends (R382). -/
def execCeludEnd (s : State) : Host.Outcome State Fault Refusal :=
  celudOp s fun h =>
    let p := { h.p with threads := h.p.threads.set h.n { h.th with ended := true } }
    let s := s.settleBar h.team p h.n
    .ok { s with teams := Cells.modify s.teams h.team fun t => t.endCoaches p }

end Sys2Proof.Machine
end

