-- ==== Sys2Proof/Machine/Requests.lean ====
section
/-!
DEFINITION. What engine requests do when they complete: copies and their dray requests, gather-scatter jobs, and MVSTACK
(spec/05_memory.md R92 to R94; spec/16_instr_memory.md R257, R261; spec/18_instr_plane_matrix.md R288;
spec/25_near_memory.md R344, R350, R351). What a stop order has not performed before is performed by the completion step; a
source byte that has changed since the issue is read as it was or as it is (log entry 12).
-/

namespace Sys2Proof.Machine

/-! ### Sources -/

/-- The byte of a source range as it stood at issue, if it could be read then: the bytes are kept piece after piece. -/
def oldByte : List Piece → List (Option Byte) → Nat → Option Byte
  | [], _, _ => none
  | p :: r, old, k => if p.off ≤ k && k < p.off + p.len then old[k - p.off]?.join else oldByte r (old.drop p.len) k

/-- Byte `k` of a source: read once at a moment between issue and completion (R257), in a channel that was held at the issue
not before what waited there (R339). -/
def State.sourceByte (s : State) (oid : Nat) (ps : List Piece) (old : List (Option Byte)) (k : Nat) : Byte :=
  let now := match pieceLoc ps k with
    | some l => if (s.jobsAt oid l).isEmpty then s.readLoc oid l else Config.freeByte s.tick l.key
    | none => 0
  match oldByte ps old k with
  | some b => if b = now then now else if Config.choose s.tick k % 2 = 0 then now else b
  | none => now

/-- `n` bytes of a source from byte `k`. -/
def State.sourceBytes (s : State) (oid : Nat) (ps : List Piece) (old : List (Option Byte)) (k n : Nat) : List Byte :=
  (List.range n).map fun i => s.sourceByte oid ps old (k + i)

/-! ### Transforms -/

/-- The greater or the lesser of two exact values, a NaN being ignored and −0 below +0 (R65, R93). -/
def pickVal (wantMax : Bool) (a b : FVal) : FVal :=
  match a.cmp b with
  | some .lt => if wantMax then b else a
  | some .gt => if wantMax then a else b
  | some .eq => if a.isNeg == wantMax then b else a
  | none => if a ≠ .nan then a else b

/-- The result of a transform on one element (R93): `x` and `d` are codes of the source and of the old destination. -/
def transform (xf : Nat) (src dst : Elem) (scalar : Word) (x d : Nat) : Nat :=
  let v := src.value x
  let c := match dst with | .float _ => val32 scalar | .int _ => .ofInt scalar.toInt
  let o := dst.value d
  dst.round 0 false (match xf with
    | 1 => v.mul c | 2 => v.add c | 3 => v | 4 => o.add v | 5 => pickVal true o v | _ => pickVal false o v)

/-- The destination of element `i` lies in a pseudo-channel of HBM. -/
def elemChannel (dst : List Piece) (off : Nat) : Option Nat :=
  match pieceLoc dst off with
  | some (.sto a) => if a < 2 ^ 39 then some (channelOf a) else none
  | _ => none

/-- A copy performed on the destination elements `lo` to `hi - 1` that `pick` selects by their channel (R93, R257, R344):
overlapping ranges leave undefined bytes (R92). -/
def State.performCopy (s : State) (r : Request) (xf sf df : Nat) (scalar : Word) (src dst : List Piece)
    (pick : Option Nat → Bool) (lo hi : Nat) : State :=
  let ss := if xf = 0 then 1 else fmtBytes sf
  let ds := if xf = 0 then 1 else fmtBytes df
  let clash := overlap src dst
  (List.range (hi - lo)).foldl (fun x j =>
    let i := lo + j
    if !pick (elemChannel dst (i * ds)) then x
    else
      let bytes : List Byte :=
        if clash then freeBytes s.tick (i * ds) ds
        else
          let from_ := s.sourceBytes r.oid src r.old (i * ss) ss
          if xf = 0 then from_
          else match tidElem sf, tidElem df with
            | some se, some de =>
              leBytes ds (transform xf se de scalar (leNat from_) (leNat (x.readPieces r.oid dst (i * ds) ds)))
            | _, _ => from_
      x.writePieces r.oid dst (i * ds) bytes) s

/-! ### Gather and scatter -/

/-- One element of a gather or a scatter (R261), its index having been read. -/
def State.gatherOne (s : State) (r : Request) (scatter : Bool) (es bound : Nat) (table dense : List Piece)
    (dold : List (Option Byte))
    (i x : Nat) : State :=
  if scatter then
    if x < bound then s.writePieces r.oid table (x * es) (s.sourceBytes r.oid dense dold (i * es) es) else s
  else
    s.writePieces r.oid dense (i * es)
      (if x < bound then s.sourceBytes r.oid table [] (x * es) es else List.replicate es 0)

/-- Blocks of 256 indices from index `i` on: the index reads of a block precede its element accesses (R351). -/
def State.gatherBlocks (s : State) (r : Request) (scatter : Bool) (iw es bound : Nat) (table index dense : List Piece)
    (iold dold : List (Option Byte)) : Nat → Nat → Nat → State
  | 0, _, _ => s
  | fuel + 1, i, count =>
    if count ≤ i then s
    else
      let n := min 256 (count - i)
      let idx := (List.range n).map fun k => leNat (s.sourceBytes r.oid index iold ((i + k) * iw) iw)
      let s' := (List.range n).foldl (fun x k =>
        x.gatherOne r scatter es bound table dense dold (i + k) (idx.getD k 0)) s
      s'.gatherBlocks r scatter iw es bound table index dense iold dold fuel (i + n) count

/-! ### MVSTACK -/

/-- The scale of element (i0, i1) of an identifier as a request reads it (R116, R136). -/
def State.sourceScale (s : State) (oid : Nat) (t : List DWord) (ps : List Piece) (i0 i1 : Nat) : FVal :=
  if tidBlock t = 0 then .fin false 1 0 else e8m0 (s.sourceByte oid ps [] (scaleIndex t i0 i1)).toNat

/-- Y[n] of R288: chunk sums exact, one rounding per chunk. -/
def State.mvElement (s : State) (r : Request) (a b : List DWord) (va vb : List Piece) (sa sb : List Piece) (n : Nat) : Word :=
  let k := tidDim a 0
  let code (t : List DWord) (ps : List Piece) (old : List (Option Byte)) (off i : Nat) : Nat :=
    let hs := tidHalves (tidFmt t)
    if hs = 1 then fld (s.sourceByte r.oid ps old off).toNat (4 * (i % 2)) 4
    else leNat (s.sourceBytes r.oid ps old off (hs / 2))
  let bold := r.old.drop (va.map Piece.len).sum
  let prod (i : Nat) : FVal :=
    ((codeValue a (code a va r.old (i * tidHalves (tidFmt a) / 2) i)).mul (s.sourceScale r.oid a sa i 0)).mul
      ((codeValue b (code b vb bold (elemOff b i n) i)).mul (s.sourceScale r.oid b sb i n))
  (List.range (ceilDiv k 32)).foldl (fun y c =>
    round32 ((val32 y).add (sumVals ((List.range (min 32 (k - 32 * c))).map fun j => prod (32 * c + j))))) 0

/-! ### Completion -/

/-- The ranges that a request reads. -/
def Work.reads : Work → List Piece
  | .copy xf _ _ _ _ src dst => if 4 ≤ xf then src ++ dst else src
  | .gather scatter _ _ _ _ table index dense => index ++ if scatter then dense else table
  | .mvstack _ _ va vb _ sc => va ++ vb ++ sc.1 ++ sc.2

/-- The ranges that a request touches. -/
def Work.places : Work → List Piece
  | .copy _ _ _ _ _ src dst => src ++ dst
  | .gather _ _ _ _ _ table index dense => table ++ index ++ dense
  | .mvstack _ _ va vb vy sc => va ++ vb ++ vy ++ sc.1 ++ sc.2

/-- The ranges that a request writes. -/
def Work.writes : Work → List Piece
  | .copy _ _ _ _ _ _ dst => dst
  | .gather scatter _ _ _ _ table _ dense => if scatter then table else dense
  | .mvstack _ _ _ _ vy _ => vy

/-- The elements, indices or outputs of a request, and the number of them between two points at which it stops (R306). -/
def Work.units : Work → Nat × Nat
  | .copy xf _ df _ len _ _ => let n := if xf = 0 then 1 else fmtBytes df; (len / n, 4096 / n)
  | .gather _ _ _ count _ _ _ _ => (count, 256)
  | .mvstack _ b _ _ _ _ => (tidDim b 1, 32)

/-- A copy whose transform the drays of its destination carry out (R344). -/
def Work.byDrays : Work → Bool
  | .copy xf _ _ _ _ _ dst => xf ≠ 0 && (channelBytes dst).length ≠ 0
  | _ => false

/-- The elements, indices or outputs `lo` to `hi - 1` of a request performed; of a copy that drays carry out, those outside
HBM. -/
def State.performUnits (s : State) (r : Request) (lo hi : Nat) : State :=
  match r.work with
  | .copy xf sf df c _ src dst => s.performCopy r xf sf df c src dst (fun ch => !r.work.byDrays || ch.isNone) lo hi
  | .gather scatter iw es count bound table index dense =>
    s.gatherBlocks r scatter iw es bound table index dense r.old (r.old.drop (count * iw)) (hi / 256 + 1) lo hi
  | .mvstack a b va vb vy sc =>
    (List.range (hi - lo)).foldl (fun x n =>
      x.writePieces r.oid vy (4 * (lo + n)) (leBytes 4 (s.mvElement r a b va vb sc.1 sc.2 (lo + n)).toNat)) s

/-- A stopped request performs a part that the device chooses, up to a point at which it stops (R306). -/
def State.performPart (s : State) (id : Nat) : State :=
  match Cells.find s.requests id with
  | none => s
  | some r =>
    let u := r.work.units
    if !(s.heldChannels r.work.places).isEmpty || !r.parts.isEmpty || u.2 = 0 then s
    else
      let hi := r.at_ + u.2 * (Config.choose s.tick (id + 4096) % ((u.1 - 1 - r.at_) / u.2 + 1))
      let s' := (s.performUnits r r.at_ hi).spoil r.oid r.work.writes
      { s' with requests := Cells.put s'.requests id { r with at_ := hi, known := Known.wrote r.known s s' } }

/-- A request goes on: neither its team nor its node is evicted with it stopped (R310). -/
def State.requestRuns (s : State) (id : Nat) (r : Request) : Bool :=
  match r.node with
  | some node => (match Cells.find s.nodes node with | some n => !n.out | none => false)
  | none => match Cells.find s.teams r.team with
    | some t => !t.stopped.contains id
    | none => true

/-- Scratchpad bytes that a coach's request wrote: the coach must order them by OPFENCE once it has observed them (R115). -/
def Coach.noteWritten (c : Coach) (team tag : Nat) (dst : List Piece) : Coach :=
  { c with landed := c.landed ++ dst.filterMap fun p => match p.loc with
      | .core t o => if t = team then some (tag, o, p.len) else none
      | _ => none }

/-- The state `s'` in which request `r` has done the rest of its work, from state `s`: the request leaves, and its writes with
what its issue released are what its tag's completion releases (R113, R114). Its tag bit becomes 1 (R94); a deadline passed is
counted (R305). Matrix jobs whose regions it wrote are spoiled (R116). -/
def State.finishRequest (s' : State) (s : State) (id : Nat) (r : Request) : State :=
  let dst := r.work.writes
  let known := Known.wrote r.known s s'
  let s := if r.bounded && decide (r.deadline < s'.slot) then s'.count 0x310 else s'
  let s := ({ s with requests := Cells.drop s.requests id }).spoil r.oid dst
  if r.node.isSome then s
  else { s with teams := Cells.modify s.teams r.team fun t =>
    { t with tags := setTag t.tags r.tag true,
             done := Cells.put t.done r.tag { agent := coachSpot r.team r.coach t.core, scope := r.scope, known := known },
             coaches := t.coaches.modify r.coach fun c => c.noteWritten r.team r.tag dst } }

/-- The part of a copy that a dray request carries out (R344): what it reads and what it writes in channel `chan`. -/
def Work.partIn (w : Work) (chan : Nat) : List Piece × List Piece :=
  match w with
  | .copy xf _ _ _ _ src dst =>
    let here := dst.flatMap fun p => p.inChannel chan
    (if 4 ≤ xf then src ++ here else src, here)
  | w => (w.reads, w.writes)

/-- The work of request `id` on what `part` says that it reads and writes, if it runs and no kernel holds the channels (R339):
there it waits for a window (R341). -/
def State.whenFree (s : State) (id : Nat) (part : Request → List Piece × List Piece)
    (f : Request → Host.Outcome State Fault Refusal) : Host.Outcome State Fault Refusal :=
  whenRunning s <| match Cells.find s.requests id with
  | none => .next s
  | some r =>
    if !s.requestRuns id r then .next s
    else if (s.heldChannels ((part r).1 ++ (part r).2)).isEmpty then f r
    else .next (s.markBoth (part r).1 (part r).2)

/-- All that a request reads and writes. -/
def Request.whole (r : Request) : List Piece × List Piece := (r.work.reads, r.work.writes)

/-- COPY_COMPLETION (R94, R257): once its dray requests have completed (R344). -/
def execCopyCompletion (req : Nat) (s : State) : Host.Outcome State Fault Refusal :=
  s.whenFree req Request.whole fun r =>
    match r.work with
    | .copy .. =>
      if !r.parts.isEmpty then .next s
      else .next ((s.performUnits r r.at_ r.work.units.1).finishRequest s req r)
    | _ => .next s

/-- DRAY_REQUEST_COMPLETION (R344): the part of a copy in one pseudo-channel. -/
def execDrayRequestCompletion (req chan : Nat) (s : State) : Host.Outcome State Fault Refusal :=
  s.whenFree req (fun r => r.work.partIn chan) fun r =>
    match r.work with
    | .copy xf sf df c _ src dst =>
      if !r.parts.contains chan then .next s
      else
        let s' := (s.performCopy r xf sf df c src dst (fun ch => ch = some chan) 0 r.work.units.1).spoil r.oid
          (r.work.partIn chan).2
        let r' := { r with parts := r.parts.filter (· ≠ chan), known := Known.wrote r.known s s' }
        .next { s' with requests := Cells.put s'.requests req r' }
    | _ => .next s

/-- GSJOB_COMPLETION (R261, R351, R352). -/
def execGsjobCompletion (req : Nat) (s : State) : Host.Outcome State Fault Refusal :=
  s.whenFree req Request.whole fun r =>
    match r.work with
    | .gather .. => .next ((s.performUnits r r.at_ r.work.units.1).finishRequest s req r)
    | _ => .next s

/-- MVSTACK_COMPLETION (R288, R350). -/
def execMvstackCompletion (req : Nat) (s : State) : Host.Outcome State Fault Refusal :=
  s.whenFree req Request.whole fun r =>
    match r.work with
    | .mvstack .. => .next ((s.performUnits r r.at_ r.work.units.1).finishRequest s req r)
    | _ => .next s

end Sys2Proof.Machine
end

