-- ==== Sys2Proof/Machine/Dray.lean ====
section
/-!
DEFINITION. Dray kernels: the two threads, the commands of the row queue, row boundaries and arbitration windows, and
reduction packets (spec/25_near_memory.md R328 to R348).
-/

namespace Sys2Proof.Machine

/-! ### Threads -/

/-- A kernel thread may run: no window is open, and the dray is neither saved nor stopped (R341, R348). -/
def Dray.active (d : Dray) : Bool := !d.window && !d.saved && !d.stopped

/-- What a thread instruction does: nothing yet, a fault (R335), or a new state of the dray. -/
inductive DrayRes where
  | stall
  | fault
  | ok (d : Dray)

/-- The dray that the state names as the issuer, and whether its address thread issues. -/
def State.drayHere (s : State) : Option (Nat × Bool × Dray) :=
  match s.cur with
  | .drayA ch => (Cells.find s.drays ch).map fun d => (ch, true, d)
  | .drayX ch => (Cells.find s.drays ch).map fun d => (ch, false, d)
  | _ => none

/-- The command at the head waits for data-queue room or for a release (R332, R334, R340). -/
def Dray.headWaits (d : Dray) : Bool :=
  match d.rowq with
  | .read _ _ n :: _ => decide (32 < d.dataq.length + n)
  | .wback _ _ k _ :: _ => decide (Cells.get 0 d.rel k = 0)
  | _ => false

/-- The dray stands at a row boundary (R340). -/
def Dray.atBoundary (d : Dray) : Bool :=
  d.counted || (match d.rowq with | [] => true | .open _ :: _ => true | _ => false) || decide (16 ≤ d.columns) || d.headWaits

/-- A boundary reached is counted once (R340, R341). -/
def Dray.reach (d : Dray) : Dray :=
  if d.atBoundary && !d.counted then { d with counted := true, boundaries := d.boundaries + 1, columns := 0 } else d

/-- A new clock ratio has been ordered for the stack of a channel (R346). -/
def State.draining (s : State) (ch : Nat) : Bool := (Cells.find s.ratioNext (ch / 512)).isSome

/-- A kernel thread may run: its dray is active, and a kernel that a new clock ratio suspends at a row boundary has not
reached one (R346). -/
def State.drayRuns (s : State) (ch : Nat) (d : Dray) : Bool := d.active && !(s.draining ch && d.counted)

/-- The common frame of a thread instruction of the address thread or of the arithmetic thread. -/
def drayOp (addr : Bool) (s : State) (f : Dray → DrayRes) : Host.Outcome State Fault Refusal :=
  match s.drayHere with
  | none => .fault .noIssuer
  | some (ch, a, d) =>
    if a ≠ addr then .fault .noIssuer
    else if !s.drayRuns ch d then .next s
    else match f d with
      | .stall => .next { s with drays := Cells.put s.drays ch d.reach }
      | .fault => .next { s with drays := Cells.put s.drays ch ({ d with faulted := true, endA := d.endA || addr,
                                                                          endX := d.endX || !addr } : Dray).reach }
      | .ok d => .next { s with drays := Cells.put s.drays ch d.reach }

/-- The next word of the address thread. -/
def Dray.nextA (d : Dray) : Dray := { d with pcA := d.pcA + 1 }

/-- The next word of the arithmetic thread. -/
def Dray.nextX (d : Dray) : Dray := { d with pcX := d.pcX + 1 }

def Dray.J (d : Dray) (n : BitVec 4) : Word := Cells.get 0 d.j n.toNat
def Dray.setJ (d : Dray) (n : BitVec 4) (x : Word) : Dray := { d with j := Cells.set 0 d.j n.toNat x }

/-! ### The address thread -/

/-- AEND: the address thread ends (R334). -/
def execAend (s : State) : Host.Outcome State Fault Refusal := drayOp true s fun d => .ok { d with endA := true }

/-- JMOVI (R334). -/
def execJmovi (d : BitVec 4) (v : BitVec 18) (s : State) : Host.Outcome State Fault Refusal :=
  drayOp true s fun y => .ok (y.setJ d (v.zeroExtend 32)).nextA

/-- JADDI (R334). -/
def execJaddi (d a : BitVec 4) (v : BitVec 18) (s : State) : Host.Outcome State Fault Refusal :=
  drayOp true s fun y => .ok (y.setJ d (y.J a + v.signExtend 32)).nextA

/-- JADD (R334). -/
def execJadd (d a b : BitVec 4) (s : State) : Host.Outcome State Fault Refusal :=
  drayOp true s fun y => .ok (y.setJ d (y.J a + y.J b)).nextA

/-- A branch target within a program of `len` words, counted from the branch word (R333, R335). -/
def drayTarget (len pc : Nat) (off : Int) : Option Nat :=
  let t := (pc : Int) + off
  if 0 ≤ t && t < len then some t.toNat else none

/-- JLOOP (R334). -/
def execJloop (d : BitVec 4) (o : BitVec 18) (s : State) : Host.Outcome State Fault Refusal :=
  drayOp true s fun y =>
    let x := y.J d - 1
    if x = 0 then .ok (y.setJ d x).nextA
    else match drayTarget y.progA.length y.pcA o.toInt with
      | some t => .ok { y.setJ d x with pcA := t }
      | none => .fault

/-- A command enqueued, unless a requirement fails; the thread stalls while the queue holds 16 (R332, R334). -/
def enqueue (s : State) (f : Dray → Option RowCmd) : Host.Outcome State Fault Refusal :=
  drayOp true s fun y =>
    match f y with
    | none => .fault
    | some c => if 16 ≤ y.rowq.length then .stall else .ok { y with rowq := y.rowq ++ [c] }.nextA

/-- OPEN (R334). -/
def execDrayOpen (r : BitVec 4) (s : State) : Host.Outcome State Fault Refusal :=
  enqueue s fun y => let j := (y.J r).toNat; if j < y.rows.length then some (.open j) else none

/-- READ of n sectors; the field holds n − 1 (R334). -/
def execDrayRead (r c : BitVec 4) (n : BitVec 2) (s : State) : Host.Outcome State Fault Refusal :=
  enqueue s fun y =>
    let j := (y.J r).toNat
    let k := (y.J c).toNat
    let m := n.toNat + 1
    if j < y.rows.length && k + m ≤ 64 then some (.read j k m) else none

/-- WBACK (R334). -/
def execDrayWback (k r c : BitVec 4) (f : BitVec 1) (s : State) : Host.Outcome State Fault Refusal :=
  enqueue s fun y =>
    let j := (y.J r).toNat
    let x := (y.J c).toNat
    let w := if f == 1 then 2 else 1
    if j < y.rows.length && x + w ≤ 64 then some (.wback j x k.toNat (f == 1)) else none

/-- CLOSE (R334). -/
def execDrayClose (r : BitVec 4) (s : State) : Host.Outcome State Fault Refusal :=
  enqueue s fun y => let j := (y.J r).toNat; if j < y.rows.length then some (.close j) else none

/-! ### The arithmetic thread -/

/-- XEND: the arithmetic thread ends (R337). -/
def execXend (s : State) : Host.Outcome State Fault Refusal := drayOp false s fun d => .ok { d with endX := true }

/-- Lane `i` of H register `n`. -/
def Dray.H (d : Dray) (n : BitVec 4) (i : Nat) : Word := Cells.get 0 d.h (16 * n.toNat + i)

/-- Sixteen lanes of a register table written. -/
def setLanes (t : Cells Word) (n : Nat) (f : Nat → Word) : Cells Word :=
  (List.range 16).foldl (fun t i => Cells.set 0 t (16 * n + i) (f i)) t

/-- Element `i` of `w` bytes of an entry of the data queue. -/
def entryElem (e : List Byte) (w i : Nat) : Nat := leNat ((e.drop (w * i)).take w)

/-- XPOP (R337). -/
def execXpop (d : BitVec 4) (f : BitVec 1) (s : State) : Host.Outcome State Fault Refusal :=
  drayOp false s fun y =>
    if f == 0 then
      match y.dataq with
      | e :: rest =>
        .ok { y with dataq := rest, h := setLanes y.h d.toNat fun i => round32 (fval bf16 (entryElem e 2 i)) }.nextX
      | [] => .stall
    else
      match y.dataq with
      | e :: g :: rest =>
        let lane (i : Nat) : Word := BitVec.ofNat 32 (if i < 8 then entryElem e 4 i else entryElem g 4 (i - 8))
        .ok { y with dataq := rest, h := setLanes y.h d.toNat lane }.nextX
      | _ => .stall

/-- H[d] lane i := f (H[d]i) (H[a]i) (x(i)), x being Fb in every lane with BF = 1 (R336, R337). -/
def drayArith (d a b : BitVec 4) (f : BitVec 1) (s : State) (op : Word → Word → Word → Word) :
    Host.Outcome State Fault Refusal :=
  drayOp false s fun y =>
    let lane (i : Nat) : Word := op (y.H d i) (y.H a i) (if f == 1 then Cells.get 0 y.f b.toNat else y.H b i)
    .ok { y with h := setLanes y.h d.toNat lane }.nextX

/-- XADD (R337). -/
def execXadd (d a b : BitVec 4) (f : BitVec 1) (s : State) : Host.Outcome State Fault Refusal :=
  drayArith d a b f s fun _ x y => round32 ((val32 x).add (val32 y))

/-- XMUL (R337). -/
def execXmul (d a b : BitVec 4) (f : BitVec 1) (s : State) : Host.Outcome State Fault Refusal :=
  drayArith d a b f s fun _ x y => round32 ((val32 x).mul (val32 y))

/-- XFMA: one rounding (R337). -/
def execXfma (d a b : BitVec 4) (f : BitVec 1) (s : State) : Host.Outcome State Fault Refusal :=
  drayArith d a b f s fun z x y => round32 ((val32 z).add ((val32 x).mul (val32 y)))

/-- XMAX (R65, R337). -/
def execXmax (d a b : BitVec 4) (f : BitVec 1) (s : State) : Host.Outcome State Fault Refusal :=
  drayArith d a b f s fun _ x y => BitVec.ofNat 32 (pickF fp32 true x.toNat y.toNat)

/-- XMIN (R65, R337). -/
def execXmin (d a b : BitVec 4) (f : BitVec 1) (s : State) : Host.Outcome State Fault Refusal :=
  drayArith d a b f s fun _ x y => BitVec.ofNat 32 (pickF fp32 false x.toNat y.toNat)

/-- XSET: waits until BAk's release count is zero (R337). -/
def execXset (k a : BitVec 4) (s : State) : Host.Outcome State Fault Refusal :=
  drayOp false s fun y =>
    if Cells.get 0 y.rel k.toNat ≠ 0 then .stall
    else .ok { y with ba := setLanes y.ba k.toNat (y.H a) }.nextX

/-- XACC: waits until BAk's release count is zero (R337). -/
def execXacc (k a : BitVec 4) (s : State) : Host.Outcome State Fault Refusal :=
  drayOp false s fun y =>
    if Cells.get 0 y.rel k.toNat ≠ 0 then .stall
    else
      let lane (i : Nat) : Word := round32 ((val32 (Cells.get 0 y.ba (16 * k.toNat + i))).add (val32 (y.H a i)))
      .ok { y with ba := setLanes y.ba k.toNat lane }.nextX

/-- XREL (R337). -/
def execXrel (k : BitVec 4) (s : State) : Host.Outcome State Fault Refusal :=
  drayOp false s fun y => .ok { y with rel := Cells.set 0 y.rel k.toNat (Cells.get 0 y.rel k.toNat + 1) }.nextX

/-- XCMOVI (R337). -/
def execXcmovi (d : BitVec 4) (v : BitVec 13) (s : State) : Host.Outcome State Fault Refusal :=
  drayOp false s fun y => .ok { y with c := Cells.set 0 y.c d.toNat (v.zeroExtend 16) }.nextX

/-- XLOOP (R337). -/
def execXloop (d : BitVec 4) (o : BitVec 13) (s : State) : Host.Outcome State Fault Refusal :=
  drayOp false s fun y =>
    let x : BitVec 16 := Cells.get 0 y.c d.toNat - 1
    let y' := { y with c := Cells.set 0 y.c d.toNat x }
    if x = 0 then .ok y'.nextX
    else match drayTarget y.progX.length y.pcX o.toInt with
      | some t => .ok { y' with pcX := t }
      | none => .fault

/-- The word that a thread runs next: none where it has ended, and a fault where its program counter has passed the last
word (R335). -/
def Dray.word (d : Dray) (addr : Bool) : Option (Option Word) :=
  if addr then (if d.endA then none else some d.progA[d.pcA]?)
  else if d.endX then none else some d.progX[d.pcX]?

/-- A thread that has passed its last word faults, if its kernel may run (R335, R346). -/
def State.drayPassed (s : State) (ch : Nat) (addr : Bool) : State :=
  { s with drays := Cells.modify s.drays ch fun d =>
      if s.drayRuns ch d then { d with faulted := true, endA := d.endA || addr, endX := d.endX || !addr } else d }

/-! ### Reduction packets -/

/-- A packet applied to its sector, element by element (R93, R345). -/
def State.applyPacket (s : State) (p : Packet) : State :=
  match tidElem p.fmt with
  | none => s
  | some k =>
    let w := k.width / 8
    (List.range (p.elems.length / w)).foldl (fun s i =>
      let a := p.sector + i * w
      let old := leNat (s.readStoN p.oid a w)
      s.writeLocs p.oid (.sto a) (leBytes w (transform p.op k k 0 (entryElem p.elems w i) old))) s

/-- The bank of a row handle (R328). -/
def Dray.bank (d : Dray) (j : Nat) : Nat := d.rows.getD j 0 / 2 ^ 20 % 16

/-- The bank of a packet's sector. -/
def Packet.bank (p : Packet) : Nat := p.sector / 2 ^ 20 % 16

/-- The row that a handle names is open, be it by another handle of the same row (R330, R334, R335). -/
def Dray.isOpen (d : Dray) (j : Nat) : Bool :=
  match Cells.find d.opened (d.bank j) with
  | some i => d.rows.getD i 0 / 2 ^ 20 = d.rows.getD j 0 / 2 ^ 20
  | none => false

/-- The row of a dray's channel that holds a sector is open. -/
def Dray.holds (d : Dray) (a : Nat) : Bool := d.opened.any fun p => d.rows.getD p.2 0 / 2 ^ 20 = a / 2 ^ 20

/-- The packets pending for rows that are released are applied in arrival order (R345). -/
def State.flush (s : State) (ch : Nat) (d : Dray) (released : Packet → Bool) : State :=
  let go := d.packets.filter released
  let s := { s with drays := Cells.put s.drays ch { d with packets := d.packets.filter fun p => !released p } }
  go.foldl State.applyPacket s

/-! ### Row boundaries -/

/-- The dray must open a window at this boundary: the eighth since the last, or an access that returns data waits (R341). -/
def State.windowDue (s : State) (ch : Nat) (d : Dray) : Bool := d.counted && (decide (8 ≤ d.boundaries) || s.dataWaits ch)

/-- Some dray of the node has faulted, or the node is being stopped: its drays stop at their next row boundary (R50,
R338). -/
def State.drayNodeFaulted (s : State) (node : Nat) : Bool :=
  (s.drays.any fun p => p.2.node = node && p.2.faulted)
    || match Cells.find s.nodes node with | some n => n.stop.isSome | none => false

/-- A kernel leaves a dray: every open row is closed, and what waits for the channel is served (R338, R339). -/
def State.endDray (s : State) (ch : Nat) (d : Dray) : State :=
  (s.flush ch { d with stopped := true, opened := [], rowq := [], dataq := [], endA := true, endX := true }
    fun _ => true).serveFree

/-- The command at the head of the row queue carried out (R334, R335): only where the boundary before it asks for no
window, no stop and no suspension. The boundary that may follow it is counted (R340). -/
def rowCommand (chan : Nat) (s : State) (f : State → Dray → RowCmd → Option State) : Host.Outcome State Fault Refusal :=
  whenRunning s <| match Cells.find s.drays chan with
  | none => .next s
  | some d =>
    if !d.active then .next s
    else
      let d := d.reach
      let s' := { s with drays := Cells.put s.drays chan d }
      if s.windowDue chan d || d.headWaits || (d.counted && s.draining chan) then .next s'
      else if d.counted && s.drayNodeFaulted d.node then .next (s.endDray chan d)
      else match d.rowq with
        | [] => .next s'
        | c :: rest => .next (match f s' { d with rowq := rest, counted := false } c with
          | some x => { x with drays := Cells.modify x.drays chan Dray.reach }
          | none => s')

/-- A command that finds its row closed faults (R335). -/
def State.drayFault (s : State) (ch : Nat) (d : Dray) : State :=
  { s with drays := Cells.put s.drays ch { d with faulted := true } }

/-- The storage address of a sector of a row in a channel (R328). -/
def sectorAddr (d : Dray) (chan j c : Nat) : Nat := d.rows.getD j 0 + chan % 512 * 2048 + 32 * c

/-- OPEN_COMMAND: a row already open in the bank is closed first, be it the same row; its packets are applied (R334,
R345). -/
def execOpenCommand (chan : Nat) (s : State) : Host.Outcome State Fault Refusal :=
  rowCommand chan s fun s d c =>
    match c with
    | .open j =>
      some (s.flush chan { d with opened := Cells.put d.opened (d.bank j) j } fun p => p.bank = d.bank j)
    | _ => none

/-- READ_COMMAND: all sectors are placed into the data queue (R332, R334). -/
def execReadCommand (chan : Nat) (s : State) : Host.Outcome State Fault Refusal :=
  rowCommand chan s fun s d c =>
    match c with
    | .read j k n =>
      if !d.isOpen j then some (s.drayFault chan d)
      else
        let data := (List.range n).map fun i => s.readStoN d.oid (sectorAddr d chan j (k + i)) 32
        some { s with drays := Cells.put s.drays chan { d with dataq := d.dataq ++ data, columns := d.columns + n } }
    | _ => none

/-- The bytes that WBACK writes (R334). -/
def wbackBytes (d : Dray) (k : Nat) (isFp32 : Bool) : List Byte :=
  (List.range 16).flatMap fun i =>
    let x := Cells.get 0 d.ba (16 * k + i)
    if isFp32 then leBytes 4 x.toNat else leBytes 2 (roundF bf16 0 false (val32 x))

/-- WBACK_COMMAND: a bank accumulator that was released is written (R334). -/
def execWbackCommand (chan : Nat) (s : State) : Host.Outcome State Fault Refusal :=
  rowCommand chan s fun s d c =>
    match c with
    | .wback j k b isFp32 =>
      if !d.isOpen j then some (s.drayFault chan d)
      else
        let s := s.writeLocs d.oid (.sto (sectorAddr d chan j k)) (wbackBytes d b isFp32)
        let d := { d with rel := Cells.set 0 d.rel b (Cells.get 0 d.rel b - 1), columns := d.columns + if isFp32 then 2 else 1 }
        some { s with drays := Cells.put s.drays chan d }
    | _ => none

/-- CLOSE_COMMAND (R334). -/
def execCloseCommand (chan : Nat) (s : State) : Host.Outcome State Fault Refusal :=
  rowCommand chan s fun s d c =>
    match c with
    | .close j =>
      if d.isOpen j then
        some (s.flush chan { d with opened := Cells.drop d.opened (d.bank j) } fun p => p.bank = d.bank j)
      else some { s with drays := Cells.put s.drays chan d }
    | _ => none

/-! ### Windows and the end of a kernel -/

/-- ARBITRATION_WINDOW (R341): pending packets are applied, and the accesses that wait are served in arrival order. -/
def execArbitrationWindow (chan : Nat) (s : State) : Host.Outcome State Fault Refusal :=
  whenRunning s <| match Cells.find s.drays chan with
  | none => .next s
  | some d =>
    let r := d.reach
    if d.active && s.windowDue chan r && !s.draining chan then
      .next (s.flush chan { r with window := true, boundaries := 0 } fun _ => true).serveFree
    else .next s

/-- WINDOW_EXPIRY (R341): the held rows are open again, and the kernel resumes. DESIGN CHOICE (log entry 54): not before what
waited for the channel when the window opened has been served, which may wait for another channel. -/
def execWindowExpiry (chan : Nat) (s : State) : Host.Outcome State Fault Refusal :=
  whenRunning s <|
    if s.arrivals.any fun w => w.chan = chan then .next s
    else .next { s with drays := Cells.modify s.drays chan fun d => { d with window := false } }

/-- DRAY_KERNEL_END (R338): both threads have ended and the row queue is empty, or the node has faulted and the dray stands
at a row boundary. -/
def execDrayKernelEnd (chan : Nat) (s : State) : Host.Outcome State Fault Refusal :=
  whenRunning s <| match Cells.find s.drays chan with
  | none => .next s
  | some d =>
    if !s.drayRuns chan d then .next s
    else if (d.endA && d.endX && d.rowq.isEmpty) || (d.atBoundary && s.drayNodeFaulted d.node) then
      .next (s.endDray chan d)
    else .next s

/-- The dray that keeps a packet until the row of its sector is released, if it is held (R345). -/
def State.keepsPacket (s : State) (p : Packet) : Option Dray :=
  (Cells.find s.drays (channelOf p.sector)).filter fun d => d.active && d.holds p.sector

/-- A reduction packet arrives at the dray of its sector (R345): kept until the row's next release, or applied at once. -/
def State.arrivePacket (s : State) (p : Packet) : State :=
  match s.keepsPacket p with
  | some d => { s with drays := Cells.put s.drays (channelOf p.sector) { d with packets := d.packets ++ [p] } }
  | none => s.applyPacket p

/-- A packet is admitted on this part's fabric links, under the widest class, since it names none, or refused with a hint and no
effect (R345, R394; log entry 24): where the dray's buffer is full, the retry time, when it will have a place, depends on what the
kernel does next and so is free. A refusal is counted (R402). A packet to a stack that awaits its ratio stalls (R346). -/
def State.takePacket (s : State) (p : Packet) : State :=
  let refuse (h : Nat) : State := { s.count 0x307 with peerHint := some h }
  if s.draining (channelOf p.sector) then s.markWaiting [channelOf p.sector] false
  else if (s.keepsPacket p).any fun d => decide (64 ≤ d.packets.length) then refuse (Config.choose s.tick 4 % 524288 + 1)
  else match s.tryAdmit p.oid 7 16 [] [.spread 0x19 p.elems.length] with
    | .error h => refuse h
    | .ok s => { s with peerHint := none }.arrivePacket p

/-- REDUCTION_PACKET (R345, R394): an element type that a transform takes, at most 32 bytes of elements, in an HBM
sector. -/
def execReductionPacket (oid pa fmt op : Nat) (elems : List Byte) (s : State) : Host.Outcome State Fault Refusal :=
  whenRunning s <|
    if pa < 2 ^ 39 && pa % 32 = 0 && elems.length ≤ 32 && xfFmt fmt && fmt ≤ 10 && 4 ≤ op && op ≤ 6 && s.fabricOn then
      .next (s.takePacket { oid := oid, sector := pa, fmt := fmt, op := op, elems := elems })
    else .next s

/-! ### Clock ratios -/

/-- Every kernel on a stack stands suspended at a row boundary, or has left (R346). -/
def State.drained (s : State) (stack : Nat) : Bool :=
  s.drays.all fun p => p.1 / 512 ≠ stack || p.2.counted || p.2.saved || p.2.stopped

/-- CLOCK_RATIO_CHANGE (R346, R347): the first orders a ratio: new requests to the stack stall, and its kernels suspend at
their next row boundaries. A later one finds the drain point: the ratio takes effect, and what stalled proceeds. What is
inside the crossing completes under the old ratio, which no value shows. -/
def execClockRatioChange (stack num den : Nat) (s : State) : Host.Outcome State Fault Refusal :=
  whenRunning s <| match Cells.find s.ratioNext stack with
  | none =>
    if stack < 8 && 0 < den then .next { s with ratioNext := Cells.put s.ratioNext stack (num, den) } else .next s
  | some r =>
    if s.drained stack then
      .next { s with ratios := Cells.put s.ratios stack r, ratioNext := Cells.drop s.ratioNext stack }.serveFree
    else .next s

end Sys2Proof.Machine
end

