-- ==== Sys2Proof/Machine/Rational.lean ====
section
/-!
DEFINITION. Exact quotients and the convex piecewise-linear functions of the envelope unit (spec/27_envelope.md R356, R357,
R361, R368, R369, R374).
-/

namespace Sys2Proof.Machine

/-- A quotient `num / den` with `den` above 0. -/
structure Quot where
  num : Int
  den : Nat
deriving DecidableEq, Repr

def Quot.zero : Quot := ⟨0, 1⟩
def Quot.add (a b : Quot) : Quot := ⟨a.num * b.den + b.num * a.den, a.den * b.den⟩
def Quot.neg (a : Quot) : Quot := ⟨-a.num, a.den⟩
def Quot.sub (a b : Quot) : Quot := a.add b.neg
def Quot.mul (a b : Quot) : Quot := ⟨a.num * b.num, a.den * b.den⟩

/-- a / b for b other than 0. -/
def Quot.div (a b : Quot) : Quot := if 0 ≤ b.num then ⟨a.num * b.den, a.den * b.num.natAbs⟩ else ⟨-(a.num * b.den), a.den * b.num.natAbs⟩

def Quot.lt (a b : Quot) : Bool := decide (a.num * b.den < b.num * a.den)
def Quot.le (a b : Quot) : Bool := decide (a.num * b.den ≤ b.num * a.den)
def Quot.eq (a b : Quot) : Bool := decide (a.num * b.den = b.num * a.den)
def Quot.max (a b : Quot) : Quot := if a.lt b then b else a
def Quot.min (a b : Quot) : Quot := if b.lt a then b else a

/-- The quotient that finite FP32 bits stand for; 0 for other bits. -/
def quotOf (x : Word) : Quot :=
  match val32 x with
  | .fin n m e => let p := scaleQuot m 1 e; ⟨signedNat n p.1, p.2⟩
  | _ => .zero

/-- A quotient rounded to FP32; zero gives +0 (R361). -/
def roundQ (mode : Nat) (sat : Bool) (q : Quot) : Word :=
  if q.num = 0 then 0 else BitVec.ofNat 32 (roundRat fp32 mode sat (decide (q.num < 0)) q.num.natAbs q.den)

/-- A bound: −∞, a quotient, or +∞. -/
inductive Bound where
  | neg
  | fin (q : Quot)
  | pos
deriving DecidableEq, Repr

/-- The bound that FP32 bits stand for. -/
def boundOf (x : Word) : Bound :=
  match val32 x with
  | .inf true => .neg
  | .inf false => .pos
  | _ => .fin (quotOf x)

def Bound.lt : Bound → Bound → Bool
  | .neg, .neg => false
  | .neg, _ => true
  | .fin _, .neg => false
  | .fin a, .fin b => a.lt b
  | .fin _, .pos => true
  | .pos, _ => false

def Bound.max (a b : Bound) : Bound := if a.lt b then b else a
def Bound.min (a b : Bound) : Bound := if b.lt a then b else a

/-- A bound rounded outward to FP32, LO by mode 3 and HI by mode 2 (R361). -/
def Bound.round (mode : Nat) : Bound → Word
  | .neg => 0xFF800000
  | .pos => 0x7F800000
  | .fin q => roundQ mode false q

/-- The sum of two lower or of two upper bounds. -/
def Bound.add (a b : Bound) : Bound :=
  match a, b with
  | .neg, _ => .neg
  | _, .neg => .neg
  | .pos, _ => .pos
  | _, .pos => .pos
  | .fin x, .fin y => .fin (x.add y)

/-! ### Lines -/

/-- A line of an envelope register: FP32 slope and intercept. -/
abbrev Line := Word × Word

def Line.slope (l : Line) : Quot := quotOf l.1
def Line.icept (l : Line) : Quot := quotOf l.2

/-- a·x + b. -/
def Line.at_ (l : Line) (x : Quot) : Quot := (l.slope.mul x).add l.icept

/-- Where a line of smaller slope meets one of larger slope. -/
def crossing (l r : Line) : Quot := (l.icept.sub r.icept).div (r.slope.sub l.slope)

/-- Insertion by increasing slope; of equal slopes the larger intercept is kept, of equal lines the one already held
(R357). -/
def insertLine (n : Line) : List Line → List Line
  | [] => [n]
  | l :: rest =>
    if n.slope.lt l.slope then n :: l :: rest
    else if n.slope.eq l.slope then (if l.icept.lt n.icept then n :: rest else l :: rest)
    else l :: insertLine n rest

/-- The open interval on which a line is the strict maximum of lines of other slopes, within a domain. -/
def strictRange (ls : List Line) (lo hi : Bound) (l : Line) : Bound × Bound :=
  ls.foldl (fun r o =>
    if o.slope.lt l.slope then (r.1.max (.fin (crossing o l)), r.2)
    else if l.slope.lt o.slope then (r.1, r.2.min (.fin (crossing l o)))
    else r) (lo, hi)

/-- The canonical form of a sequence of lines on a domain (R357). -/
def canonical (lo hi : Word) (seq : List Line) : List Line :=
  match boundOf lo, boundOf hi with
  | .fin x, .fin y =>
    if x.eq y then
      match seq with
      | [] => []
      | l :: rest => [rest.foldl (fun best n => if (best.at_ x).lt (n.at_ x) then n else best) l]
    else
      let ls := seq.foldl (fun acc l => insertLine l acc) []
      ls.filter fun l => let r := strictRange ls (.fin x) (.fin y) l; r.1.lt r.2
  | a, b =>
    let ls := seq.foldl (fun acc l => insertLine l acc) []
    ls.filter fun l => let r := strictRange ls a b l; r.1.lt r.2

/-- A line with exact coefficients, each rounded once with saturation (R361). -/
def roundLine (a b : Quot) : Line := (roundQ 0 true a, roundQ 0 true b)

/-- The breakpoints of lines in canonical form. -/
def breakpoints : List Line → List Quot
  | l :: r :: rest => crossing l r :: breakpoints (r :: rest)
  | _ => []

/-- The maximum of lines at a point. -/
def evalLines (ls : List Line) (x : Quot) : Quot :=
  match ls with
  | [] => .zero
  | l :: rest => rest.foldl (fun m n => m.max (n.at_ x)) (l.at_ x)

/-- Insertion into a rising list of quotients without repeats. -/
def insertQuot (q : Quot) : List Quot → List Quot
  | [] => [q]
  | x :: rest => if q.lt x then q :: x :: rest else if q.eq x then x :: rest else x :: insertQuot q rest

/-- The vertices of R369: finite ends and breakpoints, in increasing order. -/
def vertices (lo hi : Bound) (ls : List Line) : List Quot :=
  (match lo with | .fin x => [x] | _ => []) ++ breakpoints ls ++ (match hi with | .fin x => [x] | _ => [])

/-- The conjugate at a slope in its finite range (R368, R369). -/
def conjAt (lo hi : Bound) (ls : List Line) (s : Quot) : Quot :=
  match ls.find? fun l => l.slope.eq s with
  | some l => l.icept.neg
  | none =>
    match (vertices lo hi ls).map fun x => (s.mul x).sub (evalLines ls x) with
    | [] => .zero
    | v :: rest => rest.foldl Quot.max v

end Sys2Proof.Machine
end

