-- ==== Sys2Proof/Machine/Envelope.lean ====
section
/-!
DEFINITION. The envelope unit (spec/27_envelope.md R356 to R374).
-/

namespace Sys2Proof.Machine

/-! ### Registers and checks -/

/-- The team holds the unit (R358). -/
def Here.okEnvu (h : Here) : Except Stop Unit := if h.t.envu then .ok () else .error illegal

def Here.env (h : Here) (i : BitVec 4) : Env := Cells.get {} h.t.envs i.toNat

/-- A result written, unless it exceeds CAP (R360). -/
def Here.setEnv (h : Here) (i : BitVec 4) (e : Env) : Except Stop Here :=
  if h.c.ecap.toNat < e.lines.length then .error (raise .breakpointOverflow)
  else .ok { h with t := { h.t with envs := Cells.set {} h.t.envs i.toNat e } }

/-- The function that is +∞ everywhere (R356). -/
def voidEnv : Env := { lines := [], lo := 0x7F800000, hi := 0xFF800000, void := true }

/-- The function that is −∞ on a domain. -/
def bottomEnv (lo hi : Word) (empty : Bool) : Env := { lines := [], lo := lo, hi := hi, empty := empty }

/-- A domain that obeys R356. -/
def okDomain (lo hi : Word) : Bool :=
  val32 lo ≠ .nan && val32 hi ≠ .nan && val32 lo ≠ .inf false && val32 hi ≠ .inf true
    && !(boundOf hi).lt (boundOf lo)

/-- The canonical form of candidate lines on a domain (R357, R361). -/
def envOn (lo hi : Word) (seq : List Line) : Env := { lines := canonical lo hi seq, lo := lo, hi := hi }

/-! ### Clearing and inserting -/

/-- ENVCLR (R365): `given` says that the domain pair r is named. -/
def execEnvclr (sw : Bool) (d : BitVec 4) (r : BitVec 8) (given : BitVec 1) (s : State) :
    Host.Outcome State Fault Refusal :=
  nativeHere sw false s fun h => do
    h.okEnvu
    if given == 1 then
      if 248 ≤ r.toNat then .error illegal
      h.okUPair r
      let lo := (h.u r.toNat).1
      let hi := (h.u (r.toNat + 1)).1
      if !okDomain lo hi then .error (raise .requestArgs)
      h.setEnv d (bottomEnv lo hi false)
    else h.setEnv d {}

/-- A coefficient is finite. -/
def finite32 (x : Word) : Bool := match val32 x with | .fin _ _ _ => true | _ => false

/-- ENVINS (R366): one line from each active lane. -/
def execEnvins (sw : Bool) (d : BitVec 4) (a : BitVec 8) (s : State) : Host.Outcome State Fault Refusal :=
  nativeHere sw false s fun h => do
    h.okEnvu
    if a.toNat % 2 ≠ 0 || 192 ≤ a.toNat then .error illegal
    h.okVs a.toNat 2
    let e := h.env d
    if h.g.exec = 0 then pure h
    else if e.void then h.setEnv d { e with empty := false }
    else
      let new := (lanesOf h.g.exec).filterMap fun l =>
        let x := h.v a.toNat l
        let y := h.v (a.toNat + 1) l
        if finite32 x && finite32 y then some (x, y) else none
      h.setEnv d (envOn e.lo e.hi (e.lines ++ new))

/-! ### Sum and maximum -/

/-- The intersection of two domains (R367). -/
def meetDomain (a b : Env) : Bound × Bound := ((boundOf a.lo).max (boundOf b.lo), (boundOf a.hi).min (boundOf b.hi))

/-- The line of an operand that holds just above a point of its domain: as many breakpoints as are not above it. -/
def lineAbove (ls : List Line) (x : Bound) : Line :=
  ls.getD ((breakpoints ls).filter fun p => !x.lt (.fin p)).length (ls.getLastD (0, 0))

/-- The candidate sequence of ENVSUM (R367). -/
def sumLines (a b : List Line) (lo hi : Bound) : List Line :=
  let add (l m : Line) : Line := roundLine (l.slope.add m.slope) (l.icept.add m.icept)
  if !lo.lt hi then a.flatMap fun l => b.map fun m => add l m
  else
    let inner := ((breakpoints a ++ breakpoints b).filter fun p => lo.lt (.fin p) && (Bound.fin p).lt hi).foldl
      (fun acc p => insertQuot p acc) []
    (lo :: inner.map Bound.fin).map fun x => add (lineAbove a x) (lineAbove b x)

/-- The cases of R367; `both` forms the candidate lines where both operands hold some. -/
def combine (a b : Env) (lone : Bool) (both : Bound → Bound → List Line) : Env :=
  let i := meetDomain a b
  if a.void || b.void || i.2.lt i.1 then voidEnv
  else
    let lo := i.1.round 3
    let hi := i.2.round 2
    if a.lines.isEmpty && b.lines.isEmpty then bottomEnv lo hi false
    else if a.lines.isEmpty || b.lines.isEmpty then
      if lone then envOn lo hi (a.lines ++ b.lines) else bottomEnv lo hi false
    else envOn lo hi (both i.1 i.2)

/-- ENVSUM (R367). -/
def execEnvsum (sw : Bool) (a d b : BitVec 4) (s : State) : Host.Outcome State Fault Refusal :=
  nativeHere sw false s fun h => do
    h.okEnvu
    let x := h.env a
    let y := h.env b
    h.setEnv d (combine x y false (sumLines x.lines y.lines))

/-- ENVMAX (R367). -/
def execEnvmax (sw : Bool) (a d b : BitVec 4) (s : State) : Host.Outcome State Fault Refusal :=
  nativeHere sw false s fun h => do
    h.okEnvu
    let x := h.env a
    let y := h.env b
    h.setEnv d (combine x y true fun _ _ => x.lines ++ y.lines)

/-! ### Infimal convolution -/

/-- SR of a function with lines (R361). -/
def slopeRange (e : Env) : Bound × Bound :=
  ((if boundOf e.lo = .neg then .fin ((e.lines.map Line.slope).headD .zero) else .neg),
    (if boundOf e.hi = .pos then .fin ((e.lines.map Line.slope).getLastD .zero) else .pos))

/-- A function on one point. -/
def Env.point (e : Env) : Bool := !(boundOf e.lo).lt (boundOf e.hi)

/-- The candidate lines of ENVCONV in increasing slope: for each piece slope in both slope ranges, the line of the
convolution with that slope (R368). A function on one point has no piece of length, unless both are such. -/
def convLines (a b : Env) (lo hi : Bound) : List Line :=
  let both := a.point && b.point
  let pieces (e : Env) : List Quot := if e.point && !both then [] else e.lines.map Line.slope
  let slopes := (pieces a ++ pieces b).filter fun s => !(Bound.fin s).lt lo && !hi.lt (.fin s)
  (slopes.foldl (fun acc s => insertQuot s acc) []).map fun s =>
    roundLine s ((conjAt (boundOf a.lo) (boundOf a.hi) a.lines s).add
      (conjAt (boundOf b.lo) (boundOf b.hi) b.lines s)).neg

/-- ENVCONV (R368). -/
def execEnvconv (sw : Bool) (a d b : BitVec 4) (s : State) : Host.Outcome State Fault Refusal :=
  nativeHere sw false s fun h => do
    h.okEnvu
    let x := h.env a
    let y := h.env b
    let lo := ((boundOf x.lo).add (boundOf y.lo)).round 3
    let hi := ((boundOf x.hi).add (boundOf y.hi)).round 2
    h.setEnv d
      (if x.void || y.void then voidEnv
      else if x.lines.isEmpty || y.lines.isEmpty then bottomEnv lo hi false
      else
        let p := slopeRange x
        let q := slopeRange y
        let sl := p.1.max q.1
        let sh := p.2.min q.2
        if sh.lt sl then bottomEnv lo hi true else envOn lo hi (convLines x y sl sh))

/-! ### Legendre conjugate -/

/-- The conjugate of a register (R369). -/
def conjugate (e : Env) : Env :=
  let lo := boundOf e.lo
  let hi := boundOf e.hi
  if e.void then {}
  else match e.lines with
    | [] => voidEnv
    | (l : Line) :: rest =>
      if rest.isEmpty && lo = .neg && hi = .pos then
        envOn (roundQ 3 false (Line.slope l)) (roundQ 2 false (Line.slope l)) [roundLine .zero (Line.icept l).neg]
      else
        let r := slopeRange e
        envOn (r.1.round 3) (r.2.round 2)
          ((vertices lo hi e.lines).map fun x => roundLine x (evalLines e.lines x).neg)

/-- ENVLEG (R369). -/
def execEnvleg (sw : Bool) (a d : BitVec 4) (s : State) : Host.Outcome State Fault Refusal :=
  nativeHere sw false s fun h => do
    h.okEnvu
    h.setEnv d (conjugate (h.env a))

/-! ### Evaluation -/

/-- The value of a register at FP32 bits (R370). -/
def evalEnv (e : Env) (x : Word) : Word :=
  if val32 x = .nan then 0x7FC00000
  else if e.void || (boundOf x).lt (boundOf e.lo) || (boundOf e.hi).lt (boundOf x) then 0x7F800000
  else
    let first : Line := e.lines.headD (0, 0)
    let last : Line := e.lines.getLastD (0, 0)
    let zeroed (b : Word) : Word := roundQ 0 false (quotOf b)
    if e.lines.isEmpty then 0xFF800000
    else match boundOf x with
      | .fin q => roundQ 0 false (evalLines e.lines q)
      | .pos => if 0 < last.slope.num then 0x7F800000 else if last.slope.num = 0 then zeroed last.2 else 0xFF800000
      | .neg => if first.slope.num < 0 then 0x7F800000 else if first.slope.num = 0 then zeroed first.2 else 0xFF800000

/-- ENVEVAL (R370): a long result. -/
def execEnveval (sw : Bool) (d x : BitVec 8) (a : BitVec 4) (s : State) : Host.Outcome State Fault Refusal :=
  nativeHere sw false s fun h => do
    h.okEnvu
    if 192 ≤ d.toNat then .error illegal
    h.okV d.toNat; h.okL x
    let e := h.env a
    let lanes := lanesOf h.g.exec
    let g := h.eachLane fun g l => let v := h.l x.toNat l; g.setV d.toNat l (evalEnv e v.1) v.2
    pure (if lanes.isEmpty then g else g.long (lanes.map (keyV d.toNat)))

/-! ### Load and store -/

/-- The base of an image: no T register, a pair for GLOBAL, and a multiple of 16 (R362, R372). -/
def Here.envBase (h : Here) (space : Nat) (r : BitVec 8) : Except Stop Nat := do
  if 248 ≤ r.toNat then .error illegal
  h.okUBlock r (if space = spaceGlobal then 2 else 1)
  let ea := if space = spaceGlobal then (h.uPair r.toNat).1.toNat else (h.u r.toNat).1.toNat
  if ea % 16 ≠ 0 then .error (.trap { cause := .misaligned, space := space, addr := recAddr ea })
  pure ea

/-- `n` aligned units of 8 bytes, each checked by R243 in increasing order (R372, R373). -/
def State.envUnits (s : State) (h : Here) (space : Nat) (acc : Access) : Nat → Nat → Except Stop (List Checked)
  | _, 0 => .ok []
  | ea, n + 1 => do
    let c ← s.checkOnce h.agent space 0 8 acc ea
    if acc = .load then s.channelHold c.loc 8
    let rest ← s.envUnits h space acc (ea + 8) n
    pure (c :: rest)

/-- The two words of each unit. -/
def State.unitWords (s : State) (h : Here) (cs : List Checked) : List Word :=
  cs.flatMap fun c => bytesWords (s.readData h.agent c.loc c.leaf 8)

/-- Consecutive words in pairs. -/
def pairsOf : List Word → List Line
  | a :: b :: r => (a, b) :: pairsOf r
  | _ => []

/-- A header that R372 refuses. -/
def badHeader (w : List Word) : Bool :=
  let x := (w.getD 0 0).toNat
  let void := fld x 31 1
  let empty := fld x 30 1
  let n := fld x 0 11
  fld x 11 19 != 0 || w.getD 1 0 != 0 || decide (1024 < n) || (void == 1 && (n != 0 || empty == 1))
    || (void == 0 && !okDomain (w.getD 2 0) (w.getD 3 0)) || (empty == 1 && n != 0)

/-- ENVLD (R371 to R373). -/
def execEnvld (sw : Bool) (wh : BitVec 3) (d : BitVec 4) (r : BitVec 8) (s : State) :
    Host.Outcome State Fault Refusal :=
  native sw false s fun s h => do
    h.okEnvu
    let space := spaceOfWh wh.toNat
    let ea ← h.envBase space r
    let head ← s.envUnits h space .load ea 2
    let w := s.unitWords h head
    if badHeader w then .error (raise .requestArgs)
    let x := (w.getD 0 0).toNat
    let body ← s.envUnits h space .load (ea + 16) (fld x 0 11)
    let ls := pairsOf (s.unitWords h body)
    if !ls.all fun l => finite32 l.1 && finite32 l.2 then .error (raise .requestArgs)
    let e := if fld x 31 1 = 1 then voidEnv
      else { envOn (w.getD 2 0) (w.getD 3 0) ls with empty := fld x 30 1 == 1 }
    let h' ← h.setEnv d e
    pure (s.noteAll h.agent space (head ++ body), (h'.sawAll s 8 (h.order space none) (head ++ body)).fenced space)

/-- The words of an image (R371). -/
def envImage (e : Env) : List Word :=
  [BitVec.ofNat 32 (pack [(1, bit e.void), (1, bit e.empty), (19, 0), (11, e.lines.length)]), 0,
    if e.void then 0x7F800000 else e.lo, if e.void then 0xFF800000 else e.hi] ++ e.lines.flatMap fun l => [l.1, l.2]

/-- ENVST (R371 to R373). -/
def execEnvst (sw : Bool) (wh : BitVec 3) (d : BitVec 4) (r : BitVec 8) (s : State) :
    Host.Outcome State Fault Refusal :=
  native sw false s fun s h => do
    h.okEnvu
    let space := spaceOfWh wh.toNat
    let ea ← h.envBase space r
    let ws := envImage (h.env d)
    let cs ← s.envUnits h space .store ea (2 + (h.env d).lines.length)
    let s' := (cs.zipIdx).foldl (fun s p =>
      s.storeData h p.1.loc p.1.leaf (h.c.releases h.spot none) (wordBytes [ws.getD (2 * p.2) 0, ws.getD (2 * p.2 + 1) 0])) s
    pure (s'.noteAll h.agent space cs,
      ((cs.foldl (fun g c => g.markDirty c.loc 8) h).onCoach fun c => c.wrote s s').fenced space)

/-! ### Simplification -/

/-- The supremum of f − g over the domain, for lines g among those of f; nothing where it is infinite (R374). -/
def maxGap (lo hi : Bound) (f g : List Line) : Option Quot :=
  let ends : Bool :=
    (lo = .neg && !((f.headD (0, 0)).slope.eq (g.headD (0, 0)).slope))
      || (hi = .pos && !((f.getLastD (0, 0)).slope.eq (g.getLastD (0, 0)).slope))
  if ends then none
  else
    let pts := (vertices lo hi f ++ breakpoints g).filter fun p => !(Bound.fin p).lt lo && !hi.lt (.fin p)
    some (pts.foldl (fun m x => m.max ((evalLines f x).sub (evalLines g x))) .zero)

/-- A gap is at most TOL (R359, R374). -/
def withinTol (tol : Word) (gap : Option Quot) : Bool :=
  match boundOf tol, gap with
  | .pos, _ => true
  | .fin t, some g => g.le t
  | _, _ => false

/-- The lines that ENVSIMP keeps (R374): each line of Ea in increasing slope is tried in turn. -/
def simplify (tol : Word) (lo hi : Bound) (f : List Line) : List Line → List Line → List Line
  | [], kept => kept
  | l :: rest, kept =>
    let g := kept.filter (· ≠ l)
    if 1 < kept.length && withinTol tol (maxGap lo hi f g) then simplify tol lo hi f rest g
    else simplify tol lo hi f rest kept

/-- ENVSIMP (R374). -/
def execEnvsimp (sw : Bool) (a d : BitVec 4) (s : State) : Host.Outcome State Fault Refusal :=
  nativeHere sw false s fun h => do
    h.okEnvu
    let e := h.env a
    h.setEnv d
      (if e.void || e.lines.isEmpty then e
      else { e with lines := simplify h.c.etol (boundOf e.lo) (boundOf e.hi) e.lines e.lines e.lines, empty := false })

end Sys2Proof.Machine
end

