-- ==== Sys2Proof/Machine/Float.lean ====
section
/-!
DEFINITION. Lane floating point, special functions and conversions (spec/15_instr_lane.md R231 to R236).
-/

namespace Sys2Proof.Machine

/-- FP32 add rounded once (R232). -/
def execFadd (sw : Bool) (d a b : BitVec 8) (s : State) : Host.Outcome State Fault Refusal :=
  laneBin sw d a b s fadd

/-- FP32 subtract (R232). -/
def execFsub (sw : Bool) (d a b : BitVec 8) (s : State) : Host.Outcome State Fault Refusal :=
  laneBin sw d a b s fsub

/-- FP32 multiply (R232). -/
def execFmul (sw : Bool) (d a b : BitVec 8) (s : State) : Host.Outcome State Fault Refusal :=
  laneBin sw d a b s fmul

/-- FP32 fused multiply-add into the old destination (R232). -/
def execFfma (sw : Bool) (d a b : BitVec 8) (s : State) : Host.Outcome State Fault Refusal :=
  laneTern sw d a b s true ffma

/-- FP32 minimum ignoring NaN (R233). -/
def execFmin (sw : Bool) (d a b : BitVec 8) (s : State) : Host.Outcome State Fault Refusal :=
  laneBin sw d a b s fmin

/-- FP32 maximum ignoring NaN (R233). -/
def execFmax (sw : Bool) (d a b : BitVec 8) (s : State) : Host.Outcome State Fault Refusal :=
  laneBin sw d a b s fmax

/-- FP32 compare equal (R233). -/
def execFceq (sw : Bool) (d a b : BitVec 8) (s : State) : Host.Outcome State Fault Refusal :=
  laneBin sw d a b s fceq

/-- FP32 compare less-than (R233). -/
def execFclt (sw : Bool) (d a b : BitVec 8) (s : State) : Host.Outcome State Fault Refusal :=
  laneBin sw d a b s fclt

/-- FP32 compare less-or-equal (R233). -/
def execFcle (sw : Bool) (d a b : BitVec 8) (s : State) : Host.Outcome State Fault Refusal :=
  laneBin sw d a b s fcle

/-- Packed FP16 add (R234). -/
def execHadd2 (sw : Bool) (d a b : BitVec 8) (s : State) : Host.Outcome State Fault Refusal :=
  laneBin sw d a b s (halfAdd fp16)

/-- Packed FP16 fused multiply-add (R234). -/
def execHfma2 (sw : Bool) (d a b : BitVec 8) (s : State) : Host.Outcome State Fault Refusal :=
  laneTern sw d a b s true (halfFma fp16)

/-- Packed BF16 add (R234). -/
def execBadd2 (sw : Bool) (d a b : BitVec 8) (s : State) : Host.Outcome State Fault Refusal :=
  laneBin sw d a b s (halfAdd bf16)

/-- Packed BF16 fused multiply-add (R234). -/
def execBfma2 (sw : Bool) (d a b : BitVec 8) (s : State) : Host.Outcome State Fault Refusal :=
  laneTern sw d a b s true (halfFma bf16)

/-- SFN: the function of code `fn` of R235 in each active lane; the result is long (R177). -/
def laneSfn (sw : Bool) (d a : BitVec 8) (s : State) (fn : Nat) : Host.Outcome State Fault Refusal :=
  nativeHere sw false s fun h => do
    h.okLDst d; h.okL a
    let k := h.eachLane fun k l => let x := h.l a.toNat l; k.setL d.toNat l (sfnWord fn x.1) x.2
    pure (k.long ((lanesOf h.g.exec).map (laneKey d.toNat)))

/-- Correctly rounded 2^x, long result (R235). -/
def execExp2 (sw : Bool) (d a : BitVec 8) (s : State) : Host.Outcome State Fault Refusal :=
  laneSfn sw d a s 0

/-- Correctly rounded log2 x (R235). -/
def execLog2 (sw : Bool) (d a : BitVec 8) (s : State) : Host.Outcome State Fault Refusal :=
  laneSfn sw d a s 1

/-- Correctly rounded reciprocal (R235). -/
def execRcp (sw : Bool) (d a : BitVec 8) (s : State) : Host.Outcome State Fault Refusal :=
  laneSfn sw d a s 2

/-- Correctly rounded reciprocal square root (R235). -/
def execRsqrt (sw : Bool) (d a : BitVec 8) (s : State) : Host.Outcome State Fault Refusal :=
  laneSfn sw d a s 3

/-- Correctly rounded sin(2πx) (R235). -/
def execSin (sw : Bool) (d a : BitVec 8) (s : State) : Host.Outcome State Fault Refusal :=
  laneSfn sw d a s 4

/-- Correctly rounded cos(2πx) (R235). -/
def execCos (sw : Bool) (d a : BitVec 8) (s : State) : Host.Outcome State Fault Refusal :=
  laneSfn sw d a s 5

/-- Packed format conversion without saturation (R236). -/
def execCvt (sw : Bool) (d a : BitVec 8) (rm : BitVec 2) (tgt src : BitVec 3) (s : State) : Host.Outcome State Fault Refusal :=
  laneImm sw d a s (fun _ => 0) fun x _ =>
    BitVec.ofNat 32 (cvtWord rm.toNat tgt.toNat src.toNat false x.toNat)

/-- Packed format conversion with saturation (R236). -/
def execCvts (sw : Bool) (d a : BitVec 8) (rm : BitVec 2) (tgt src : BitVec 3) (s : State) : Host.Outcome State Fault Refusal :=
  laneImm sw d a s (fun _ => 0) fun x _ =>
    BitVec.ofNat 32 (cvtWord rm.toNat tgt.toNat src.toNat true x.toNat)

end Sys2Proof.Machine
end

