-- ==== Sys2Proof/Machine/Lane.lean ====
section
/-!
DEFINITION. Lane integer and packed integer arithmetic (spec/15_instr_lane.md R224 to R230).
-/

namespace Sys2Proof.Machine

/-- Lane 32-bit add (R224). -/
def execIadd (sw : Bool) (d a b : BitVec 8) (s : State) : Host.Outcome State Fault Refusal :=
  laneBin sw d a b s (fun x y => x + y)

/-- Lane 32-bit subtract (R224). -/
def execIsub (sw : Bool) (d a b : BitVec 8) (s : State) : Host.Outcome State Fault Refusal :=
  laneBin sw d a b s (fun x y => x - y)

/-- Lane multiply, low word (R224). -/
def execImul (sw : Bool) (d a b : BitVec 8) (s : State) : Host.Outcome State Fault Refusal :=
  laneBin sw d a b s (fun x y => x * y)

/-- Lane signed multiply, high word (R224). -/
def execImulh (sw : Bool) (d a b : BitVec 8) (s : State) : Host.Outcome State Fault Refusal :=
  laneBin sw d a b s mulhS

/-- Lane unsigned multiply, high word (R224). -/
def execImulhu (sw : Bool) (d a b : BitVec 8) (s : State) : Host.Outcome State Fault Refusal :=
  laneBin sw d a b s mulhU

/-- Lane signed minimum (R224). -/
def execImin (sw : Bool) (d a b : BitVec 8) (s : State) : Host.Outcome State Fault Refusal :=
  laneBin sw d a b s minS

/-- Lane signed maximum (R224). -/
def execImax (sw : Bool) (d a b : BitVec 8) (s : State) : Host.Outcome State Fault Refusal :=
  laneBin sw d a b s maxS

/-- Lane bitwise AND (R224). -/
def execIand (sw : Bool) (d a b : BitVec 8) (s : State) : Host.Outcome State Fault Refusal :=
  laneBin sw d a b s (fun x y => x &&& y)

/-- Lane bitwise OR (R224). -/
def execIor (sw : Bool) (d a b : BitVec 8) (s : State) : Host.Outcome State Fault Refusal :=
  laneBin sw d a b s (fun x y => x ||| y)

/-- Lane bitwise XOR (R224). -/
def execIxor (sw : Bool) (d a b : BitVec 8) (s : State) : Host.Outcome State Fault Refusal :=
  laneBin sw d a b s (fun x y => x ^^^ y)

/-- Lane left shift by a per-lane amount (R224). -/
def execIshl (sw : Bool) (d a b : BitVec 8) (s : State) : Host.Outcome State Fault Refusal :=
  laneBin sw d a b s shl32

/-- Lane logical right shift by a per-lane amount (R224). -/
def execIshr (sw : Bool) (d a b : BitVec 8) (s : State) : Host.Outcome State Fault Refusal :=
  laneBin sw d a b s shr32

/-- Lane arithmetic right shift by a per-lane amount (R224). -/
def execIsar (sw : Bool) (d a b : BitVec 8) (s : State) : Host.Outcome State Fault Refusal :=
  laneBin sw d a b s sar32

/-- Lane compare equal (R225). -/
def execIceq (sw : Bool) (d a b : BitVec 8) (s : State) : Host.Outcome State Fault Refusal :=
  laneBin sw d a b s ceq

/-- Lane signed less-than (R225). -/
def execIclt (sw : Bool) (d a b : BitVec 8) (s : State) : Host.Outcome State Fault Refusal :=
  laneBin sw d a b s clt

/-- Lane unsigned less-than (R225). -/
def execIcltu (sw : Bool) (d a b : BitVec 8) (s : State) : Host.Outcome State Fault Refusal :=
  laneBin sw d a b s cltu

/-- Lane select on the old value of D; the result takes the taint of the condition and of the operand selected (R225). -/
def execIsel (sw : Bool) (d a b : BitVec 8) (s : State) : Host.Outcome State Fault Refusal :=
  nativeHere sw false s fun h => do
    h.okLDst d; h.okL a; h.okL b
    pure (h.eachLane fun k l =>
      let c := h.l d.toNat l
      let x := h.l a.toNat l
      let y := h.l b.toNat l
      k.setL d.toNat l (sel c.1 x.1 y.1) (c.2 || if c.1 ≠ 0 then x.2 else y.2))

/-- Lane add of a sign-extended immediate (R226). -/
def execIaddImm (sw : Bool) (d a imm : BitVec 8) (s : State) : Host.Outcome State Fault Refusal :=
  laneImm sw d a s (fun h => h.imm8 true imm) (fun x y => x + y)

/-- Lane AND with a sign-extended immediate (R226). -/
def execIandImm (sw : Bool) (d a imm : BitVec 8) (s : State) : Host.Outcome State Fault Refusal :=
  laneImm sw d a s (fun h => h.imm8 true imm) (fun x y => x &&& y)

/-- Lane OR with a zero-extended immediate (R226). -/
def execIorImm (sw : Bool) (d a imm : BitVec 8) (s : State) : Host.Outcome State Fault Refusal :=
  laneImm sw d a s (fun h => h.imm8 false imm) (fun x y => x ||| y)

/-- Lane left shift by an immediate amount (R227). -/
def execIshlImm (sw : Bool) (d a : BitVec 8) (n : BitVec 6) (s : State) : Host.Outcome State Fault Refusal :=
  laneImm sw d a s (fun _ => n.zeroExtend 32) shl32

/-- Lane logical right shift by an immediate amount (R227). -/
def execIshrImm (sw : Bool) (d a : BitVec 8) (n : BitVec 6) (s : State) : Host.Outcome State Fault Refusal :=
  laneImm sw d a s (fun _ => n.zeroExtend 32) shr32

/-- Lane arithmetic right shift by an immediate amount (R227). -/
def execIsarImm (sw : Bool) (d a : BitVec 8) (n : BitVec 6) (s : State) : Host.Outcome State Fault Refusal :=
  laneImm sw d a s (fun _ => n.zeroExtend 32) sar32

/-- Writes a constant into each active lane (R228). -/
def execImovi (sw : Bool) (d : BitVec 8) (imm : BitVec 16) (s : State) : Host.Outcome State Fault Refusal :=
  nativeHere sw false s fun h => do
    h.okLDst d
    pure (h.eachLane fun k l => k.setL d.toNat l (h.imm16 imm) false)

/-- Packed saturating 8-bit add (R229). -/
def execP8add (sw : Bool) (d a b : BitVec 8) (s : State) : Host.Outcome State Fault Refusal :=
  laneBin sw d a b s (packSat 8 (fun x y => x + y))

/-- Packed saturating 8-bit subtract (R229). -/
def execP8sub (sw : Bool) (d a b : BitVec 8) (s : State) : Host.Outcome State Fault Refusal :=
  laneBin sw d a b s (packSat 8 (fun x y => x - y))

/-- Packed 8-bit signed maximum (R229). -/
def execP8max (sw : Bool) (d a b : BitVec 8) (s : State) : Host.Outcome State Fault Refusal :=
  laneBin sw d a b s (packSat 8 max)

/-- Packed 8-bit signed minimum (R229). -/
def execP8min (sw : Bool) (d a b : BitVec 8) (s : State) : Host.Outcome State Fault Refusal :=
  laneBin sw d a b s (packSat 8 min)

/-- Packed 8-bit left shift by an immediate (R230). -/
def execP8shl (sw : Bool) (d a : BitVec 8) (n : BitVec 5) (s : State) : Host.Outcome State Fault Refusal :=
  laneImm sw d a s (fun _ => 0) fun x _ => packShift 8 shlBits n.toNat x

/-- Packed 8-bit logical right shift (R230). -/
def execP8shr (sw : Bool) (d a : BitVec 8) (n : BitVec 5) (s : State) : Host.Outcome State Fault Refusal :=
  laneImm sw d a s (fun _ => 0) fun x _ => packShift 8 shrBits n.toNat x

/-- Packed 8-bit arithmetic right shift (R230). -/
def execP8sar (sw : Bool) (d a : BitVec 8) (n : BitVec 5) (s : State) : Host.Outcome State Fault Refusal :=
  laneImm sw d a s (fun _ => 0) fun x _ => packShift 8 sarBits n.toNat x

/-- Packed saturating 16-bit add (R229). -/
def execP16add (sw : Bool) (d a b : BitVec 8) (s : State) : Host.Outcome State Fault Refusal :=
  laneBin sw d a b s (packSat 16 (fun x y => x + y))

/-- Packed saturating 16-bit subtract (R229). -/
def execP16sub (sw : Bool) (d a b : BitVec 8) (s : State) : Host.Outcome State Fault Refusal :=
  laneBin sw d a b s (packSat 16 (fun x y => x - y))

/-- Packed saturating 16-bit multiply (R229). -/
def execP16mul (sw : Bool) (d a b : BitVec 8) (s : State) : Host.Outcome State Fault Refusal :=
  laneBin sw d a b s (packSat 16 (fun x y => x * y))

/-- Packed 16-bit left shift (R230). -/
def execP16shl (sw : Bool) (d a : BitVec 8) (n : BitVec 5) (s : State) : Host.Outcome State Fault Refusal :=
  laneImm sw d a s (fun _ => 0) fun x _ => packShift 16 shlBits n.toNat x

/-- Packed 16-bit logical right shift (R230). -/
def execP16shr (sw : Bool) (d a : BitVec 8) (n : BitVec 5) (s : State) : Host.Outcome State Fault Refusal :=
  laneImm sw d a s (fun _ => 0) fun x _ => packShift 16 shrBits n.toNat x

/-- Packed 16-bit arithmetic right shift (R230). -/
def execP16sar (sw : Bool) (d a : BitVec 8) (n : BitVec 5) (s : State) : Host.Outcome State Fault Refusal :=
  laneImm sw d a s (fun _ => 0) fun x _ => packShift 16 sarBits n.toNat x

end Sys2Proof.Machine
end

