-- ==== Sys2Proof/Machine/LoadStore.lean ====
section
/-!
DEFINITION. Loads, stores and atomics of the lane and the uniform pipe (spec/16_instr_memory.md R242 to R251). An access
is performed when its instruction issues (log entry 1), or waits for its channel (R31, R341); the register results of loads
and atomics are long (R177).
-/

namespace Sys2Proof.Machine

/-! ### Shared shapes -/

/-- The scope of the acquire that ORD of an atomic includes, and that of its release (R251). -/
def ordAcq (ord : BitVec 2) (sc : BitVec 3) : Option Nat := if ord.getLsbD 0 then some sc.toNat else none
def ordRel (ord : BitVec 2) (sc : BitVec 3) : Option Nat := if ord.getLsbD 1 then some sc.toNat else none

/-- A lane load of `n` bytes, an acquire at scope `acq` if it is one; `ldc` sets the taint of every register written (R245 to
R248). -/
def laneLoad (sw : Bool) (d a : BitVec 8) (wh : BitVec 3) (abs : Bool) (s : State) (n : Nat) (ldc : Bool) (acq : Option Nat) :
    Host.Outcome State Fault Refusal :=
  native sw false s fun s h => do
    let space := spaceOfWh wh.toNat
    let k := regsOf n
    h.okLBlock d k true; h.okBaseL space a abs
    let lanes := lanesOf h.g.exec
    let cs ← s.checkLanes h.agent space n .load (lanes.map fun l => (l, (h.addrL space a abs l).1))
    let h' := cs.foldl (fun g c =>
      let bs := s.loadData h.agent c.loc c.leaf n
      (List.range k).foldl (fun g i =>
        g.setL (d.toNat + i) c.lane (loadWord bs i) (ldc || (h.addrL space a abs c.lane).2)) g) h
    let keys (l : Nat) : List Nat := (List.range k).map fun i => laneKey (d.toNat + i) l
    let late := (cs.filter fun c => s.blocked c.loc).length
    let s' := s.arriveLoads h n (h.order space acq) (fun c => keys c.lane) cs
    pure (s'.noteAll h.agent space cs, if lanes.isEmpty then h'
      else ((h'.long (lanes.flatMap keys) late).sawAll s n (h.order space acq) cs).fenced space)

/-- A lane store of `n` bytes, in increasing lane order, a release at scope `rel` if it is one (R246, R247). -/
def laneStore (sw : Bool) (d a : BitVec 8) (wh : BitVec 3) (abs : Bool) (s : State) (n : Nat) (rel : Option Nat) :
    Host.Outcome State Fault Refusal :=
  native sw false s fun s h => do
    let space := spaceOfWh wh.toNat
    let k := regsOf n
    h.okLBlock d k false; h.okBaseL space a abs
    let cs ← s.checkLanes h.agent space n .store ((lanesOf h.g.exec).map fun l => (l, (h.addrL space a abs l).1))
    let s' := cs.foldl (fun s c =>
      let x := wordsNat ((List.range k).map fun i => (h.l (d.toNat + i) c.lane).1)
      s.storeData h c.loc c.leaf (h.c.releases h.spot rel) (leBytes n x)) s
    pure (s'.noteAll h.agent space cs, if cs.isEmpty then h
      else ((cs.foldl (fun g c => g.markDirty c.loc n) h).onCoach fun c => c.wrote s s').fenced space)

/-- A uniform load of `n` bytes, performed once for the coach (R97, R246). -/
def uniLoad (sw : Bool) (d a : BitVec 8) (wh : BitVec 3) (abs : Bool) (s : State) (n : Nat) (ldc : Bool) (acq : Option Nat) :
    Host.Outcome State Fault Refusal :=
  native sw true s fun s h => do
    let space := spaceOfWh wh.toNat
    let k := regsOf n
    h.okUBlock d k; h.okBaseU space a abs
    let ea := h.addrU space a abs
    let c ← s.checkOnce h.agent space h.uniformLane n .load ea.1
    let bs := s.loadData h.agent c.loc c.leaf n
    let h' := (List.range k).foldl (fun g i => g.setU (d.toNat + i) (loadWord bs i) (ldc || ea.2)) h
    let keys := h.uKeys d.toNat k
    let s' := s.arriveLoads h n (h.order space acq) (fun _ => keys) [c]
    let late := if s.blocked c.loc then 1 else 0
    pure (s'.noteAll h.agent space [c], ((h'.long keys late).sawAll s n (h.order space acq) [c]).fenced space)

/-- A uniform store of `n` bytes, a release at scope `rel` if it is one. -/
def uniStore (sw : Bool) (d a : BitVec 8) (wh : BitVec 3) (abs : Bool) (s : State) (n : Nat) (rel : Option Nat) :
    Host.Outcome State Fault Refusal :=
  native sw true s fun s h => do
    let space := spaceOfWh wh.toNat
    let k := regsOf n
    h.okUBlock d k; h.okBaseU space a abs
    let c ← s.checkOnce h.agent space h.uniformLane n .store (h.addrU space a abs).1
    let x := wordsNat ((List.range k).map fun i => (h.u (d.toNat + i)).1)
    let s' := s.storeData h c.loc c.leaf (h.c.releases h.spot rel) (leBytes n x)
    pure (s'.noteAll h.agent space [c], ((h.markDirty c.loc n).onCoach fun c => c.wrote s s').fenced space)

/-- One atomic of an instruction that acquires at scope `acq` and releases at scope `rel`, if it does: it acquires what it reads
before it releases (R107, R109), and its write is the coach's. -/
def State.atomicOne (s : State) (h : Here) (space : Nat) (acq rel : Option Nat) (c : Checked) (keys : List Nat) (op : Nat)
    (old v0 v1 : Word) : State × Here :=
  let h := h.sawAll s 4 (h.order space acq) [c]
  let s' := s.atomicData h c.loc c.leaf keys (h.order space acq) (h.c.releases h.spot rel) op old v0 v1
  (s', (h.markDirty c.loc 4).onCoach fun c => c.wrote s s')

/-- A lane atomic (R249, R250): one indivisible step per active lane, in lane order; ACAS, code 7, takes a pair. -/
def laneAtomic (sw : Bool) (d : BitVec 6) (a : BitVec 8) (wh : BitVec 3) (s : State) (op : Nat) (acq rel : Option Nat) :
    Host.Outcome State Fault Refusal :=
  native sw false s fun s h => do
    let space := spaceOfWh wh.toNat
    let n := d.toNat
    let pair := op == 7
    h.okVs n (if pair then 2 else 1); h.okBaseL space a false
    let lanes := lanesOf h.g.exec
    let cs ← s.checkLanes h.agent space 4 .atomic (lanes.map fun l => (l, (h.addrL space a false l).1))
    let r := cs.foldl (fun (acc : State × Here) c =>
      let old := word32 (acc.1.loadData h.agent c.loc c.leaf 4)
      acc.1.atomicOne (acc.2.setV n c.lane old (h.addrL space a false c.lane).2) space acq rel c [keyV n c.lane] op old
        (h.v n c.lane) (if pair then h.v (n + 1) c.lane else 0)) (s, h)
    let late := (cs.filter fun c => s.blocked c.loc).length
    pure (r.1.noteAll h.agent space cs, if lanes.isEmpty then r.2 else (r.2.long (lanes.map (keyV n)) late).fenced space)

/-- A uniform atomic, performed once for the coach (R249, R250). -/
def uniAtomic (sw : Bool) (d a : BitVec 6) (wh : BitVec 3) (s : State) (op : Nat) (acq rel : Option Nat) :
    Host.Outcome State Fault Refusal :=
  native sw true s fun s h => do
    let space := spaceOfWh wh.toNat
    let n := d.toNat
    let base : BitVec 8 := BitVec.ofNat 8 (192 + a.toNat)
    h.okBaseU space base false
    let ea := h.addrU space base false
    let c ← s.checkOnce h.agent space h.uniformLane 4 .atomic ea.1
    let old := word32 (s.loadData h.agent c.loc c.leaf 4)
    let r := s.atomicOne (h.setS n old ea.2) space acq rel c [keyS n] op old (h.s n) (if op == 7 then h.s (n + 1) else 0)
    let late := if s.blocked c.loc then 1 else 0
    pure (r.1.noteAll h.agent space [c], (r.2.long [keyS n] late).fenced space)

/-! ### Plain loads and stores -/

/-- ULDB: a plain load of 1 byte (R245, R246). -/
def execUldb (sw : Bool) (d a : BitVec 8) (wh : BitVec 3) (abs : BitVec 1) (s : State) :
    Host.Outcome State Fault Refusal :=
  uniLoad sw d a wh (abs == 1) s 1 false none

/-- ULDH: a plain load of 2 bytes (R245, R246). -/
def execUldh (sw : Bool) (d a : BitVec 8) (wh : BitVec 3) (abs : BitVec 1) (s : State) :
    Host.Outcome State Fault Refusal :=
  uniLoad sw d a wh (abs == 1) s 2 false none

/-- ULDW: a plain load of 4 bytes (R245, R246). -/
def execUldw (sw : Bool) (d a : BitVec 8) (wh : BitVec 3) (abs : BitVec 1) (s : State) :
    Host.Outcome State Fault Refusal :=
  uniLoad sw d a wh (abs == 1) s 4 false none

/-- ULDD: a plain load of 8 bytes (R245, R246). -/
def execUldd (sw : Bool) (d a : BitVec 8) (wh : BitVec 3) (abs : BitVec 1) (s : State) :
    Host.Outcome State Fault Refusal :=
  uniLoad sw d a wh (abs == 1) s 8 false none

/-- ULDQ: a plain load of 16 bytes (R245, R246). -/
def execUldq (sw : Bool) (d a : BitVec 8) (wh : BitVec 3) (abs : BitVec 1) (s : State) :
    Host.Outcome State Fault Refusal :=
  uniLoad sw d a wh (abs == 1) s 16 false none

/-- USTB: a plain store of 1 byte (R245, R246). -/
def execUstb (sw : Bool) (d a : BitVec 8) (wh : BitVec 3) (abs : BitVec 1) (s : State) :
    Host.Outcome State Fault Refusal :=
  uniStore sw d a wh (abs == 1) s 1 none

/-- USTH: a plain store of 2 bytes (R245, R246). -/
def execUsth (sw : Bool) (d a : BitVec 8) (wh : BitVec 3) (abs : BitVec 1) (s : State) :
    Host.Outcome State Fault Refusal :=
  uniStore sw d a wh (abs == 1) s 2 none

/-- USTW: a plain store of 4 bytes (R245, R246). -/
def execUstw (sw : Bool) (d a : BitVec 8) (wh : BitVec 3) (abs : BitVec 1) (s : State) :
    Host.Outcome State Fault Refusal :=
  uniStore sw d a wh (abs == 1) s 4 none

/-- USTD: a plain store of 8 bytes (R245, R246). -/
def execUstd (sw : Bool) (d a : BitVec 8) (wh : BitVec 3) (abs : BitVec 1) (s : State) :
    Host.Outcome State Fault Refusal :=
  uniStore sw d a wh (abs == 1) s 8 none

/-- USTQ: a plain store of 16 bytes (R245, R246). -/
def execUstq (sw : Bool) (d a : BitVec 8) (wh : BitVec 3) (abs : BitVec 1) (s : State) :
    Host.Outcome State Fault Refusal :=
  uniStore sw d a wh (abs == 1) s 16 none

/-- LDB: a plain load of 1 byte (R245, R246). -/
def execLdb (sw : Bool) (d a : BitVec 8) (wh : BitVec 3) (abs : BitVec 1) (s : State) :
    Host.Outcome State Fault Refusal :=
  laneLoad sw d a wh (abs == 1) s 1 false none

/-- LDH: a plain load of 2 bytes (R245, R246). -/
def execLdh (sw : Bool) (d a : BitVec 8) (wh : BitVec 3) (abs : BitVec 1) (s : State) :
    Host.Outcome State Fault Refusal :=
  laneLoad sw d a wh (abs == 1) s 2 false none

/-- LDW: a plain load of 4 bytes (R245, R246). -/
def execLdw (sw : Bool) (d a : BitVec 8) (wh : BitVec 3) (abs : BitVec 1) (s : State) :
    Host.Outcome State Fault Refusal :=
  laneLoad sw d a wh (abs == 1) s 4 false none

/-- LDD: a plain load of 8 bytes (R245, R246). -/
def execLdd (sw : Bool) (d a : BitVec 8) (wh : BitVec 3) (abs : BitVec 1) (s : State) :
    Host.Outcome State Fault Refusal :=
  laneLoad sw d a wh (abs == 1) s 8 false none

/-- LDQ: a plain load of 16 bytes (R245, R246). -/
def execLdq (sw : Bool) (d a : BitVec 8) (wh : BitVec 3) (abs : BitVec 1) (s : State) :
    Host.Outcome State Fault Refusal :=
  laneLoad sw d a wh (abs == 1) s 16 false none

/-- STB: a plain store of 1 byte (R245, R246). -/
def execStb (sw : Bool) (d a : BitVec 8) (wh : BitVec 3) (abs : BitVec 1) (s : State) :
    Host.Outcome State Fault Refusal :=
  laneStore sw d a wh (abs == 1) s 1 none

/-- STH: a plain store of 2 bytes (R245, R246). -/
def execSth (sw : Bool) (d a : BitVec 8) (wh : BitVec 3) (abs : BitVec 1) (s : State) :
    Host.Outcome State Fault Refusal :=
  laneStore sw d a wh (abs == 1) s 2 none

/-- STW: a plain store of 4 bytes (R245, R246). -/
def execStw (sw : Bool) (d a : BitVec 8) (wh : BitVec 3) (abs : BitVec 1) (s : State) :
    Host.Outcome State Fault Refusal :=
  laneStore sw d a wh (abs == 1) s 4 none

/-- STD: a plain store of 8 bytes (R245, R246). -/
def execStd (sw : Bool) (d a : BitVec 8) (wh : BitVec 3) (abs : BitVec 1) (s : State) :
    Host.Outcome State Fault Refusal :=
  laneStore sw d a wh (abs == 1) s 8 none

/-- STQ: a plain store of 16 bytes (R245, R246). -/
def execStq (sw : Bool) (d a : BitVec 8) (wh : BitVec 3) (abs : BitVec 1) (s : State) :
    Host.Outcome State Fault Refusal :=
  laneStore sw d a wh (abs == 1) s 16 none

/-! ### Ordered loads and stores, and load-consume -/

/-- ULDW with order=acq (R247). -/
def execUldwAcq (sw : Bool) (d a : BitVec 8) (wh : BitVec 3) (sc : BitVec 3) (s : State) :
    Host.Outcome State Fault Refusal :=
  uniLoad sw d a wh false s 4 false (some sc.toNat)

/-- ULDD with order=acq (R247). -/
def execUlddAcq (sw : Bool) (d a : BitVec 8) (wh : BitVec 3) (sc : BitVec 3) (s : State) :
    Host.Outcome State Fault Refusal :=
  uniLoad sw d a wh false s 8 false (some sc.toNat)

/-- USTW with order=rel (R247). -/
def execUstwRel (sw : Bool) (d a : BitVec 8) (wh : BitVec 3) (sc : BitVec 3) (s : State) :
    Host.Outcome State Fault Refusal :=
  uniStore sw d a wh false s 4 (some sc.toNat)

/-- USTD with order=rel (R247). -/
def execUstdRel (sw : Bool) (d a : BitVec 8) (wh : BitVec 3) (sc : BitVec 3) (s : State) :
    Host.Outcome State Fault Refusal :=
  uniStore sw d a wh false s 8 (some sc.toNat)

/-- ULDCW: the load sets the taint of what it writes (R248). -/
def execUldcw (sw : Bool) (d a : BitVec 8) (wh : BitVec 3) (_sc : BitVec 3) (s : State) :
    Host.Outcome State Fault Refusal :=
  uniLoad sw d a wh false s 4 true none

/-- ULDCD: the load sets the taint of what it writes (R248). -/
def execUldcd (sw : Bool) (d a : BitVec 8) (wh : BitVec 3) (_sc : BitVec 3) (s : State) :
    Host.Outcome State Fault Refusal :=
  uniLoad sw d a wh false s 8 true none

/-- LDW with order=acq (R247). -/
def execLdwAcq (sw : Bool) (d a : BitVec 8) (wh : BitVec 3) (sc : BitVec 3) (s : State) :
    Host.Outcome State Fault Refusal :=
  laneLoad sw d a wh false s 4 false (some sc.toNat)

/-- LDD with order=acq (R247). -/
def execLddAcq (sw : Bool) (d a : BitVec 8) (wh : BitVec 3) (sc : BitVec 3) (s : State) :
    Host.Outcome State Fault Refusal :=
  laneLoad sw d a wh false s 8 false (some sc.toNat)

/-- STW with order=rel (R247). -/
def execStwRel (sw : Bool) (d a : BitVec 8) (wh : BitVec 3) (sc : BitVec 3) (s : State) :
    Host.Outcome State Fault Refusal :=
  laneStore sw d a wh false s 4 (some sc.toNat)

/-- STD with order=rel (R247). -/
def execStdRel (sw : Bool) (d a : BitVec 8) (wh : BitVec 3) (sc : BitVec 3) (s : State) :
    Host.Outcome State Fault Refusal :=
  laneStore sw d a wh false s 8 (some sc.toNat)

/-- LDCW: the load sets the taint of what it writes (R248). -/
def execLdcw (sw : Bool) (d a : BitVec 8) (wh : BitVec 3) (_sc : BitVec 3) (s : State) :
    Host.Outcome State Fault Refusal :=
  laneLoad sw d a wh false s 4 true none

/-- LDCD: the load sets the taint of what it writes (R248). -/
def execLdcd (sw : Bool) (d a : BitVec 8) (wh : BitVec 3) (_sc : BitVec 3) (s : State) :
    Host.Outcome State Fault Refusal :=
  laneLoad sw d a wh false s 8 true none

/-! ### Atomics -/

/-- UAADD (R249 to R251). -/
def execUaadd (sw : Bool) (d a : BitVec 6) (wh : BitVec 3) (ord : BitVec 2) (sc : BitVec 3) (s : State) :
    Host.Outcome State Fault Refusal :=
  uniAtomic sw d a wh s 0 (ordAcq ord sc) (ordRel ord sc)

/-- UAMIN (R249 to R251). -/
def execUamin (sw : Bool) (d a : BitVec 6) (wh : BitVec 3) (ord : BitVec 2) (sc : BitVec 3) (s : State) :
    Host.Outcome State Fault Refusal :=
  uniAtomic sw d a wh s 1 (ordAcq ord sc) (ordRel ord sc)

/-- UAMAX (R249 to R251). -/
def execUamax (sw : Bool) (d a : BitVec 6) (wh : BitVec 3) (ord : BitVec 2) (sc : BitVec 3) (s : State) :
    Host.Outcome State Fault Refusal :=
  uniAtomic sw d a wh s 2 (ordAcq ord sc) (ordRel ord sc)

/-- UAAND (R249 to R251). -/
def execUaand (sw : Bool) (d a : BitVec 6) (wh : BitVec 3) (ord : BitVec 2) (sc : BitVec 3) (s : State) :
    Host.Outcome State Fault Refusal :=
  uniAtomic sw d a wh s 3 (ordAcq ord sc) (ordRel ord sc)

/-- UAOR (R249 to R251). -/
def execUaor (sw : Bool) (d a : BitVec 6) (wh : BitVec 3) (ord : BitVec 2) (sc : BitVec 3) (s : State) :
    Host.Outcome State Fault Refusal :=
  uniAtomic sw d a wh s 4 (ordAcq ord sc) (ordRel ord sc)

/-- UAXOR (R249 to R251). -/
def execUaxor (sw : Bool) (d a : BitVec 6) (wh : BitVec 3) (ord : BitVec 2) (sc : BitVec 3) (s : State) :
    Host.Outcome State Fault Refusal :=
  uniAtomic sw d a wh s 5 (ordAcq ord sc) (ordRel ord sc)

/-- UAXCHG (R249 to R251). -/
def execUaxchg (sw : Bool) (d a : BitVec 6) (wh : BitVec 3) (ord : BitVec 2) (sc : BitVec 3) (s : State) :
    Host.Outcome State Fault Refusal :=
  uniAtomic sw d a wh s 6 (ordAcq ord sc) (ordRel ord sc)

/-- UACAS (R249 to R251). -/
def execUacas (sw : Bool) (d a : BitVec 6) (wh : BitVec 3) (ord : BitVec 2) (sc : BitVec 3) (s : State) :
    Host.Outcome State Fault Refusal :=
  uniAtomic sw d a wh s 7 (ordAcq ord sc) (ordRel ord sc)

/-- AADD (R249 to R251). -/
def execAadd (sw : Bool) (d : BitVec 6) (a : BitVec 8) (wh : BitVec 3) (ord : BitVec 2) (sc : BitVec 3) (s : State) :
    Host.Outcome State Fault Refusal :=
  laneAtomic sw d a wh s 0 (ordAcq ord sc) (ordRel ord sc)

/-- AMIN (R249 to R251). -/
def execAmin (sw : Bool) (d : BitVec 6) (a : BitVec 8) (wh : BitVec 3) (ord : BitVec 2) (sc : BitVec 3) (s : State) :
    Host.Outcome State Fault Refusal :=
  laneAtomic sw d a wh s 1 (ordAcq ord sc) (ordRel ord sc)

/-- AMAX (R249 to R251). -/
def execAmax (sw : Bool) (d : BitVec 6) (a : BitVec 8) (wh : BitVec 3) (ord : BitVec 2) (sc : BitVec 3) (s : State) :
    Host.Outcome State Fault Refusal :=
  laneAtomic sw d a wh s 2 (ordAcq ord sc) (ordRel ord sc)

/-- AAND (R249 to R251). -/
def execAand (sw : Bool) (d : BitVec 6) (a : BitVec 8) (wh : BitVec 3) (ord : BitVec 2) (sc : BitVec 3) (s : State) :
    Host.Outcome State Fault Refusal :=
  laneAtomic sw d a wh s 3 (ordAcq ord sc) (ordRel ord sc)

/-- AOR (R249 to R251). -/
def execAor (sw : Bool) (d : BitVec 6) (a : BitVec 8) (wh : BitVec 3) (ord : BitVec 2) (sc : BitVec 3) (s : State) :
    Host.Outcome State Fault Refusal :=
  laneAtomic sw d a wh s 4 (ordAcq ord sc) (ordRel ord sc)

/-- AXOR (R249 to R251). -/
def execAxor (sw : Bool) (d : BitVec 6) (a : BitVec 8) (wh : BitVec 3) (ord : BitVec 2) (sc : BitVec 3) (s : State) :
    Host.Outcome State Fault Refusal :=
  laneAtomic sw d a wh s 5 (ordAcq ord sc) (ordRel ord sc)

/-- AXCHG (R249 to R251). -/
def execAxchg (sw : Bool) (d : BitVec 6) (a : BitVec 8) (wh : BitVec 3) (ord : BitVec 2) (sc : BitVec 3) (s : State) :
    Host.Outcome State Fault Refusal :=
  laneAtomic sw d a wh s 6 (ordAcq ord sc) (ordRel ord sc)

/-- ACAS (R249 to R251). -/
def execAcas (sw : Bool) (d : BitVec 6) (a : BitVec 8) (wh : BitVec 3) (ord : BitVec 2) (sc : BitVec 3) (s : State) :
    Host.Outcome State Fault Refusal :=
  laneAtomic sw d a wh s 7 (ordAcq ord sc) (ordRel ord sc)

end Sys2Proof.Machine
end

