-- ==== Sys2Proof/Machine/Masks.lean ====
section
/-!
DEFINITION. EXEC and the mask registers (spec/14_instr_uniform.md R208, R209), and the barrier instructions (R210).
-/

namespace Sys2Proof.Machine

/-! ### EXEC -/

/-- A value written to REG (R188); EXEC and masks carry no taint. -/
def Here.setReg (h : Here) (reg : BitVec 8) (x : Word) : Except Stop Here := do
  h.okU reg
  pure (h.setU reg.toNat x false)

/-- A value read from REG (R188). -/
def Here.getReg (h : Here) (reg : BitVec 8) : Except Stop Word := do
  h.okU reg
  pure (h.u reg.toNat).1

/-- EXEC := v AND membership (R39). -/
def Here.setExec (h : Here) (x : Word) : Here := { h with g := { h.g with exec := x &&& h.g.mem } }

/-- EXRD: REG := EXEC, 0 outside the membership (R208). -/
def execExrd (sw : Bool) (reg : BitVec 8) (s : State) : Host.Outcome State Fault Refusal :=
  nativeHere sw false s fun h => h.setReg reg (h.g.exec &&& h.g.mem)

/-- EXWR: EXEC := REG AND membership (R208). -/
def execExwr (sw : Bool) (reg : BitVec 8) (s : State) : Host.Outcome State Fault Refusal :=
  nativeHere sw false s fun h => (h.getReg reg).map h.setExec

/-- EXLD: EXEC := M[ma] AND membership (R208). -/
def execExld (sw : Bool) (ma : BitVec 3) (s : State) : Host.Outcome State Fault Refusal :=
  nativeHere sw false s fun h => pure (h.setExec (h.m ma.toNat))

/-- EXSV: M[ma] := EXEC, 0 outside the membership (R208). -/
def execExsv (sw : Bool) (ma : BitVec 3) (s : State) : Host.Outcome State Fault Refusal :=
  nativeHere sw false s fun h => pure (h.setM ma.toNat (h.g.exec &&& h.g.mem))

/-! ### Mask registers -/

/-- MAND: M[ma] := M[mb] AND M[mc] (R208). -/
def execMand (sw : Bool) (ma mb mc : BitVec 3) (s : State) : Host.Outcome State Fault Refusal :=
  nativeHere sw false s fun h => pure (h.setM ma.toNat (h.m mb.toNat &&& h.m mc.toNat))

/-- MOR: M[ma] := M[mb] OR M[mc] (R208). -/
def execMor (sw : Bool) (ma mb mc : BitVec 3) (s : State) : Host.Outcome State Fault Refusal :=
  nativeHere sw false s fun h => pure (h.setM ma.toNat (h.m mb.toNat ||| h.m mc.toNat))

/-- MXOR: M[ma] := M[mb] XOR M[mc] (R208). -/
def execMxor (sw : Bool) (ma mb mc : BitVec 3) (s : State) : Host.Outcome State Fault Refusal :=
  nativeHere sw false s fun h => pure (h.setM ma.toNat (h.m mb.toNat ^^^ h.m mc.toNat))

/-- MNOT: M[ma] := NOT M[mb] (R208). -/
def execMnot (sw : Bool) (ma mb : BitVec 3) (s : State) : Host.Outcome State Fault Refusal :=
  nativeHere sw false s fun h => pure (h.setM ma.toNat (~~~(h.m mb.toNat)))

/-- MRD: REG := M[ma] (R208, R209). -/
def execMrd (sw : Bool) (reg : BitVec 8) (ma : BitVec 3) (s : State) : Host.Outcome State Fault Refusal :=
  nativeHere sw false s fun h => h.setReg reg (h.m ma.toNat)

/-- MWR: M[ma] := REG (R208). -/
def execMwr (sw : Bool) (reg : BitVec 8) (ma : BitVec 3) (s : State) : Host.Outcome State Fault Refusal :=
  nativeHere sw false s fun h => (h.getReg reg).map (h.setM ma.toNat)

/-- MPOP: REG := the number of 1 bits in M[ma] (R208). -/
def execMpop (sw : Bool) (reg : BitVec 8) (ma : BitVec 3) (s : State) : Host.Outcome State Fault Refusal :=
  nativeHere sw false s fun h => h.setReg reg (BitVec.ofNat 32 (lanesOf (h.m ma.toNat)).length)

/-! ### Barriers -/

/-- The expected count of a barrier instruction: CNT + 1, or REG (R210). -/
def Here.expected (h : Here) (reg : BitVec 8) (ci : BitVec 1) (cnt : BitVec 5) : Except Stop Nat :=
  if ci = 1 then pure (cnt.toNat + 1) else (h.getReg reg).map BitVec.toNat

/-- The issuing instruction: its offset, word, prefix, and the words of its run before it. -/
def Here.word (h : Here) : Nat × Word × Option (BitVec 24) × Nat :=
  let r := h.run
  let back := if r.pre.isSome then 1 else 0
  (h.g.pc - 4 * back, r.word, r.pre, r.words - back)

/-- At a barrier instruction in compatibility mode: the lanes left over by a fault wait before it for the replayed ones, and
these stop there as well where the others wait, to fuse with them (R37, R48). -/
def Here.meets (h : Here) : Option Here :=
  let k := h.rewind
  let waits (x : SubGroup) : Bool := x.id ≠ h.g.id && x.parent = h.g.parent && x.pc = k.g.pc && x.parks.contains .meeting
    && sameRecs x.recs h.g.recs
  if h.g.rest then some { k with g := { k.g with parks := k.g.parks ++ [.converged, .meeting] } }
  else if h.t.compat && h.c.subs.any waits then some k
  else none

/-- A barrier instruction: before it a sub-group may have to wait (R48). -/
def barrierOp (sw : Bool) (s : State) (body : State → Here → Res) : Host.Outcome State Fault Refusal :=
  match s.here.bind Here.meets with
  | some h => .next (((s.put h).freeHalf h.t.core h.team h.ci h.c).tryEntry h.team h.ci)
  | none => native sw false s body

/-- BARARV (R44, R45, R210): the arrival is made when the instruction issues; the sub-group continues, unless it had
recorded an arrival already (R45). -/
def execBararv (sw : Bool) (reg : BitVec 8) (ci : BitVec 1) (cnt : BitVec 5) (bar : BitVec 4) (s : State) :
    Host.Outcome State Fault Refusal :=
  barrierOp sw s fun s h => do
    let e ← h.expected reg ci cnt
    let (k, done) ← h.arriveSub bar.toNat e false
    let k := if h.g.parks.length < k.g.parks.length then k.setRun { k.run with stopAt := some h.word } else k
    pure (if done then s.releaseBarrier h.team bar.toNat else s, k)

/-- BARSYNC (R44, R45, R210): the arrival is made when the instruction issues, and the sub-group parks once the trailer
has issued. Where the trailer cannot be fetched yet, the arrival waits for it. -/
def execBarsync (sw : Bool) (reg : BitVec 8) (ci : BitVec 1) (cnt : BitVec 5) (bar : BitVec 4) (s : State) :
    Host.Outcome State Fault Refusal :=
  barrierOp sw s fun s h => do
    let e ← h.expected reg ci cnt
    let r := h.run
    let back := if r.pre.isSome then 1 else 0
    let closed (k : Here) (pending : Option (Nat × Nat)) : Here :=
      k.setRun { k.run with closer := .barsync pending, closerPc := h.g.pc - 4 * back, closerWord := r.word,
                            closerPre := r.pre, closerWords := r.words - back, stopAt := some h.word }
    match s.fetch h (h.g.pc + 4) with
    | .error (.hold cs) => .error (.hold cs)
    | .error (.trap _) => pure (s, closed h (some (bar.toNat, e)))
    | .ok w =>
      if isTrailer w then
        let (k, done) ← h.arriveSub bar.toNat e true
        pure (if done then s.releaseBarrier h.team bar.toNat else s, closed k none)
      else .error illegal

end Sys2Proof.Machine
end

