-- ==== Sys2Proof/Machine/Moves.lean ====
section
/-!
DEFINITION. Moves between lanes and through VI (spec/15_instr_lane.md R237 to R240, spec/03_planes.md R71).
-/

namespace Sys2Proof.Machine

/-! ### VI-indexed moves -/

/-- The register number n of R239. -/
def Here.viIndex (h : Here) (k : BitVec 8) : Int := h.c.vi.toNat + k.toInt

/-- The bounds check of R240, made whether or not a lane is active, and the scoreboard (R181). -/
def Here.okVI (h : Here) (k : BitVec 8) : Except Stop Nat :=
  let n := h.viIndex k
  if n < 0 || (h.c.allot : Int) ≤ n then .error (.trap { cause := .regBounds, detail := BitVec.ofInt 16 n })
  else (h.okV n.toNat).map fun _ => n.toNat

/-- VRD: d := V[n][l] (R239). -/
def execVrd (sw : Bool) (d : BitVec 8) (k : BitVec 8) (s : State) : Host.Outcome State Fault Refusal :=
  nativeHere sw false s fun h => do
    h.okLDst d
    let n ← h.okVI k
    pure (h.eachLane fun g l => g.setL d.toNat l (h.v n l) (Cells.get false h.c.vt (keyV n l)))

/-- VWR: V[n][l] := a (R239). -/
def execVwr (sw : Bool) (a : BitVec 8) (k : BitVec 8) (s : State) : Host.Outcome State Fault Refusal :=
  nativeHere sw false s fun h => do
    h.okL a
    let n ← h.okVI k
    pure (h.eachLane fun g l => let x := h.l a.toNat l; g.setV n l x.1 x.2)

/-! ### Cross-lane moves -/

/-- One lane of LPUSH: what has been sent, the losers, and the issuer so far (R71). All reads are from `h`. -/
def pushLane (h : Here) (d a x : Nat) (acc : List Nat × Word × Here) (l : Nat) : List Nat × Word × Here :=
  let t := (h.l x l).1.toNat
  if 32 ≤ t || !h.g.exec.getLsbD t || acc.1.contains t then (acc.1, acc.2.1 ||| 1 <<< l, acc.2.2)
  else (t :: acc.1, acc.2.1,
    acc.2.2.setV d t (h.v a l) (Cells.get false h.c.vt (keyV a l) || (h.l x l).2))

/-- LPUSH (R71, R237): the mask is written last. -/
def execLpush (sw : Bool) (d a : BitVec 6) (x : BitVec 8) (mk : BitVec 3) (s : State) :
    Host.Outcome State Fault Refusal :=
  nativeHere sw false s fun h => do
    h.okV d.toNat; h.okV a.toNat; h.okL x
    let r := (lanesOf h.g.exec).foldl (pushLane h d.toNat a.toNat x.toNat) ([], 0, h)
    pure (r.2.2.setM mk.toNat r.2.1)

/-- LPULL (R238): the source lane is any lane of the coach; an index of 32 or more gives 0 (log entry 35). -/
def execLpull (sw : Bool) (d a b : BitVec 8) (s : State) : Host.Outcome State Fault Refusal :=
  nativeHere sw false s fun h => do
    h.okLDst d; h.okL a; h.okL b
    pure (h.eachLane fun g l =>
      let t := h.l b.toNat l
      let x := if t.1.toNat < 32 then h.l a.toNat t.1.toNat else (0, false)
      g.setL d.toNat l x.1 (x.2 || t.2))

end Sys2Proof.Machine
end

