-- ==== Sys2Proof/Machine/Relocation.lean ====
section
/-!
DEFINITION. Immediate fields of native words (spec/11_assembler.md R163), and the relocation of an object by the loader
(spec/29_portable_isa.md R377; log entry 17).
-/

namespace Sys2Proof.Machine.Zyas

/-! ### Immediate fields -/

/-- The immediate fields (R163): of 8 bits with sign or zero extension, of a pair add, of a constant move, of a branch that
tests a register, of BRA and CALL, and of a MEM address. -/
inductive Field where
  | alu (zero : Bool) | pair | move | test | jump | mem
  deriving DecidableEq, Repr

/-- The immediate field of an instruction (R191, R223). -/
def fieldOf (i : Instr) : Option Field :=
  match i with
  | .uaddImm _ _ _ _ => some (.alu false)
  | .uandImm _ _ _ _ => some (.alu false)
  | .uorImm _ _ _ _ => some (.alu true)
  | .iaddImm _ _ _ _ => some (.alu false)
  | .iandImm _ _ _ _ => some (.alu false)
  | .iorImm _ _ _ _ => some (.alu true)
  | .uaddpi _ _ _ _ => some .pair
  | .umovi _ _ _ => some .move
  | .imovi _ _ _ => some .move
  | .bz _ _ _ => some .test
  | .bnz _ _ _ => some .test
  | .bvz _ _ _ => some .test
  | .bvnz _ _ _ => some .test
  | .bra _ _ => some .jump
  | .call _ _ => some .jump
  | i => if (encode i).any hasImm then some .mem else none

/-- The field's width (R163, R171). -/
def Field.width : Field → Nat
  | .alu _ => 8 | .pair => 8 | .move => 16 | .test => 16 | .jump => 18 | .mem => 0

/-- A branch or call, whose immediate counts words from its own word (R171). -/
def Field.branch : Field → Bool
  | .test => true | .jump => true | _ => false

/-- The values that the field holds alone (R163, R196, R199, R226, R228, R244). -/
def Field.fits (f : Field) (v : Int) : Bool :=
  match f with
  | .alu true => decide (0 ≤ v) && decide (v < 2 ^ 8)
  | .mem => v = 0
  | f => decide (-2 ^ (f.width - 1) ≤ v) && decide (v < 2 ^ (f.width - 1))

/-- The values that it holds with an IMMX (R163, R196, R199, R226, R228, R244). -/
def Field.fitsBoth (f : Field) (v : Int) : Bool :=
  match f with
  | .alu _ => decide (-2 ^ 31 ≤ v) && decide (v < 2 ^ 32)
  | .move => decide (-2 ^ 31 ≤ v) && decide (v < 2 ^ 32)
  | f => decide (-2 ^ (f.width + 23) ≤ v) && decide (v < 2 ^ (f.width + 23))

end Sys2Proof.Machine.Zyas

namespace Sys2Proof.Machine

/-! ### The loader -/

/-- Bytes replaced from an offset on. -/
def patchBytes (img : List Byte) (off : Nat) (b : List Byte) : List Byte := img.take off ++ b ++ img.drop (off + b.length)

/-- The sections of an object as bytes. -/
structure Sections where
  code : List Byte
  const : List Byte
  data : List Byte
deriving DecidableEq, Repr

/-- A base added to the dword at an offset. -/
def addDword (b : List Byte) (off base : Nat) : List Byte :=
  patchBytes b off (leBytes 8 ((leNat ((b.drop off).take 8) + base) % 2 ^ 64))

open Zyas in
/-- A base added to the combined immediate of the IMMX at an offset and the instruction after it: nothing where the sum does
not fit (R163, R377). -/
def addImmediate (code : List Byte) (off base : Nat) : Option (List Byte) :=
  let w := leNat ((code.drop (off + 4)).take 4)
  match (decode (BitVec.ofNat 32 w)).bind fieldOf with
  | none => none
  | some f =>
    let raw := fld (leNat ((code.drop off).take 4)) 0 24 * 2 ^ f.width + fld w 0 f.width
    let v : Int := (if f = .alu true then (raw : Int) else sext (f.width + 24) raw) + base
    let sum := wrapInt (f.width + 24) v
    if f.fitsBoth v then
      some (patchBytes code off (leBytes 4 (0xBE * 2 ^ 24 + sum / 2 ^ f.width)
        ++ leBytes 4 (w / 2 ^ f.width * 2 ^ f.width + fld sum 0 f.width)))
    else none

/-- One relocation entry applied: the base of its target is added to what stands there (R377). -/
def relocateOne (constBase dataBase : Nat) (x : Sections) (e : DWord) : Option Sections :=
  let base := if fld e.toNat 60 2 = 1 then constBase else dataBase
  let off := fld e.toNat 0 32
  match fld e.toNat 62 2 with
  | 0 => some { x with const := addDword x.const off base }
  | 1 => some { x with data := addDword x.data off base }
  | 2 => (addImmediate x.code off base).map fun c => { x with code := c }
  | _ => none

/-- The sections with every entry applied, in the order of the table. -/
def relocate (constBase dataBase : Nat) (x : Sections) (table : List DWord) : Option Sections :=
  table.foldlM (relocateOne constBase dataBase) x

/-- Bytes that the device stores from an address on, in pieces that cross no channel (R344); the number bounds the
pieces. -/
def pieces2k (va : Nat) : Nat → List Byte → List (Nat × List Byte)
  | 0, _ => []
  | fuel + 1, bs =>
    let n := 2048 - va % 2048
    if bs.isEmpty then [] else (va, bs.take n) :: pieces2k (va + n) fuel (bs.drop n)

/-- All pieces of a store of the device. -/
def storePieces (va : Nat) (bs : List Byte) : List (Nat × List Byte) := pieces2k va (bs.length / 2048 + 2) bs

/-- Every piece translates. -/
def State.gMay (s : State) (oid va : Nat) (bs : List Byte) : Bool :=
  (storePieces va bs).all fun p => match s.translate none oid p.1 .store with | .ok _ _ _ => true | _ => false

/-- A store of the device. -/
def State.gStoreAll (s : State) (oid va : Nat) (bs : List Byte) : State :=
  (storePieces va bs).foldl (fun s p => s.gStore oid p.1 p.2) s

/-- What the loader makes of an object: invalid; held back for now, by channels that it reads or writes or by bases that do not
admit it; or placed. -/
inductive Load where
  | invalid
  | held (reads writes : List Nat)
  | placed (s : State) (o : Object)

/-- The channels that reading an object waits for (R339): those of its header, and then those of its sections. -/
def State.objectWaits (s : State) (oid at_ : Nat) : List Nat :=
  let first := s.gWaits oid at_ 128 .load
  if !first.isEmpty then first
  else match s.gBytes oid at_ 128 with
    | none => []
    | some hb =>
      let h := bytesDWords hb
      if !headerOk h then []
      else ([(5, 1), (6, 1), (7, 1), (8, 8), (9, 136)].flatMap fun p =>
        let x := hsec h p.1 p.2
        s.gWaits oid (at_ + x.1) x.2 .load).eraseDups

/-- Some entry patches the code (R377). -/
def patchesCode (table : List DWord) : Bool := table.any fun e => fld e.toNat 62 2 = 2

/-- The object at an address as a node gets it: its .const and .data stand, relocated, at the bases that the loader chose
(R377). DESIGN CHOICE (log entry 17): every fetch places them anew, and the code section beside them where an entry patches it,
else it stays where it stands; `held` where the bases do not admit it. -/
def State.loadObject (s : State) (oid at_ : Nat) (b : Bases) : Load :=
  if !(s.objectWaits oid at_).isEmpty then .held (s.objectWaits oid at_) []
  else match s.readObject oid at_ with
  | none => .invalid
  | some (o, (code, const, data), table) =>
    match relocate b.const b.data { code, const, data } table with
    | none => .invalid
    | some x =>
      let own := patchesCode table
      let at_ := if own then b.code else o.code
      let moved : List (Nat × List Byte) := (if own then [(b.code, x.code)] else []) ++ [(b.const, x.const), (b.data, x.data)]
      let spans := [(at_, x.code.length), (b.const, x.const.length), (b.data, x.data.length)]
      let waits := (moved.flatMap fun p => s.gWaits oid p.1 p.2.length .store).eraseDups
      if b.const % 65536 ≠ 0 || b.data % 65536 ≠ 0 || b.code % 8 ≠ 0 || !apart spans
          || moved.any fun p => !s.gMay oid p.1 p.2 || !waits.isEmpty then .held [] waits
      else .placed (moved.foldl (fun s p => s.gStoreAll oid p.1 p.2) s) { o with code := at_ }

end Sys2Proof.Machine
end

