-- ==== Sys2Proof/Machine/Queues.lean ====
section
/-!
DEFINITION. Submission queues: their registers, the fetch of node records, translation of Celud objects, and the completion
of nodes (spec/21_scheduling.md R291 to R299, R305; spec/29_portable_isa.md R377, R379, R383, R384).
-/

namespace Sys2Proof.Machine

/-! ### Registers -/

/-- The host reaches the device over a module that has trained (R389). -/
def State.hostLink (s : State) : Bool := s.mode = .running && s.ucie.any id

/-- A queue by its number. -/
def State.queue (s : State) (q : Nat) : Queue := Cells.get {} s.queues q

def State.setQueue (s : State) (q : Nat) (x : Queue) : State := { s with queues := Cells.set {} s.queues q x }

/-- QCFG as read (R291). DESIGN CHOICE (log entry 55): while a write is held back for a switched-out queue (R292), a read shows
the EN and LGSZ in force and not those of the last write, which R13 speaks of. -/
def Queue.cfg (x : Queue) : Word :=
  BitVec.ofNat 32 (pack [(1, bit x.en), (1, bit x.err), (5, 0), (5, x.lgsz), (3, x.pmax), (5, 0), (12, x.oid)])

/-- EN and LGSZ after a write of QCFG, from their values before it (R292). -/
def cfgWrite (en : Bool) (lgsz : Nat) (v : Word) : Bool × Nat :=
  let lg := fld v.toNat 20 5
  (fld v.toNat 31 1 = 1, if en then lgsz else if lg < 4 || 16 < lg then 4 else lg)

/-- EN and LGSZ as the last write of QCFG left them: those that the context block of a switched-out queue holds, or those in
force. -/
def Queue.pending (x : Queue) : Bool × Nat :=
  match x.later with
  | some v => (fld v.toNat 31 1 = 1, fld v.toNat 20 5)
  | none => (x.en, x.lgsz)

/-- QCFG as the bytes that a narrow write does not address stand: with the EN and LGSZ of the last write (R291, R292), and ERR 0,
which clears no W1C bit. -/
def Queue.cfgKept (x : Queue) : Word := Queue.cfg { x with err := false, en := x.pending.1, lgsz := x.pending.2 }

/-- A write of QCFG (R291, R292): ERR is W1C; OID and PMAX are read-only; while the queue is switched out EN and LGSZ land
in the context block. -/
def Queue.writeCfg (x : Queue) (v : Word) : Queue :=
  let err := x.err && fld v.toNat 30 1 = 0
  if 2 ≤ x.state then
    let p := cfgWrite x.pending.1 x.pending.2 v
    { x with err := err, later := some (BitVec.ofNat 32 (pack [(1, bit p.1), (6, 0), (5, p.2), (20, 0)])) }
  else
    let p := cfgWrite x.en x.lgsz v
    { x with err := err, en := p.1, lgsz := p.2, state := bit p.1 }

/-- A write of QTAIL (R293, R294); `stamp` is the last storage write before it. -/
def Queue.writeTail (x : Queue) (v : Word) (stamp : Nat) : Queue :=
  let d := (v - x.tail).toNat
  if d = 0 then x
  else if 2 ^ 31 ≤ d || 2 ^ x.lgsz < d + (x.tail - x.prog).toNat then { x with err := true }
  else { x with tail := v, covers := x.covers ++ [(v, stamp)] }

/-- A write of QBASE (R291, R292): ignored while EN = 1 as the last write left it. -/
def Queue.writeBase (x : Queue) (v : DWord) : Queue := if x.pending.1 then x else { x with base := fld v.toNat 7 49 }

/-- A host write of a queue register, if the queue exists. -/
def hostQueue (q : Nat) (s : State) (f : Queue → Queue) : Host.Outcome State Fault Refusal :=
  .next (if s.hostLink && q < 64 then s.setQueue q (f (s.queue q)) else s)

/-- QTAIL_WRITE (R293, R294). -/
def execQtailWrite (q : Nat) (v : BitVec 32) (s : State) : Host.Outcome State Fault Refusal :=
  hostQueue q s fun x => x.writeTail v s.mem.writes

/-- QUEUE_ENABLE (R292): a QCFG write that sets EN. -/
def execQueueEnable (q : Nat) (v : BitVec 32) (s : State) : Host.Outcome State Fault Refusal :=
  hostQueue q s fun x => if !x.pending.1 && fld v.toNat 31 1 = 1 then x.writeCfg v else x

/-- QUEUE_DISABLE (R292): a QCFG write that clears EN. -/
def execQueueDisable (q : Nat) (v : BitVec 32) (s : State) : Host.Outcome State Fault Refusal :=
  hostQueue q s fun x => if x.pending.1 && fld v.toNat 31 1 = 0 then x.writeCfg v else x

/-- QCFG_ERR_CLEAR (R291): a QCFG write with bit 30 set. -/
def execQcfgErrClear (q : Nat) (v : BitVec 32) (s : State) : Host.Outcome State Fault Refusal :=
  hostQueue q s fun x => if fld v.toNat 30 1 = 1 then x.writeCfg v else x

/-- QUEUE_OID_PMAX_SET (R291): the coachwork firmware sets the two fields. -/
def execQueueOidPmaxSet (q oid pmax : Nat) (s : State) : Host.Outcome State Fault Refusal :=
  whenRunning s <|
    if q < 64 && oid < 4096 && pmax < 8 then .next (s.setQueue q { s.queue q with oid := oid, pmax := pmax }) else .next s

/-! ### Records -/

/-- Latency class and distances of a record (R295). -/
def Node.cls (n : Node) : Nat := n.fld 0 57 3
def Node.preds (n : Node) : List Nat := ((List.range 4).map fun i => n.fld 1 (16 * i) 16).filter (· ≠ 0)

/-- Priority, clamped to PMAX (R295). -/
def State.pri (s : State) (n : Node) : Nat := min (n.fld 0 54 3) (s.queue n.q).pmax

/-- Operand identifiers that a grid-core record names (R295). -/
def Node.operands (n : Node) : List Nat :=
  ((List.range 16).map fun i => n.fld (8 + i / 8) (8 * (i % 8)) 8).filter (· ≠ 0xFF)

/-- The reserved fields of words 3 to 14 are zero, and the addresses aligned (R295, R329, R352, R355). -/
def Node.fieldsOk (n : Node) : Bool :=
  let zero (w : Nat) : Bool := n.words.getD w 0 = 0
  let z (w lo len : Nat) : Bool := n.fld w lo len = 0
  match n.eng with
  | 0 => z 3 56 8 && z 4 24 40 && zero 6 && zero 7 && (List.range 5).all fun i => zero (10 + i)
  | 1 => z 3 56 8 && z 4 56 8 && z 3 0 2 && z 4 0 2 && z 5 16 48 && z 6 56 8 && z 6 0 20 && z 7 41 23 && z 7 25 7 && z 7 12 4
      && decide (n.fld 7 32 9 + n.fld 7 16 9 + 1 ≤ 512) && zero 12 && zero 13 && zero 14
  | 2 => z 3 56 8 && z 4 56 8 && z 5 56 8 && z 7 16 48 && z 7 0 10 && decide (n.fld 7 13 2 < 2)
      && (List.range 7).all fun i => zero (8 + i)
  | 3 => z 3 56 8 && z 4 26 38 && z 4 0 2 && z 5 12 49 && z 6 56 8 && z 6 0 6 && z 7 56 8 && z 7 0 6
      && (List.range 7).all fun i => zero (8 + i)
  | _ => false

/-- The checks of R296 on a record alone. -/
def Node.recordOk (n : Node) (lgsz : Nat) : Bool :=
  decide (n.eng ≤ 3) && n.fld 0 52 2 = 0 && n.fld 0 0 32 = 0 && decide (1 ≤ n.dur) && decide (n.dur ≤ Config.bound n.cls)
    && n.preds.all (fun d => decide (d < 2 ^ lgsz)) && n.fld 2 56 7 = 0 && n.fld 2 32 18 = 0
    && !(n.fld 2 63 1 = 1 && n.fld 2 50 6 = n.q) && n.fieldsOk

/-- An entry of a ring has completed (R297): it lies behind PROG, or is held as completed. -/
def Queue.completed (x : Queue) (c : Word) : Bool :=
  decide ((x.prog - c - 1).toNat < 2 ^ 31) || (Cells.find x.done c.toNat).isSome

/-- The entries that a node names as predecessors. -/
def Node.predCounts (n : Node) : List Word := n.preds.map fun d => n.count - BitVec.ofNat 32 d

/-- A predecessor has completed with a fault (R299). -/
def Queue.predFaulted (x : Queue) (n : Node) : Bool :=
  n.predCounts.any fun c => match Cells.find x.done c.toNat with | some f => decide (f ≠ 0) | none => false

/-- Nodes that are in the ready pool (R297): those of a queue that is switched out lie in its context block (R311). -/
def State.poolSize (s : State) : Nat :=
  (s.nodes.filter fun p => p.2.admitted.isNone && decide ((s.queue p.2.q).state < 2)).length

/-- A queue with a record to fetch. -/
def Queue.fetches (x : Queue) : Bool := x.state = 1 && x.fetched ≠ x.tail

/-- The admitted nodes of a queue that was switched out resume before it fetches (R311): none is left to be admitted again, and
no evicted team of theirs. -/
def State.resumed (s : State) (q : Nat) : Bool :=
  (s.nodes.all fun p => p.2.q ≠ q || !p.2.out)
    && s.teams.all fun p => match p.2.state, Cells.find s.nodes p.2.node with
      | .saved true, some n => decide (n.q ≠ q)
      | _, _ => true

/-- The queue that the device serves next after queue `q`: the next with a record that it may fetch (R297). -/
def State.nextQueue (s : State) (q : Nat) : Option Nat :=
  ((List.range 64).map fun i => (q + 1 + i) % 64).find? fun k => (s.queue k).fetches && s.resumed k

/-- Round-robin: the queue whose turn it is goes on for up to 64 records, or the next one begins (R297). -/
def State.mayFetch (s : State) (q : Nat) : Bool :=
  (s.turn.1 = q && decide (s.turn.2 < 64)) || s.nextQueue s.turn.1 = some q


/-- The storage write after which record `c` is covered: what is written later was not written before the QTAIL value that
covers it (R293). -/
def State.coveredAt (s : State) (x : Queue) (c : Word) : Nat :=
  ((x.covers.find? fun p => decide ((p.1 - c - 1).toNat < 2 ^ 31)).map Prod.snd).getD s.mem.writes

/-- A byte of a record as the device fetches it: undefined where it was written after the QTAIL value that covers the record
(R7, R293). -/
def State.recordByte (s : State) (oid stamp va : Nat) : Option Byte :=
  match s.translate none oid va .load with
  | .ok pa _ _ => some (if stamp < Cells.get 0 s.mem.stamp pa then Config.freeByte s.tick (2 ^ 56 + va) else s.readSto oid pa)
  | _ => none

/-- The words of a record, none where a translation fails. -/
def State.recordWords (s : State) (oid stamp at_ : Nat) : List DWord :=
  bytesDWords (((List.range 128).mapM fun i => s.recordByte oid stamp (at_ + i)).getD [])

/-- A translation that has been kept for the owner and the object (R384). -/
def State.keptTranslation (s : State) (oid va : Nat) (o : Object) : Option Translation :=
  (s.translations.find? fun e => e.1 = oid && e.2.1 = va && e.2.2.1 = o).map fun e => e.2.2.2

/-- The node of a Celud object with its translation: NODE-INVALID where the slices do not fit (R383). -/
def Node.translated (n : Node) (o : Object) (tr : Translation) : Node :=
  match o.translated tr with
  | some o => { n with translating := false, object := some o }
  | none => { n with translating := false, stop := some (n.stop.getD 1) }

/-- The node of an object that was read: invalid by its identifiers or its entry (R296, R355); a Celud object is translated
first, or takes the translation kept (R384). -/
def State.withObject (s : State) (n : Node) (o : Object) : Node :=
  let bad : Node := { n with stop := some 1 }
  if n.eng = 3 && (o.celud || o.codeLen ≤ n.fld 4 0 26) then bad
  else if n.eng = 0 && !n.operands.all fun i =>
      tidOk ((List.range 16).map fun w => Cells.get 0 o.tids (16 * i + w)) then bad
  else if o.celud then match s.keptTranslation n.oid (n.fld 3 0 56) o with
    | some tr => n.translated o tr
    | none => { n with object := some o, translating := true }
  else { n with object := some o }

/-- The node that a fetched record makes, and the state with its object loaded: nothing, but the channels to wait for, where
the loader cannot read or place it yet (R296, R339, R377). -/
def State.loadNode (s : State) (n : Node) (lgsz : Nat) (place : Bases) : Except (List Nat × List Nat) (State × Node) :=
  let bad : Node := { n with stop := some 1 }
  if n.words.length ≠ 16 || !n.recordOk lgsz then .ok (s, bad)
  else if n.eng ≠ 0 && n.eng ≠ 3 then .ok (s, n)
  else match s.loadObject n.oid (n.fld 3 0 56) place with
    | .invalid => .ok (s, bad)
    | .held reads writes => .error (reads, writes)
    | .placed s' o => .ok (s', s.withObject n o)

/-- RECORD_FETCH (R292, R297): the record of the next count and its object are read under the queue's OID, once their channels
are free (R339), and the loader places the object's sections (R377). A predecessor that has faulted already makes the node
complete with PRED-FAULT (R299). -/
def execRecordFetch (f : Fetch) (s : State) : Host.Outcome State Fault Refusal :=
  whenRunning s <|
    let q := f.q
    let x := s.queue q
    if !(q < 64 && x.fetches && s.mayFetch q && s.resumed q && s.poolSize < 8192 && !s.moving x.oid) then .next s
    else
      let at_ := x.base * 128 + 128 * (x.fetched.toNat % 2 ^ x.lgsz)
      let words := s.recordWords x.oid (s.coveredAt x x.fetched) at_
      let waits := s.gWaits x.oid at_ 128 .load
      let n : Node := { q := q, count := x.fetched, entry := at_, oid := x.oid, words := words, fetchedAt := s.fresh }
      if !waits.isEmpty then .next (s.markWaiting waits)
      else match s.loadNode n x.lgsz f.place with
      | .error (reads, writes) => .next ((s.markWaiting reads).markWaiting writes false)
      | .ok (s', n) =>
        let n := if n.stop.isNone && x.predFaulted n then { n with stop := some 2 } else n
        let x' := { x with fetched := x.fetched + 1,
                           covers := x.covers.filter fun p => decide ((p.1 - x.fetched - 2).toNat < 2 ^ 31) }
        .next { (s'.setQueue q x') with
          nodes := Cells.put s'.nodes s.fresh n, fresh := s.fresh + 1,
          turn := if s.turn.1 = q && s.turn.2 < 64 then (q, s.turn.2 + 1) else (q, 1) }

/-- DZITUM_TRANSLATION (R383, R384): every rule of a Celud object is decided, so that one that breaks R375 to R382 makes its
node invalid; `code` and `keep` are what the translator made of a valid one, which is kept for later nodes. What it may not
make (R382, R386, R387) is no translation and changes nothing. -/
def execDzitumTranslation (node : Nat) (code : List Word) (keep : Keep) (s : State) : Host.Outcome State Fault Refusal :=
  whenRunning s <| match Cells.find s.nodes node with
  | none => .next s
  | some n =>
    match n.translating, n.object with
    | true, some o =>
      if !celudValid o.words then
        .next { s with nodes := Cells.put s.nodes node { n with translating := false, stop := some (n.stop.getD 1) } }
      else
        let tr := (s.keptTranslation n.oid (n.fld 3 0 56) o).getD { toKeep := keep, code := code }
        if !o.mayBe tr then .next s
        else .next { s with
          nodes := Cells.put s.nodes node (n.translated o tr)
          translations := (n.oid, n.fld 3 0 56, o, tr)
            :: s.translations.filter fun e => !(e.1 = n.oid && e.2.1 = n.fld 3 0 56 && e.2.2.1 = o) }
    | _, _ => .next s

/-! ### Completion -/

/-- PROG advances over completed entries in ring order (R299); entries behind it stay held only for their faults. -/
def Queue.advance : Nat → Queue → Queue
  | 0, x => x
  | n + 1, x =>
    match Cells.find x.done x.prog.toNat with
    | none => x
    | some f => Queue.advance n
        { x with prog := x.prog + 1, done := if f = 0 then Cells.drop x.done x.prog.toNat else x.done }

/-- Faults of entries too far behind for any distance to name are forgotten. -/
def Queue.forget (x : Queue) : Queue :=
  { x with done := x.done.filter fun p => decide ((x.prog - BitVec.ofNat 32 p.1 - 1).toNat < 2 ^ 16)
      || decide (2 ^ 31 ≤ (x.prog - BitVec.ofNat 32 p.1 - 1).toNat) }

/-- The teams of a node. -/
def State.teamsOf (s : State) (node : Nat) : List (Nat × Team) := s.teams.filter fun p => p.2.node = node

/-- No half stands in the middle of a run of the team, and every access of its earlier runs has been performed (R50, R120). -/
def State.atTrailers (s : State) (team : Nat) (t : Team) : Bool :=
  ((List.range t.coaches.length).all fun ci => !s.inRun team ci) && !s.teamWaits team

/-- A team has been saved (R306). -/
def Team.out (t : Team) : Bool := match t.state with | .saved _ => true | _ => false

/-- Threads of a Celud node have disagreed about a bar: only UNHANDLED and OVERRUN are left to it (R379). -/
def State.brokenNode (s : State) (id : Nat) : Bool :=
  (s.teamsOf id).any fun p => match p.2.celud with | some c => c.broken | none => false

/-- The fault code with which a node may complete now, if it may (R50, R299, R310, R338, R355, R379). -/
def State.nodeDone (s : State) (id : Nat) (n : Node) : Option Nat :=
  if n.out && n.stop ≠ some 6 then none
  else if n.admitted.isNone then n.stop
  else
    let teams := s.teamsOf id
    match n.eng with
    | 0 =>
      match n.stop with
      | some c =>
        if teams.all fun p => s.atTrailers p.1 p.2 && (c ≠ 6 || p.2.out || p.2.coaches.all Coach.ended) then some c else none
      | none =>
        if n.unlaunched.isEmpty && !s.brokenNode id && teams.all (fun p => p.2.coaches.all Coach.ended && !s.teamWaits p.1) then some 0
        else none
    | 1 =>
      let ds := s.drays.filter fun p => p.2.node = id
      if n.start.isEmpty && ds.all (fun p => p.2.stopped) then
        some (n.stop.getD (if ds.any (fun p => p.2.faulted) then 5 else 0))
      else if n.stop = some 6 && ds.all (fun p => p.2.stopped) then some 6
      else none
    | 2 => match n.stop with
      | some c => some c
      | none => if s.requests.all fun p => p.2.node ≠ some id then some 0 else none
    | _ => if n.batch = 0 then some (n.stop.getD 0) else none

/-- An admitted dray kernel starts, or goes on, on each of its channels that no other kernel holds: first the node that was
admitted first (R302, R348). -/
def State.startDrays (s : State) (id : Nat) : State :=
  match Cells.find s.nodes id with
  | none => s
  | some n =>
    if n.out || n.admitted.isNone then s
    else
      let go := n.start.filter fun p => (Cells.find s.drays p.1).isNone
      { s with
        nodes := Cells.put s.nodes id { n with start := n.start.filter fun p => (Cells.find s.drays p.1).isSome }
        drays := go.foldl (fun d p => Cells.put d p.1 { p.2 with saved := false }) s.drays }

/-- All waiting kernels that can start, start. -/
def State.startAll (s : State) : State := (s.nodes.filter fun p => !p.2.start.isEmpty).foldl (fun s p => s.startDrays p.1) s

/-- Everything that a completed node held leaves the device. An evicted node's stopped requests end without effect
(R310). -/
def State.dropNode (s : State) (id code : Nat) : State :=
  let gone := (s.teamsOf id).map Prod.fst
  { s with
    nodes := Cells.drop s.nodes id
    teams := s.teams.filter fun p => p.2.node ≠ id
    waits := s.waits.filter fun e => !gone.contains e.team
    jobs := s.jobs.filter fun j => !gone.contains j.team
    requests := s.requests.filter fun p => p.2.node ≠ some id && !(decide (code = 6) && gone.contains p.2.team)
    drays := s.drays.filter fun p => p.2.node ≠ id }

/-- A completion counts as one that passed its class bound: not for OVERRUN, eviction or functions of a batch that ran longer than
their reservations, unless a hardware fault delayed it (R305). -/
def Node.missed (n : Node) (slot code : Nat) : Bool :=
  n.admitted.isSome && n.bounded && decide (n.deadline < slot) && code ≠ 4 && code ≠ 6 && (n.excused || !n.late)

/-- NODE_COMPLETION (R299): the status word is written under the queue's OID, PROG advances, and nodes that name a faulted
node complete with PRED-FAULT. -/
def execNodeCompletion (node : Nat) (s : State) : Host.Outcome State Fault Refusal :=
  whenRunning s <| match Cells.find s.nodes node with
  | none => .next s
  | some n =>
    let x := s.queue n.q
    match s.nodeDone node n with
    | none => .next s
    | some code =>
      if (2 ≤ x.state && code ≠ 6) || s.moving n.oid then .next s
      else if s.gHeld n.oid (n.entry + 120) then .next (s.markWaiting (s.gWait n.oid (n.entry + 120) .store) false)
      else
        let status := 2 ^ 63 + code * 2 ^ 48 + s.slot % 2 ^ 48
        let s := (s.gStore n.oid (n.entry + 120) (leBytes 8 status)).gRelease n.oid (n.entry + 120) 8
        let s := (s.dropNode node code).startAll
        let x := { x with done := Cells.put x.done n.count.toNat code }
        let x := if 2 ≤ x.state then x else (Queue.advance 65537 x).forget
        let s := s.setQueue n.q x
        let s := { s with nodes := s.nodes.map fun p =>
          (p.1, if p.2.q = n.q && p.2.admitted.isNone && p.2.stop.isNone && code ≠ 0 && p.2.predCounts.contains n.count
            then { p.2 with stop := some 2 } else p.2) }
        let s := if code = 0 then s else s.count (0x410 + code)
        .next (if n.missed s.slot code then s.count 0x310 else s)

/-- The class bound of a grid-core or dray node has expired before its work had ended (R50). -/
def State.expired (s : State) (id : Nat) (n : Node) : Bool :=
  n.admitted.isSome && decide (n.eng < 2) && n.bounded && decide (n.deadline ≤ s.slot) && n.stop.isNone && (s.nodeDone id n).isNone

/-- OVERRUN (R50, R379): the class bound of a grid-core or dray node has expired; a Celud node whose threads disagree may be
stopped at any moment, with either code. -/
def execOverrun (node : Nat) (s : State) : Host.Outcome State Fault Refusal :=
  whenRunning s <| match Cells.find s.nodes node with
  | none => .next s
  | some n =>
    if n.admitted.isNone || 2 ≤ n.eng then .next s
    else if s.brokenNode node then .next (s.stopNode node (if Config.choose s.tick 0 % 2 = 0 then 4 else 5))
    else if s.expired node n then .next (s.stopNode node 4)
    else .next s

end Sys2Proof.Machine
end

