-- ==== Sys2Proof/Machine/SysReg.lean ====
section
/-!
DEFINITION. The system registers (spec/14_instr_uniform.md R214 to R219; spec/01_execution.md R27; spec/05_memory.md R75;
spec/07_ordering.md R122; spec/21_scheduling.md R308, R309; spec/23_faults.md R316; spec/27_envelope.md R359).
-/

namespace Sys2Proof.Machine

/-! ### Field maps -/

/-- COORD (R27). -/
def coordOf (t : Team) (ci : Nat) (c : Coach) : Nat :=
  pack [(8, t.core), (3, c.stage), (5, ci), (5, t.coaches.length - 1), (4, c.ctx), (2, c.slot), (5, 0)]

/-- TEAMCRD (R27). -/
def teamcrdOf (t : Team) : Nat := pack [(2, 0), (10, t.tz), (10, t.ty), (10, t.tx)]

/-- MEMGRANT (R75). -/
def memgrantOf (g : Grants) : Nat := pack [(6, g.ocsz), (8, g.spsz), (6, g.lssz), (4, g.cgsz), (1, 0), (7, g.tagn)]

/-- MSTR of a declared revision (R122). -/
def mstrOf (rev : Nat) : Nat :=
  pack [(24, 0), (2, rev), (2, 0), (1, bit (rev == 2)), (3, if rev = 1 then 2 else 7)]

/-- CTXCTL (R216). -/
def ctxctlOf (t : Team) (c : Coach) : Nat := pack [(30, 0), (1, bit c.hnd), (1, bit t.compat)]

/-- TBASE (R219, R315), set at launch: zero where the owner had no handler image. -/
def tbaseOf (t : Team) : Nat :=
  match t.image with
  | some im => fld im.vbase 0 44 * 4096
  | none => 0

/-- FRBUF (R316). -/
def frbufOf (c : Coach) : Nat := c.area.toNat * 1024 + c.act.toNat

/-- The save size of a team (R309). -/
def Team.saveSize (t : Team) : Nat :=
  (t.coaches.map fun c => 1024 + c.allot * 128).sum + t.grants.spsz * 4096
    + t.coaches.length * 32 * t.grants.lssz * 256 + (if t.accu then 2 ^ 20 else 0)

/-- The effective slice of a team with written slice `len` (R309). -/
def State.effectiveSlice (s : State) (team : Nat) (t : Team) (len : Nat) : Nat :=
  let b := (s.teams.filter fun p => p.1 ≠ team && p.2.core = t.core).foldl (fun m p => max m p.2.saveSize) 0
  let tsw := 32 + ceilDiv (t.saveSize + b) 4096
  if len ≠ 0 && len < tsw then tsw + 782 else len

/-- The clamp of a written slice to the launch slice, 0 counting as the largest value (R308). -/
def clampSlice (launch v : Nat) : Nat :=
  if launch = 0 then v else if v = 0 || launch < v then launch else v

/-- A write of ETOL (R359). -/
def etolWrite (v : Word) : Word :=
  if v.toNat < 2 ^ 31 && v.toNat ≤ 0x7F800000 then v else 0

/-- A write of ECAP (R359). -/
def ecapWrite (v : Nat) : BitVec 11 := if fld v 0 11 = 0 || 1024 < fld v 0 11 then 1024 else BitVec.ofNat 11 v

/-! ### SRRD -/

/-- The numbers of R215. -/
def srListed (n : Nat) : Bool :=
  [0x00, 0x01, 0x02, 0x03, 0x04, 0x05, 0x06, 0x08, 0x09, 0x10, 0x11, 0x18, 0x20, 0x21].contains n

/-- The 64-bit registers of R215. -/
def srWide (n : Nat) : Bool := [0x08, 0x10, 0x11].contains n

/-- What a coach reads (R215); LANEXY is read apart. -/
def State.srValue (_s : State) (h : Here) (n : Nat) : Nat :=
  match n with
  | 0x00 => coordOf h.t h.ci h.c
  | 0x01 => teamcrdOf h.t
  | 0x02 => h.uniformLane
  | 0x03 => ctxctlOf h.t h.c
  | 0x04 => fld h.t.oid 0 12
  | 0x05 => memgrantOf h.t.grants
  | 0x06 => mstrOf h.t.rev
  | 0x08 => h.t.tags.toNat
  | 0x09 => h.c.vi.toNat
  | 0x10 => tbaseOf h.t
  | 0x11 => frbufOf h.c
  | 0x18 => fld h.t.slice 0 24
  | 0x20 => h.c.etol.toNat
  | 0x21 => h.c.ecap.toNat
  | _ => 0

/-- What a remote function reads (R265). -/
def srRemote (h : Here) (ex n : Nat) : Nat :=
  let column := decide (0x100 ≤ ex) && decide (ex < 0x400)
  match n with
  | 0x04 => fld h.t.oid 0 12
  | 0x06 => mstrOf 3
  | 0x05 => if column then memgrantOf h.t.grants else 0
  | 0x00 => if column then pack [(8, ex - 0x100), (24, 0)] else 0
  | _ => 0

/-- SRRD (R214, R215, R265): LANEXY into a V register gives each active lane its own value. A read of TAGS observes the
completions that it returns (R114). -/
def execSrrd (sw : Bool) (d : BitVec 8) (num : BitVec 16) (s : State) : Host.Outcome State Fault Refusal :=
  nativeHere sw true s fun h => do
    let n := num.toNat
    if !srListed n then .error illegal
    let x := match h.remote with | some ex => srRemote h ex n | none => s.srValue h n
    if srWide n then
      h.okUPair d
      let h := if n = 0x08 && h.remote.isNone then h.sawTags h.t.tags else h
      pure (h.setUPair d.toNat (BitVec.ofNat 64 x) false)
    else
      h.okU d
      if n = 0x02 && d.toNat < 192 then
        pure (h.eachLane fun k l => k.setV d.toNat l (BitVec.ofNat 32 l) false)
      else pure (h.setU d.toNat (BitVec.ofNat 32 x) false)

/-! ### SRWR -/

/-- The registers after a write of `x` (R13, R14, R215); read-only fields keep their values. -/
def State.srWrite (s : State) (h : Here) (n x : Nat) : Here :=
  match n with
  | 0x09 => { h with c := { h.c with vi := BitVec.ofNat 8 x } }
  | 0x11 => { h with c := { h.c with act := BitVec.ofNat 2 x } }
  | 0x18 =>
    let len := clampSlice h.t.launchSlice (fld x 0 24)
    { h with t := { h.t with len := len, slice := s.effectiveSlice h.team h.t len } }
  | 0x20 => { h with c := { h.c with etol := etolWrite (BitVec.ofNat 32 x) } }
  | 0x21 => { h with c := { h.c with ecap := ecapWrite x } }
  | _ => h

/-- SRWR (R214): D is the source register. -/
def execSrwr (sw : Bool) (d : BitVec 8) (num : BitVec 16) (s : State) : Host.Outcome State Fault Refusal :=
  nativeHere sw false s fun h => do
    let n := num.toNat
    if !srListed n then .error illegal
    if srWide n then
      h.okUPair d
      pure (s.srWrite h n (h.uPair d.toNat).1.toNat)
    else
      h.okU d
      pure (s.srWrite h n (h.u d.toNat).1.toNat)

end Sys2Proof.Machine
end

