-- ==== Sys2Proof/Machine/Nodes.lean ====
section
/-!
DEFINITION. Admission of nodes and the launch of teams (spec/21_scheduling.md R298 to R303; spec/01_execution.md R28, R30;
spec/05_memory.md R75 to R78; spec/25_near_memory.md R330, R331, R349, R352, R355; spec/29_portable_isa.md R385).
-/

namespace Sys2Proof.Machine

/-! ### Room on a core -/

/-- Two teams belong to one group (R78). -/
def Team.sameGroup (a b : Team) : Bool :=
  a.node = b.node && a.ty = b.ty && a.tz = b.tz && a.tx / a.grants.cgsz = b.tx / a.grants.cgsz

/-- Every coach of a team has ended. -/
def Team.over (t : Team) : Bool := t.coaches.all Coach.ended

/-- A team has left its core (R76): its coaches have ended, and so have those of its group, which may still reach its scratchpad
(R78), and no remote call of it may still reach its overhead grant (R264). -/
def State.teamLeft (s : State) (k : Nat) (t : Team) : Bool :=
  t.over && (t.grants.cgsz = 0 || s.teams.all fun p => !t.sameGroup p.2 || p.2.over)
    && s.calls.all fun p => p.2.team ≠ k || p.2.result.isSome

/-- Teams that occupy a core: resident ones and those that are stopping. -/
def State.occupants (s : State) (core : Nat) : List (Nat × Team) :=
  s.teams.filter fun p => p.2.core = core && !p.2.out && !s.teamLeft p.1 p.2

/-- Contexts in use on a core: half, context number 16 · slot + ctx, allotment; an ended coach holds none (R42). -/
def State.usedContexts (s : State) (core : Nat) : List (Nat × Nat × Nat) :=
  (s.occupants core).flatMap fun p => (p.2.coaches.filter fun c => !c.ended).map fun c =>
    (halfOf core c % 8, 16 * c.slot + c.ctx, c.allot)

/-- The half of a context number (R22). -/
def contextHalf (k : Nat) : Nat := 2 * (k / 16) + k % 2

/-- `nc` contexts for coaches of an allotment, taken from the lowest number up: at most 768 registers a half, and never
context 15 of slot 3 (R22, R28; log entry 20). -/
def takeContexts (allot : Nat) : List Nat → List (Nat × Nat × Nat) → Nat → List Nat
  | [], _, _ => []
  | _, _, 0 => []
  | k :: rest, used, n + 1 =>
    let half := contextHalf k
    let sum := ((used.filter fun u => u.1 = half).map fun u => u.2.2).sum
    if k ≠ 63 && used.all (fun u => u.2.1 ≠ k) && sum + allot ≤ 768 then
      k :: takeContexts allot rest ((half, k, allot) :: used) n
    else takeContexts allot rest used (n + 1)

/-- Contexts for a team on a core, or none. -/
def State.contexts (s : State) (core allot nc : Nat) : Option (List Nat) :=
  let l := takeContexts allot (List.range 64) (s.usedContexts core) nc
  if l.length = nc then some l else none

/-- The MiB taken of a core's overhead column: by resident teams, and by those that left and must return (R76, R326). -/
def State.columnTaken (s : State) (core : Nat) : List Nat :=
  (s.teams.filter fun p => p.2.core = core && !s.teamLeft p.1 p.2).flatMap fun p => p.2.column

/-- `n` free MiB of a core's overhead column, the lowest, if the grants then sum to at most 56 MiB (R76; log entry 20). -/
def State.overheadAt (s : State) (core n : Nat) : Option (List Nat) :=
  let l := ((List.range 56).filter fun k => !(s.columnTaken core).contains k).take n
  if l.length = n then some l else none

/-- Scratchpad and slices of a team in bytes (R76). -/
def Team.scratchBytes (t : Team) : Nat := t.grants.spsz * 4096 + t.coaches.length * 32 * (t.grants.lssz * 256)

/-- A core has room for a team's scratchpad, tags, accumulator store and envelope unit (R76, R277, R358). -/
def State.hasRoom (s : State) (core except : Nat) (bytes tagn : Nat) (accu envu : Bool) : Bool :=
  let l := s.occupants core
  decide ((l.map fun p => p.2.scratchBytes).sum + bytes ≤ 2 ^ 19)
    && decide ((l.map fun p => p.2.grants.tagn).sum + tagn ≤ 64)
    && !(accu && l.any fun p => p.2.accu)
    && !(envu && s.teams.any fun p => p.1 ≠ except && p.2.core = core && p.2.envu && !s.teamLeft p.1 p.2)

/-- Scratchpad and slices of a team of an object. -/
def Object.scratchBytes (o : Object) : Nat := o.spsz * 4096 + o.nc * 32 * (o.lssz * 256)

/-- A core can hold a team of an object now. -/
def State.canHold (s : State) (core : Nat) (o : Object) : Bool :=
  (s.contexts core o.allot o.nc).isSome && (s.overheadAt core o.ocsz).isSome
    && s.hasRoom core 0 o.scratchBytes o.tagn o.accu o.envu

/-! ### Groups of teams -/

/-- The team coordinates of a node, x innermost (R26). -/
def Object.grid (o : Object) : List (Nat × Nat × Nat) :=
  (List.range o.gz).flatMap fun z => (List.range o.gy).flatMap fun y => (List.range o.gx).map fun x => (x, y, z)

/-- The teams that are placed together with the first of a list (R78). -/
def groupOf (cgsz : Nat) (l : List (Nat × Nat × Nat)) : List (Nat × Nat × Nat) :=
  match l with
  | [] => []
  | t :: _ =>
    if cgsz = 0 then [t]
    else l.filter fun u => u.2 = t.2 && u.1 / cgsz = t.1 / cgsz

/-- The sizes of the groups of a node. -/
def Object.groupSizes (o : Object) : List Nat :=
  if o.cgsz = 0 then List.replicate (o.gx * o.gy * o.gz) 1
  else List.flatten (List.replicate (o.gy * o.gz)
    ((List.range (ceilDiv o.gx o.cgsz)).map fun i => min o.cgsz (o.gx - i * o.cgsz)))

/-- Cores of a cluster. -/
def coresOf (cluster : Nat) : List Nat := (List.range 8).map fun i => 8 * cluster + i

/-- Some cluster can hold a group of `k` teams now (R298). -/
def State.canHoldGroup (s : State) (o : Object) (k : Nat) : Bool :=
  (List.range 24).any fun cl => decide (k ≤ ((coresOf cl).filter fun c => s.canHold c o).length)

/-! ### Reservations of nodes -/

/-- A core has its contexts, and the accumulator store where required, free over `dur` slots from `t` (R302). -/
def State.coreFree (s : State) (core t dur nc : Nat) (accu : Bool) : Bool :=
  (List.range dur).all fun i => decide (nc ≤ s.free (0x100 + core) (t + i))
    && (!accu || decide (1 ≤ s.free (0x200 + core) (t + i)))

/-- Reservations of a group of `k` teams: distinct cores of one cluster, at one time (R78, R302; log entry 20). -/
def State.placeGroup (s : State) (now slots dur k : Nat) (o : Object) : Option (List Reserve) :=
  if slots < dur then none
  else (List.range 24).findSome? fun cl => (List.range (slots - dur + 1)).findSome? fun i =>
    let t := now + i
    let ok := (coresOf cl).filter fun c => s.coreFree c t dur o.nc o.accu
    if k ≤ ok.length then
      some ((ok.take k).flatMap fun c =>
        { res := 0x100 + c, slot := t, len := dur, amount := o.nc }
          :: if o.accu then [{ res := 0x200 + c, slot := t, len := dur, amount := 1 }] else [])
    else none

/-- All groups of a node placed, or none. -/
def State.placeGroups (s : State) (now slots dur : Nat) (o : Object) : List Nat → Option State
  | [] => some s
  | k :: rest =>
    match s.placeGroup now slots dur k o with
    | none => none
    | some l => { s with calendar := s.calendar ++ l }.placeGroups now slots dur o rest

/-- What a node asks of the calendars: teams of an object in groups of given sizes, or needs. -/
inductive NodeNeed where
  | teams (o : Object) (groups : List Nat)
  | needs (l : List Need)

/-- A node placed in the slots from `now` on (R302: a node has no transit). -/
def State.placeNode (s : State) (now : Nat) (n : Node) : NodeNeed → Option State
  | .teams o l => s.placeGroups now (Config.bound n.cls) n.dur o l
  | .needs l => s.placeAll now (Config.bound n.cls) l

/-- The hint of a refused node (R303). -/
def State.nodeHint (s : State) (n : Node) (need : NodeNeed) : Nat :=
  match (List.range 524288).find? fun k => (s.placeNode (s.slot + k + 1) n need).isSome with
  | some k => k + 1
  | none => 0x7FFFFFFF

/-! ### The candidate -/

/-- A node in the pool is ready and not before its retry hint (R297, R298). -/
def State.nodeReady (s : State) (n : Node) : Bool :=
  let x := s.queue n.q
  n.admitted.isNone && n.stop.isNone && !n.translating && decide (x.state < 2) && decide (n.retry ≤ s.slot)
    && n.predCounts.all x.completed
    && (n.fld 2 63 1 = 0 || decide (((s.queue (n.fld 2 50 6)).prog - BitVec.ofNat 32 (n.fld 2 0 32)).toNat < 2 ^ 31))

/-- Resource classes that a node needs, for the rule on refused nodes (R298): ranges of resource numbers. -/
def State.nodeResources (s : State) (n : Node) : List (Nat × Nat) :=
  match n.eng with
  | 0 => (0x100, 192)
      :: (match n.object with
        | some o => (if o.accu then [(0x200, 192)] else []) ++ (if o.envu then [(0x400, 192)] else [])
        | none => [])
  | 1 =>
    let st := s.tableStack n.oid (n.fld 6 20 36 * 2 ^ 20)
    [(0x1000 + 512 * st + n.fld 7 32 9, n.fld 7 16 9 + 1)]
  | 2 => let st := s.tableStack n.oid (n.fld 3 0 56); [(8 + st, 1), (st, 1)]
  | _ => [(0x20 + 16 * n.fld 5 61 3, min 16 (n.fld 5 0 12 + 1))]

/-- A node of higher PRI that has been refused 16 times in a row needs a resource of this one (R298). -/
def State.starved (s : State) (n : Node) : Bool :=
  s.nodes.any fun p => p.2.admitted.isNone && p.2.stop.isNone && decide (16 ≤ p.2.refusals) && decide (s.pri n < s.pri p.2)
    && (s.nodeResources p.2).any fun a => (s.nodeResources n).any fun b => pagesMeet a b

/-- The node is the one that the device tries: no other ready node has higher PRI, or equal PRI and an older fetch
(R298). -/
def State.isCandidate (s : State) (n : Node) : Bool :=
  s.nodeReady n && !s.starved n && s.nodes.all fun p =>
    !(s.nodeReady p.2 && !s.starved p.2
      && (decide (s.pri n < s.pri p.2) || (s.pri p.2 = s.pri n && decide (p.2.fetchedAt < n.fetchedAt))))

/-! ### Dray nodes -/

/-- The physical base of a region granule: 1 MiB, contiguous and aligned in HBM, readable and writable (R330). -/
def State.granuleBase (s : State) (oid va : Nat) : Option Nat :=
  let one (i : Nat) : Option Nat :=
    match s.translate none oid (va + 65536 * i) .atomic with
    | .ok pa _ _ => some pa
    | _ => none
  match one 0 with
  | none => none
  | some b =>
    if b % 2 ^ 20 = 0 && b < 2 ^ 39 && (List.range 16).all fun i => one i = some (b + 65536 * i) then some b else none

/-- The granules of a region, all in one stack (R330). -/
def State.regionRows (s : State) (n : Node) : Option (List Nat) :=
  match (List.range (n.fld 7 0 12 + 1)).mapM fun g => s.granuleBase n.oid (n.region.1 + g * 2 ^ 20) with
  | none => none
  | some rows => if rows.all fun r => stackOf r = stackOf (rows.headD 0) then some rows else none

/-- A program of a dray kernel, none of its words reserved (R330, R333). -/
def State.drayProgram (s : State) (oid va len top : Nat) : Option (List Word) :=
  match s.gBytes oid va (4 * len) with
  | none => none
  | some b =>
    let ws := bytesWords b
    if ws.all fun w => fld w.toNat 31 1 = top && (decodeDray w).isSome then some ws else none

/-- A dray at the start of its kernel (R329, R331). -/
def Node.newDray (n : Node) (id : Nat) (rows : List Nat) (progA progX : List Word) (index : Nat) : Dray :=
  let half (w i : Nat) : Word := BitVec.ofNat 32 (n.fld (w + i / 2) (32 * (i % 2)) 32)
  { node := id, oid := n.oid, rows := rows, progA := progA, progX := progX,
    j := Cells.set 0 ((List.range 4).foldl (fun m i => Cells.set 0 m i (half 8 i)) []) 15 (BitVec.ofNat 32 index),
    f := (List.range 4).foldl (fun m i => Cells.set 0 m i (half 10 i)) [] }

/-- The channels of a dray node. -/
def Node.channels (n : Node) (rows : List Nat) : List Nat :=
  (List.range (n.fld 7 16 9 + 1)).map fun i => 512 * Sys2Proof.fld (rows.headD 0) 36 3 + n.fld 7 32 9 + i

/-! ### Gather-scatter nodes -/

/-- The agent of a node's own work. -/
def Node.agent (n : Node) : Agent := { oid := n.oid, team := 0, t := { oid := n.oid } }

/-- The request of a gather-scatter node, or nothing where a check of R260 or R243 fails (R352). -/
def State.gatherNode (s : State) (id : Nat) (n : Node) : Option Request :=
  let e := 2 ^ n.fld 7 10 3
  let isz := if n.fld 7 13 2 = 0 then 2 else 4
  let scatter := n.fld 7 15 1 = 1
  let table := n.fld 3 0 56
  let index := n.fld 4 0 56
  let dense := n.fld 5 0 56
  let count := n.fld 6 32 32
  let bound := n.fld 6 0 32
  if count = 0 || 65536 < count || s.anyHost n.oid table (bound * e) || table % e ≠ 0 || dense % e ≠ 0 || index % isz ≠ 0 then
    none
  else
    match s.wholeRange n.agent 4 (if scatter then .store else .load) table (bound * e),
        s.wholeRange n.agent 4 .load index (count * isz),
        s.wholeRange n.agent 4 (if scatter then .load else .store) dense (count * e) with
    | .ok tab, .ok idx, .ok den => some
        { team := 0, coach := 0, oid := n.oid, tag := 0, cls := n.cls, scope := 6, deadline := s.slot + Config.bound n.cls,
          bounded := false, work := .gather scatter isz e count bound tab idx den,
          pages := s.pagesOf n.oid table (bound * e) ++ s.pagesOf n.oid index (count * isz) ++ s.pagesOf n.oid dense (count * e),
          old := s.issueBytes n.oid idx ++ if scatter then s.issueBytes n.oid den else [],
          node := some id }
    | _, _, _ => none

/-- The channels that the checks of a try to admit a node wait for: of the walks of its ranges, and of a dray kernel's
programs, which admission reads (R330, R339, R352). -/
def State.admitWaits (s : State) (n : Node) : List Nat :=
  let range (w len : Nat) (acc : Access) : List Nat :=
    match s.wholeRange n.agent 4 acc (n.fld w 0 56) len with | .error (.hold chans) => chans | _ => []
  match n.eng with
  | 1 =>
    walkWaits (s.walksOf n.oid n.region.1 n.region.2) ++ s.gWaits n.oid (n.fld 3 0 56) (4 * (n.fld 5 8 8 + 1)) .load
      ++ s.gWaits n.oid (n.fld 4 0 56) (4 * (n.fld 5 0 8 + 1)) .load
  | 2 =>
    let e := 2 ^ n.fld 7 10 3
    let scatter := n.fld 7 15 1 = 1
    walkWaits (s.walksOf n.oid (n.fld 3 0 56) (n.fld 6 0 32 * e))
      ++ range 3 (n.fld 6 0 32 * e) (if scatter then .store else .load)
      ++ range 4 (n.fld 6 32 32 * if n.fld 7 13 2 = 0 then 2 else 4) .load
      ++ range 5 (n.fld 6 32 32 * e) (if scatter then .load else .store)
  | _ => []

/-! ### Admission -/

/-- The outcome of a try: refused with a hint (that may end the node, or not), invalid, or admitted. -/
inductive Try where
  | refused (hint : Nat) (final : Bool)
  | invalid
  | admitted (s : State) (n : Node)

/-- The node admitted in a state that holds its reservations: its class bound begins (R300). -/
def Node.admittedAt (n : Node) (slot : Nat) : Node :=
  { n with admitted := some slot, deadline := slot + Config.bound n.cls, refusals := 0 }

/-- The reservations of a node, or its refusal (R302, R303). -/
def State.tryPlace (s : State) (n : Node) (need : NodeNeed) (f : State → Try) : Try :=
  match s.placeNode s.slot n need with
  | some s => f s
  | none => .refused (s.nodeHint n need) true

/-- The calls of a batch (R355). -/
def State.addBatch (s : State) (id : Nat) (n : Node) (o : Object) : Nat → State
  | 0 => s
  | k + 1 =>
    let s := s.addBatch id n o k
    let count := n.fld 5 0 12 + 1
    let c : Call :=
      { token := 0, ex := 16 * n.fld 5 61 3 + k % min 16 count, team := 0, coach := 0, oid := n.oid,
        deadline := s.slot + Config.bound n.cls, nret := 8, payload := [], entry := n.fld 4 0 26, known := s.written,
        caller := { oid := n.oid, code := o.code, codeLen := o.codeLen }, batch := some (id, k) }
    (s.addCall c).1

/-- One try to admit a node (R95, R298, R302, R330, R352, R355). -/
def State.tryNode (s : State) (id : Nat) (n : Node) : Try :=
  match n.eng with
  | 0 =>
    match n.object with
    | none => .invalid
    | some o =>
      s.tryPlace n (.teams o o.groupSizes) fun s =>
        if !o.groupSizes.all fun k => s.canHoldGroup o k then .refused 1 false
        else .admitted s { n.admittedAt s.slot with unlaunched := o.grid }
  | 1 =>
    match s.regionRows n, s.drayProgram n.oid (n.fld 3 0 56) (n.fld 5 8 8 + 1) 0,
        s.drayProgram n.oid (n.fld 4 0 56) (n.fld 5 0 8 + 1) 1 with
    | some rows, some pa, some px =>
      let page := [n.region]
      let chans := n.channels rows
      if s.swapPending n.oid page then .refused (s.swapHint n.oid page) false
      else s.tryPlace n (.needs (chans.map fun c => .solid (0x1000 + c) n.dur 1)) fun s =>
        .admitted s { n.admittedAt s.slot with start := (chans.zipIdx).map fun c => (c.1, n.newDray id rows pa px c.2) }
    | _, _, _ => .invalid
  | 2 =>
    match s.gatherNode id n with
    | none => .invalid
    | some r =>
      let st := s.tableStack n.oid (n.fld 3 0 56)
      let count := n.fld 6 32 32
      if s.swapPending n.oid r.pages then .refused (s.swapHint n.oid r.pages) false
      else s.tryPlace n (.needs [.spread (8 + st) count, .spread st (count * 2 ^ n.fld 7 10 3)]) fun s =>
        .admitted (s.addRequest r) (n.admittedAt s.slot)
  | _ =>
    match n.object with
    | none => .invalid
    | some o =>
      let count := n.fld 5 0 12 + 1
      let need := (List.range (min 16 count)).map fun e =>
        Need.solid (0x20 + 16 * n.fld 5 61 3 + e) (ceilDiv count 16 * n.dur) 1
      s.tryPlace n (.needs need) fun s => .admitted (s.addBatch id n o count) { n.admittedAt s.slot with batch := count }

/-- The sizes of the groups of the teams that a node has not launched (R78). -/
def groupsLeft (cgsz : Nat) : Nat → List (Nat × Nat × Nat) → List Nat
  | 0, _ => []
  | fuel + 1, l =>
    let g := groupOf cgsz l
    if g.isEmpty then [] else g.length :: groupsLeft cgsz fuel (l.filter fun u => !g.contains u)

/-- What an admitted node that was switched out with its queue must reserve again (R311, R348): its teams not yet launched (an
evicted team reserves as it resumes), the drays and the executors that it has not done with, or its gather work. -/
def State.needAgain (s : State) (n : Node) : NodeNeed :=
  match n.eng with
  | 0 => match n.object with
    | some o => .teams o (groupsLeft o.cgsz n.unlaunched.length n.unlaunched)
    | none => .needs []
  | 1 => .needs (n.start.map fun p => .solid (0x1000 + p.1) n.dur 1)
  | 2 =>
    let st := s.tableStack n.oid (n.fld 3 0 56)
    .needs [.spread (8 + st) (n.fld 6 32 32), .spread st (n.fld 6 32 32 * 2 ^ n.fld 7 10 3)]
  | _ => .needs ((List.range (min 16 n.batch)).map fun e =>
      .solid (0x20 + 16 * n.fld 5 61 3 + e) (ceilDiv n.batch 16 * n.dur) 1)

/-- An admitted node of a resumed queue may be admitted again (R311). -/
def State.mayRejoin (s : State) (n : Node) : Bool :=
  n.admitted.isSome && n.out && n.stop.isNone && decide ((s.queue n.q).state < 2) && decide (n.retry ≤ s.slot)

/-- The node admitted again with a new bound (R310, R311), or refused with a hint. -/
def State.rejoin (s : State) (id : Nat) (n : Node) : State :=
  let need := s.needAgain n
  let back : Node := { n with out := false, bounded := true, deadline := s.slot + Config.bound n.cls, retry := 0 }
  match s.placeNode s.slot n need with
  | some s => { s with nodes := Cells.put s.nodes id back }.startAll
  | none => { s with nodes := Cells.put s.nodes id { n with retry := s.slot + s.nodeHint n need } }.count (0x300 + n.cls)

/-- NODE_ADMISSION (R298, R303, R311, R389, R397): the device tries its candidate, or a node that resumes with its queue. -/
def execNodeAdmission (node : Nat) (s : State) : Host.Outcome State Fault Refusal :=
  whenRunning s <| match Cells.find s.nodes node with
  | none => .next s
  | some n =>
    if !s.ucie.any id then .next s
    else if s.mayRejoin n then .next (s.rejoin node n)
    else if !s.isCandidate n || s.moving n.oid then .next s
    else if !(s.admitWaits n).isEmpty then .next (s.markWaiting (s.admitWaits n).eraseDups)
    else match s.tryNode node n with
      | .admitted s n => .next { s with nodes := Cells.put s.nodes node n }.startAll
      | .invalid => .next (s.stopNode node 1)
      | .refused h final =>
        let n := { n with refusals := n.refusals + 1, retry := s.slot + h,
                          stop := if final && h = 0x7FFFFFFF then some 3 else none }
        .next ({ s with nodes := Cells.put s.nodes node n }.count (0x300 + n.cls))

/-! ### Launch -/

/-- The coach `ci` of a new team (R30). -/
def Object.newCoach (o : Object) (n : Node) (since ci k area : Nat) : Coach :=
  let arg := n.fld 5 0 64
  { allot := o.allot, stage := o.stages.getD ci 0, slot := k / 16, ctx := k % 16,
    s := Cells.set 0 (Cells.set 0 [] 60 (BitVec.ofNat 32 arg)) 61 (BitVec.ofNat 32 (arg / 2 ^ 32)),
    tids := o.tids, area := BitVec.ofNat 46 area, since := since, nextId := 1,
    subs := if o.celud then [] else [{ id := 0, pc := o.entry, mem := 0xFFFFFFFF, exec := 0xFFFFFFFF }] }

/-- A new team at its launch (R27, R30, R43, R75, R94, R308, R378, R380). -/
def Object.newTeam (o : Object) (id : Nat) (n : Node) (slot core : Nat) (column : List Nat) (at_ : Nat × Nat × Nat)
    (coaches : List Coach) : Team :=
  { node := id, core := core, oid := n.oid, tx := at_.1, ty := at_.2.1, tz := at_.2.2,
    grants := { ocsz := o.ocsz, spsz := o.spsz, lssz := o.lssz, cgsz := o.cgsz, tagn := o.tagn },
    column := column, rev := o.rev, compat := o.compat, envu := o.envu, accu := o.accu, code := o.code, codeLen := o.codeLen,
    tags := BitVec.ofNat 64 (2 ^ o.tagn - 1), launchSlice := n.fld 4 0 24, len := n.fld 4 0 24, sinceIn := slot,
    coaches := coaches,
    celud := if o.celud then
        some { words := o.words, threads := List.replicate o.threads {}, cslice := o.cslice, native := o.native }
      else none }

/-- The slice recomputed at a switch-in (R309). -/
def State.reslice (s : State) (team : Nat) : State :=
  match Cells.find s.teams team with
  | some t => s.setTeam team { t with slice := s.effectiveSlice team t t.len, sinceIn := s.slot }
  | none => s

/-- One team launched on a core, its coaches with frames at the given areas; nothing where it does not fit. The launch is
a kernel boundary of the core (R88), and what has been written so far may be executed (log entry 15). -/
def State.launchOne (s : State) (id : Nat) (n : Node) (o : Object) (core : Nat) (at_ : Nat × Nat × Nat) (areas : List Nat) :
    Option State :=
  match s.contexts core o.allot o.nc, s.overheadAt core o.ocsz with
  | some ks, some mib =>
    if core < Config.cores && s.hasRoom core 0 o.scratchBytes o.tagn o.accu o.envu then
      let coaches := (ks.zipIdx).map fun p =>
        { o.newCoach n s.fresh p.2 p.1 (areas.getD p.2 0) with acq := s.written, ic := s.written }
      let t := { o.newTeam id n s.slot core mib at_ coaches with image := Cells.find s.images n.oid }
      let k := s.fresh
      let s := { s.kernelBoundary core with teams := Cells.put s.teams k t, fresh := k + 1 }
      some (s.reslice k)
    else none
  | _, _ => none

/-- The teams of a group launched together (R24, R78). -/
def State.launchGroup (s : State) (id : Nat) (n : Node) (o : Object) :
    List (Nat × Nat × Nat) → List Nat → List Nat → Option State
  | at_ :: ts, core :: cores, areas =>
    (s.launchOne id n o core at_ areas).bind fun s => s.launchGroup id n o ts cores (areas.drop o.nc)
  | [], [], _ => some s
  | _, _, _ => none

/-- TEAM_LAUNCH (R24, R30, R78): the next group of teams of an admitted node starts on cores that the device chose, with
frames that the firmware chose (R316). -/
def execTeamLaunch (node : Nat) (cores areas : List Nat) (s : State) : Host.Outcome State Fault Refusal :=
  whenRunning s <| match Cells.find s.nodes node with
  | none => .next s
  | some n =>
    match n.object with
    | none => .next s
    | some o =>
      let g := groupOf o.cgsz n.unlaunched
      let cluster := cores.all fun c => Config.clusterOf c = Config.clusterOf (cores.headD 0)
      if n.admitted.isNone || n.stop.isSome || n.out || g.isEmpty || areas.length ≠ g.length * o.nc
          || cores.eraseDups.length ≠ cores.length || (o.cgsz ≠ 0 && !cluster) then .next s
      else match s.launchGroup node n o g cores areas with
        | none => .next s
        | some s => .next { s with nodes := Cells.put s.nodes node { n with unlaunched := n.unlaunched.filter fun u => !g.contains u } }

end Sys2Proof.Machine
end

