-- ==== Sys2Proof/Machine/Plane.lean ====
section
/-!
DEFINITION. Plane descriptors, the place of an element, and the plane instructions (spec/03_planes.md R52 to R68;
spec/18_instr_plane_matrix.md R270 to R274).
-/

namespace Sys2Proof.Machine

/-- A plane descriptor (R58, R60). -/
structure Plane where
  valid : Bool
  fold : Nat
  type : Nat
  gh : Nat
  gw : Nat
  rows : Nat
  cols : Nat
  depth : Nat
  base : Nat
deriving DecidableEq, Repr

/-- The descriptor in a register (R58). -/
def planeOf (x : Nat) : Plane :=
  { valid := fld x 63 1 == 1, fold := fld x 62 1, type := fld x 59 3, gh := 2 ^ fld x 56 3, gw := 2 ^ fld x 53 3,
    rows := fld x 43 10 + 1, cols := fld x 33 10 + 1, depth := fld x 25 8 + 1, base := fld x 17 8 }

/-- The element of a type code (R59). -/
def planeElem (t : Nat) : Elem :=
  match t with
  | 0 => .int 8 | 1 => .int 16 | 2 => .int 32 | 3 => .float fp16 | 4 => .float bf16 | _ => .float fp32

def Plane.elem (p : Plane) : Elem := planeElem p.type
def Plane.fh (p : Plane) : Nat := p.rows / p.gh
def Plane.fw (p : Plane) : Nat := p.cols / p.gw

/-- Elements per register. -/
def Plane.epr (p : Plane) : Nat := 32 / p.elem.width

/-- NR of R60. -/
def Plane.nr (p : Plane) : Nat := ceilDiv (p.depth * p.fh * p.fw) p.epr

/-- Virtual sheets (R53, R54). -/
def Plane.sheets (p : Plane) : Nat := if 32 < p.gh * p.gw then p.gh * p.gw / 32 else 1

/-- A valid descriptor (R60). -/
def Plane.ok (p : Plane) (allot : Nat) : Bool :=
  p.valid && decide (p.type < 6) && decide (p.gh ≤ 32) && decide (p.gw ≤ 32) && p.rows % p.gh == 0 && p.cols % p.gw == 0
    && decide (p.base + p.sheets * p.nr ≤ allot)

/-! ### Where an element lives -/

/-- The physical lane, the register and the lowest bit of element (d, i, j) of grid instance `n` (R53, R54, R61). -/
def Plane.at_ (p : Plane) (n d i j : Nat) : Nat × Nat × Nat :=
  let g := if p.fold = 0 then (i % p.gh, j % p.gw, i / p.gh * p.fw + j / p.gw)
    else (i / p.fh, j / p.fw, i % p.fh * p.fw + j % p.fw)
  let q := d * p.fh * p.fw + g.2.2
  let v := g.1 * p.gw + g.2.1
  let small := decide (p.gh * p.gw ≤ 32)
  let lane := if small then n * (p.gh * p.gw) + v else v % 32
  let sheet := if small then 0 else v / 32
  (lane, p.base + sheet * p.nr + q / p.epr, p.elem.width * (q % p.epr))

/-- The element that stands at position `pos` of register `r` of the range in lane `l`: instance and (d, i, j); nothing
beyond the last element (R61). -/
def Plane.from_ (p : Plane) (l r pos : Nat) : Option (Nat × Nat × Nat × Nat) :=
  let small := decide (p.gh * p.gw ≤ 32)
  let v := if small then l % (p.gh * p.gw) else r / p.nr * 32 + l
  let n := if small then l / (p.gh * p.gw) else 0
  let q := r % p.nr * p.epr + pos
  let d := q / (p.fh * p.fw)
  let k := q % (p.fh * p.fw)
  let gy := v / p.gw
  let gx := v % p.gw
  if d < p.depth then
    some (if p.fold = 0 then (n, d, k / p.fw * p.gh + gy, k % p.fw * p.gw + gx)
      else (n, d, gy * p.fh + k / p.fw, gx * p.fw + k % p.fw))
  else none

/-- Element (d, i, j) of instance `n` as the coach's registers hold it. -/
def Here.elem (h : Here) (p : Plane) (n d i j : Nat) : Nat :=
  let w := p.at_ n d i j
  fld (h.v w.2.1 w.1).toNat w.2.2 p.elem.width

/-- A tainted register anywhere in a plane's range (R112). -/
def Here.planeTaint (h : Here) (p : Plane) : Bool :=
  (List.range (p.sheets * p.nr)).any fun r => (List.range 32).any fun l => Cells.get false h.c.vt (keyV (p.base + r) l)

/-- Bits `[lo + w - 1 : lo]` of a word replaced. -/
def setBits (x : Nat) (lo w y : Nat) : Nat := fld x 0 lo + y % 2 ^ w * 2 ^ lo + x / 2 ^ (lo + w) * 2 ^ (lo + w)

/-- The destination written in the active lanes: `out n d i j` gives a new element or leaves the old one (R56, R66). All
reads are from `h`. The bits of a register that hold no new element are not read: they keep their values (R61). -/
def Here.writePlane (h : Here) (p : Plane) (taint : Bool) (out : Nat → Nat → Nat → Nat → Option Nat) : Here :=
  h.eachLane fun g l =>
    (List.range (p.sheets * p.nr)).foldl (fun g r =>
      let news := (List.range p.epr).filterMap fun pos =>
        match p.from_ l r pos with
        | some (n, d, i, j) => (out n d i j).map fun x => (pos, x)
        | none => none
      let old := Cells.get 0 h.c.v (keyV (p.base + r) l)
      if news.isEmpty then
        if taint then { g with c := { g.c with vt := Cells.set false g.c.vt (keyV (p.base + r) l) true } } else g
      else g.setV (p.base + r) l
        (BitVec.ofNat 32 (news.foldl (fun w e => setBits w (p.elem.width * e.1) p.elem.width e.2) old.toNat)) taint) g

/-! ### Checks -/

/-- PLANE-SHAPE. -/
def planeShape : Stop := raise .planeShape

/-- Descriptor `i` of the coach. -/
def Here.plane (h : Here) (i : BitVec 3) : Plane := planeOf (Cells.get 0 h.c.pd i.toNat).toNat

/-- Two descriptors agree in all but folding and base (R67). -/
def Plane.agree (p q : Plane) : Bool :=
  p.rows == q.rows && p.cols == q.cols && p.gh == q.gh && p.gw == q.gw && p.depth == q.depth && p.type == q.type

/-- The checks of R67 on the descriptors named, in order; then the scoreboard (R181). `fold` says whether the foldings
must agree. -/
def Here.okPlanes (h : Here) (ps : List Plane) (fold : Bool) : Except Stop Unit := do
  if !ps.all fun p => p.ok h.c.allot then .error planeShape
  if !ps.all fun p => ps.all fun q => p.agree q then .error planeShape
  if fold && !ps.all fun p => ps.all fun q => p.fold == q.fold then .error (raise .foldMismatch)
  if ps.any fun p => (List.range (p.sheets * p.nr)).any fun r => h.c.boarded (p.base + r) then .error (.hold [])

/-! ### Movement -/

/-- The source row and column of a move by `n` toward a direction: north, south, west, east (R63, R270). -/
def moveFrom (dir n : Nat) (i j : Int) : Int × Int :=
  match dir with
  | 0 => (i + n, j) | 1 => (i - n, j) | 2 => (i, j + n) | _ => (i, j - n)

/-- PSHIFT (R63, R271). -/
def execPshift (sw : Bool) (d a sk : BitVec 3) (dir : BitVec 2) (fl : BitVec 1) (n : BitVec 8) (s : State) :
    Host.Outcome State Fault Refusal :=
  nativeHere sw false s fun h => do
    let p := h.plane d
    let q := h.plane a
    h.okPlanes [p, q] true
    let fill := if fl == 1 then fld (h.s sk.toNat).toNat 0 p.elem.width else 0
    let taint := h.planeTaint q || (fl == 1 && Cells.get false h.c.st sk.toNat)
    pure (h.writePlane p taint fun m z i j =>
      let f := moveFrom dir.toNat n.toNat i j
      if 0 ≤ f.1 && f.1 < q.rows && 0 ≤ f.2 && f.2 < q.cols then some (h.elem q m z f.1.toNat f.2.toNat) else some fill)

/-- PROT (R63, R271). -/
def execProt (sw : Bool) (d a : BitVec 3) (dir : BitVec 2) (n : BitVec 8) (s : State) :
    Host.Outcome State Fault Refusal :=
  nativeHere sw false s fun h => do
    let p := h.plane d
    let q := h.plane a
    h.okPlanes [p, q] true
    pure (h.writePlane p (h.planeTaint q) fun m z i j =>
      let f := moveFrom dir.toNat n.toNat i j
      some (h.elem q m z (f.1 % q.rows).toNat (f.2 % q.cols).toNat))

/-- PSPREAD: row or column `r` across the plane (R64, R271). DESIGN CHOICE (log entry 53): where `r` is out of range and the two
descriptors also differ in folding, R67 is checked first. -/
def execPspread (sw : Bool) (d a : BitVec 3) (axis : BitVec 1) (r : BitVec 10) (s : State) :
    Host.Outcome State Fault Refusal :=
  nativeHere sw false s fun h => do
    let p := h.plane d
    let q := h.plane a
    h.okPlanes [p, q] true
    if (if axis == 0 then q.rows else q.cols) ≤ r.toNat then .error planeShape
    pure (h.writePlane p (h.planeTaint q) fun m z i j =>
      some (if axis == 0 then h.elem q m z r.toNat j else h.elem q m z i r.toNat))

/-- The combination of a line (R65): add 0, max 1, min 2. -/
def foldLine (k : Elem) (op : Nat) (l : List Nat) : Nat :=
  match k with
  | .int w =>
    let v := l.map (sext w)
    match op with
    | 0 => wrapInt w (satInt w v.sum)
    | 1 => wrapInt w (v.foldl max (-(2 ^ 31)))
    | _ => wrapInt w (v.foldl min (2 ^ 31))
  | .float f =>
    match l with
    | [] => 0
    | x :: r =>
      match op with
      | 0 => roundF f 0 false (r.foldl (fun acc y => fval fp32 (roundF fp32 0 false (acc.add (fval f y)))) (fval f x))
      | 1 => r.foldl (pickF f true) (pickF f true x x)
      | _ => r.foldl (pickF f false) (pickF f false x x)

/-- PFOLD: every line along the axis reduced into the edge toward the direction (R65, R271). -/
def execPfold (sw : Bool) (d a : BitVec 3) (op dir : BitVec 2) (s : State) : Host.Outcome State Fault Refusal :=
  nativeHere sw false s fun h => do
    let p := h.plane d
    let q := h.plane a
    h.okPlanes [p, q] true
    let o := op.toNat
    pure (h.writePlane p (h.planeTaint q) fun m z i j =>
      let alongRows := foldLine q.elem o ((List.range q.rows).map fun x => h.elem q m z x j)
      let alongCols := foldLine q.elem o ((List.range q.cols).map fun x => h.elem q m z i x)
      match dir.toNat with
      | 0 => if i = 0 then some alongRows else none
      | 1 => if i + 1 = q.rows then some alongRows else none
      | 2 => if j = 0 then some alongCols else none
      | _ => if j + 1 = q.cols then some alongCols else none)

/-- PREFOLD (R68). -/
def execPrefold (sw : Bool) (d a : BitVec 3) (s : State) : Host.Outcome State Fault Refusal :=
  nativeHere sw false s fun h => do
    let p := h.plane d
    let q := h.plane a
    h.okPlanes [p, q] false
    pure (h.writePlane p (h.planeTaint q) fun m z i j => some (h.elem q m z i j))

/-! ### Arithmetic -/

/-- out := in_a ⊙ in_b (R272). -/
def planeBin (sw : Bool) (d a b : BitVec 3) (s : State) (f : Elem → Nat → Nat → Nat) :
    Host.Outcome State Fault Refusal :=
  nativeHere sw false s fun h => do
    let p := h.plane d
    let q := h.plane a
    let r := h.plane b
    h.okPlanes [p, q, r] true
    pure (h.writePlane p (h.planeTaint q || h.planeTaint r) fun m z i j =>
      some (f q.elem (h.elem q m z i j) (h.elem r m z i j)))

/-- An arithmetic operation on two elements: exact, then saturated or rounded (R272). -/
def elemArith (fi : Int → Int → Int) (ff : FVal → FVal → FVal) (k : Elem) (x y : Nat) : Nat :=
  match k with
  | .int w => wrapInt w (satInt w (fi (sext w x) (sext w y)))
  | .float f => roundF f 0 false (ff (fval f x) (fval f y))

/-- The greater or the lesser of two elements (R65, R272). -/
def elemPick (wantMax : Bool) (k : Elem) (x y : Nat) : Nat :=
  match k with
  | .int w => if wantMax == decide (sext w x ≤ sext w y) then y else x
  | .float f => pickF f wantMax x y

/-- PADD (R272). -/
def execPadd (sw : Bool) (d a b : BitVec 3) (s : State) : Host.Outcome State Fault Refusal :=
  planeBin sw d a b s (elemArith (· + ·) FVal.add)

/-- PSUB (R272). -/
def execPsub (sw : Bool) (d a b : BitVec 3) (s : State) : Host.Outcome State Fault Refusal :=
  planeBin sw d a b s (elemArith (· - ·) fun x y => x.add y.neg)

/-- PMUL (R272). -/
def execPmul (sw : Bool) (d a b : BitVec 3) (s : State) : Host.Outcome State Fault Refusal :=
  planeBin sw d a b s (elemArith (· * ·) FVal.mul)

/-- PMAX (R272). -/
def execPmax (sw : Bool) (d a b : BitVec 3) (s : State) : Host.Outcome State Fault Refusal :=
  planeBin sw d a b s (elemPick true)

/-- PMIN (R272). -/
def execPmin (sw : Bool) (d a b : BitVec 3) (s : State) : Host.Outcome State Fault Refusal :=
  planeBin sw d a b s (elemPick false)

/-! ### Descriptors -/

/-- PDSET: a descriptor from an even S pair, whatever EXEC holds (R274). -/
def execPdset (sw : Bool) (d : BitVec 3) (x : BitVec 8) (s : State) : Host.Outcome State Fault Refusal :=
  nativeHere sw false s fun h =>
    if x.toNat % 2 = 0 && 192 ≤ x.toNat && x.toNat ≤ 246 then
      let v := (h.uPair x.toNat).1.toNat
      pure { h with c := { h.c with pd := Cells.set 0 h.c.pd d.toNat (BitVec.ofNat 64 (v / 2 ^ 17 * 2 ^ 17)) } }
    else .error illegal

/-- PDGET: a descriptor into an even V pair of every active lane, untainted (R274). -/
def execPdget (sw : Bool) (a : BitVec 3) (x : BitVec 8) (s : State) : Host.Outcome State Fault Refusal :=
  nativeHere sw false s fun h => do
    if x.toNat % 2 ≠ 0 || 192 ≤ x.toNat then .error illegal
    h.okVs x.toNat 2
    let v := (Cells.get 0 h.c.pd a.toNat).toNat
    pure (h.eachLane fun g l =>
      (g.setV x.toNat l (BitVec.ofNat 32 v) false).setV (x.toNat + 1) l (BitVec.ofNat 32 (v / 2 ^ 32)) false)

end Sys2Proof.Machine
end

