-- ==== Sys2Proof/Machine/Softmax.lean ====
section
/-!
DEFINITION. Online softmax and the tensor-identifier table (spec/18_instr_plane_matrix.md R289, R290; spec/09_formats.md
R135, R141, R142).
-/

namespace Sys2Proof.Machine

/-! ### Online softmax -/

/-- 2^(x − m′), the difference and the power each rounded to FP32 (R141). -/
def powDiff (x m' : Word) : FVal := val32 (exp2Val (val32 (round32 ((val32 x).add (val32 m').neg))))

/-- FP32 −∞. -/
def negInf : Word := 0xFF800000

/-- The step of R141 from (m, s) over the inputs of one row. A step whose inputs and whose m are all −∞ leaves s
unchanged. DESIGN CHOICE (log entry 53): between zeros of both signs the maximum is +0. -/
def smxStep (m s : Word) (xs : List Word) : Word × Word :=
  if (m :: xs).any fun x => val32 x = .nan then (0x7FC00000, 0x7FC00000)
  else
    let m' : Word := BitVec.ofNat 32 (xs.foldl (fun acc x => pickF fp32 true acc x.toNat) m.toNat)
    if m' = negInf then (m', s)
    else
      let same (x : Word) : Bool := (val32 x).cmp (val32 m') == some .eq
      let a : FVal := if same m then .fin false 1 0 else powDiff m m'
      let t (x : Word) : FVal := if x = negInf then .fin false 0 0 else if same x then .fin false 1 0 else powDiff x m'
      (m', round32 (xs.foldl (fun acc x => acc.add (t x)) ((val32 s).mul a)))

/-- (l, r) of R142. -/
def smxFin (m s : Word) : Word × Word :=
  match val32 m, val32 s with
  | .nan, _ => (0x7FC00000, 0x7FC00000)
  | _, .nan => (0x7FC00000, 0x7FC00000)
  | vm, .inf neg =>
    if neg then (0x7FC00000, rcpVal (.inf true))
    else (if vm = .inf true then 0x7FC00000 else 0x7F800000, 0)
  | vm, .fin neg k e =>
    if k = 0 then (0xFF800000, 0x7F800000)
    else if neg then (0x7FC00000, rcpVal (.fin true k e))
    else
      (match vm with
        | .fin mn mm me => addLog2 mn mm me k e
        | _ => m,
      rcpVal (.fin false k e))

/-- A V pair: even, below the allotment (R290). -/
def Here.okVPair (h : Here) (f : BitVec 8) : Except Stop Unit := do
  if f.toNat % 2 ≠ 0 || 192 ≤ f.toNat then .error illegal
  h.okVs f.toNat 2

/-- The taint of `n` V registers from `base` in a lane. -/
def Here.vTaint (h : Here) (base n l : Nat) : Bool := (List.range n).any fun i => Cells.get false h.c.vt (keyV (base + i) l)

/-- SMXACC (R141, R290): m′ takes the taint of m and the inputs, s′ that of s too (R112). -/
def execSmxacc (sw : Bool) (p a : BitVec 8) (nm1 : BitVec 4) (s : State) : Host.Outcome State Fault Refusal :=
  nativeHere sw false s fun h => do
    let n := nm1.toNat + 1
    h.okVPair p
    if 192 ≤ a.toNat then .error illegal
    h.okVs a.toNat n
    let q := p.toNat
    pure (h.eachLane fun g l =>
      let r := smxStep (h.v q l) (h.v (q + 1) l) ((List.range n).map fun i => h.v (a.toNat + i) l)
      let taint := h.vTaint q 1 l || h.vTaint a.toNat n l
      (g.setV q l r.1 taint).setV (q + 1) l r.2 (taint || h.vTaint (q + 1) 1 l))

/-- SMXFIN (R142, R290). -/
def execSmxfin (sw : Bool) (d p : BitVec 8) (s : State) : Host.Outcome State Fault Refusal :=
  nativeHere sw false s fun h => do
    h.okVPair d; h.okVPair p
    let q := p.toNat
    pure (h.eachLane fun g l =>
      let r := smxFin (h.v q l) (h.v (q + 1) l)
      (g.setV d.toNat l r.1 (h.vTaint q 2 l)).setV (d.toNat + 1) l r.2 (h.vTaint q 2 l))

/-! ### Tensor identifiers -/

/-- TIDSET: word `wd` of the identifier that Sx names := the pair Sv, reserved bits ignored (R135, R289). -/
def execTidset (sw : Bool) (v x : BitVec 8) (wd : BitVec 4) (s : State) : Host.Outcome State Fault Refusal :=
  nativeHere sw false s fun h => do
    h.okUPair v; h.okU x
    let i := fld (h.u x.toNat).1.toNat 0 8
    let w : DWord := (h.uPair v.toNat).1 &&& BitVec.ofNat 64 (tidMask wd.toNat)
    pure { h with c := { h.c with tids := Cells.set 0 h.c.tids (16 * i + wd.toNat) w } }

/-- TIDGET: the pair Sd := word `wd` of an identifier; a long result (R289). -/
def execTidget (sw : Bool) (d x : BitVec 8) (wd : BitVec 4) (s : State) : Host.Outcome State Fault Refusal :=
  nativeHere sw false s fun h => do
    h.okUPair d; h.okU x
    let i := h.u x.toNat
    let w := Cells.get 0 h.c.tids (16 * fld i.1.toNat 0 8 + wd.toNat)
    pure ((h.setUPair d.toNat w i.2).long (h.uKeys d.toNat 2))

end Sys2Proof.Machine
end

