-- ==== Sys2Proof/Machine/Teams.lean ====
section
/-!
DEFINITION. Stop orders, time slicing, eviction, resumption, and the switching of queues
(spec/21_scheduling.md R306 to R311; spec/23_faults.md R326; spec/25_near_memory.md R348).
-/

namespace Sys2Proof.Machine

/-! ### Stopping -/

/-- The engine class that holds a request (R306). -/
def Request.engine (r : Request) : EngineClass :=
  match r.work with
  | .copy .. => if r.parts.isEmpty then .copies else .drays
  | .gather .. => .gather
  | .mvstack .. => .mvstack

/-- The classes whose work a switch-out leaves running (R307). -/
def requestClasses : List EngineClass := [.copies, .drays, .gather, .mvstack]

/-- The requests of a team in a class. -/
def State.requestsIn (s : State) (team : Nat) (e : EngineClass) : List Nat :=
  (s.requests.filter fun p => p.2.node.isNone && p.2.team = team && p.2.engine = e).map Prod.fst

/-- An engine class holds work of a team that its stop order reaches: what the run in progress has issued since the order
counts too (R306). A switch-out for time slicing leaves requests running (R307). An envelope instruction is one step here, so
that its unit never holds work between steps. -/
def State.holdsWork (s : State) (team : Nat) (t : Team) (all : Bool) : EngineClass → Bool
  | .issue => t.coaches.any fun c => !c.ended
  | .matrix => s.jobs.any fun j => j.team = team && !j.done
  | .envelope => false
  | e => all && (s.requestsIn team e).any fun i => !t.stopped.contains i

/-- The classes in which engines can hold work. -/
def allClasses : List EngineClass := [.issue, .matrix, .envelope] ++ requestClasses

/-- Every engine that holds work has acknowledged the stop (R306). -/
def State.allAcked (s : State) (team : Nat) (t : Team) (all : Bool) (acked : List EngineClass) : Bool :=
  allClasses.all fun e => !s.holdsWork team t all e || acked.contains e

/-- All the admitted nodes of a queue that is being switched out are saved: its STATE becomes 0b11 (R311). -/
def State.finishSwitchOut (s : State) (q : Nat) : State :=
  let x := s.queue q
  let mine (id : Nat) : Bool := match Cells.find s.nodes id with | some n => n.q = q && n.admitted.isSome | none => false
  if x.state = 2 && (s.teams.all fun p => !mine p.2.node || p.2.out) && s.drays.all fun p => !mine p.2.node || p.2.stopped then
    s.setQueue q { x with state := 3 }
  else s

/-- The queue of a node. -/
def State.queueOf (s : State) (node : Nat) : Nat := match Cells.find s.nodes node with | some n => n.q | none => 64

/-- The team is saved (R326): its wait-table entries leave the tower's table with it. -/
def State.saveTeam (s : State) (team : Nat) (t : Team) (evict : Bool) : State :=
  let s := s.setTeam team { t with state := .saved evict }
  let s := { s with waits := s.waits.map fun (e : WaitEntry) => if e.team = team then { e with tower := 4 } else e }
  s.finishSwitchOut (s.queueOf t.node)

/-- A stop goes on with these acknowledgements, or is complete with the last of them (R306). -/
def State.stopOn (s : State) (team : Nat) (t : Team) (evict all : Bool) (acked : List EngineClass) : State :=
  if s.allAcked team t all acked then s.saveTeam team t evict
  else s.setTeam team { t with state := .stopping evict all acked }

/-- A stop order to the engines that hold work of a team (R306). -/
def State.stopTeam (s : State) (team : Nat) (evict all : Bool) : State :=
  match Cells.find s.teams team with
  | none => s
  | some t => s.stopOn team { t with ordered := s.slot } evict all []

/-- Requests of a team stopped at their units: of the parts left, each performs what the device chooses, and, evicted, it loses
its bound (R306, R310). -/
def State.stopRequests (s : State) (team : Nat) (evict : Bool) (ids : List Nat) : State :=
  let s := ids.foldl State.performPart s
  { s with
    requests := s.requests.map fun p => (p.1, if evict && ids.contains p.1 then { p.2 with bounded := false } else p.2)
    teams := Cells.modify s.teams team fun t => { t with stopped := (t.stopped ++ ids).eraseDups } }

/-- An eviction of a team: its node and the requests that are stopped already lose their bounds until it resumes (R310). Of a
team that is out, every engine that holds a request acknowledges at once (log entry 12). -/
def State.evictTeam (s : State) (team : Nat) : State :=
  match Cells.find s.teams team with
  | none => s
  | some t =>
    let s := { s with nodes := Cells.modify s.nodes t.node fun n => { n with bounded := false } }
    let s := s.stopRequests team true t.stopped
    match t.state with
    | .saved true => s
    | .stopping true _ _ => s
    | .resident => s.stopTeam team true true
    | .stopping false _ acked => s.stopOn team ((Cells.find s.teams team).getD t) true true acked
    | .saved false =>
      let s := s.stopRequests team true (requestClasses.flatMap (s.requestsIn team))
      s.saveTeam team ((Cells.find s.teams team).getD t) true

/-- STOP_ORDER (R306): every engine that holds work of the team is to stop. -/
def execStopOrder (team : Nat) (s : State) : Host.Outcome State Fault Refusal :=
  whenRunning s <| match Cells.find s.teams team with
  | none => .next s
  | some t => if t.here then .next (s.stopTeam team false true) else .next s

/-- EVICTION (R310). -/
def execEviction (team : Nat) (s : State) : Host.Outcome State Fault Refusal := whenRunning s <| .next (s.evictTeam team)

/-- The work of a class can stop at its unit now (R283, R306): issue at run trailers; the matrix unit when no MMA, MDRAIN or
QUANT2 of the team is the running job; and no other class before issue, which could give it more. -/
def State.stoppedAt (s : State) (team : Nat) (t : Team) (all : Bool) (acked : List EngineClass) (e : EngineClass) : Bool :=
  match e with
  | .issue => s.atTrailers team t
  | .matrix => (!s.holdsWork team t all .issue || acked.contains .issue) && match s.nextJob t.core with
    | some j => j.team ≠ team || (match j.work with | .mloop .. => true | _ => false)
    | none => true
  | _ => !s.holdsWork team t all .issue || acked.contains .issue

/-- The work of a class stops: an MLOOP after a K-step, a request after a part (R306). -/
def State.stopWork (s : State) (team : Nat) (t : Team) (evict : Bool) (e : EngineClass) : State :=
  match e with
  | .issue => s
  | .matrix => match s.nextJob t.core with
    | some j => if j.team = team then s.performSteps j else s
    | none => s
  | e => s.stopRequests team evict (s.requestsIn team e)

/-- A dray kernel node stops at a row boundary on each dray that stands at one: its state is kept, its rows are released, and
what waits for the channel is served (R341, R348). -/
def State.saveDrays (s : State) (node : Nat) : State :=
  let s := s.drays.foldl (fun s p =>
    if p.2.node = node && p.2.atBoundary && !p.2.stopped then
      let s := s.flush p.1 { p.2 with saved := true, window := false } fun _ => true
      let d := (Cells.find s.drays p.1).getD p.2
      { s with drays := Cells.drop s.drays p.1,
               nodes := Cells.modify s.nodes node fun n => { n with start := n.start ++ [(p.1, d)] } }
    else s) s
  (s.serveFree.startAll).finishSwitchOut (s.queueOf node)

/-- ENGINE_ACKNOWLEDGEMENT (R306): the last one completes the stop, and the team is saved. For a dray kernel node, whose
number stands for a team's, the drays acknowledge. -/
def execEngineAcknowledgement (team : Nat) (engine : EngineClass) (s : State) : Host.Outcome State Fault Refusal :=
  whenRunning s <| match Cells.find s.teams team with
  | some t =>
    match t.state with
    | .stopping ev all acked =>
      if !acked.contains engine && s.holdsWork team t all engine && s.stoppedAt team t all acked engine then
        let s := s.stopWork team t ev engine
        .next (s.stopOn team ((Cells.find s.teams team).getD t) ev all (acked ++ [engine]))
      else .next s
    | _ => .next s
  | none => match Cells.find s.nodes team with
    | some n => if (n.out || n.stop = some 6) && n.eng = 1 && engine = .drays then .next (s.saveDrays team) else .next s
    | none => .next s

/-! ### Resumption -/

/-- The reservations of a request and the transit of its path (R302, R349, R405). -/
def Request.needs (r : Request) (core : Nat) : List Need × Nat :=
  let tower := Config.towerOf core
  let len (ps : List Piece) : Nat := (ps.map Piece.len).sum
  let stack (ps : List Piece) : Nat := (ps.findSome? fun p => match p.loc with | .sto a => stackOf a | _ => none).getD 0
  match r.work with
  | .copy xf _ _ _ _ src dst => (byteNeeds src dst ++ (if xf = 0 then [] else drayNeeds dst), pathTransit tower (src ++ dst))
  | .gather _ _ es count _ table index dense =>
    ([.spread (8 + stack table) count, .spread (stack table) (count * es)], gsTransit tower (stack table) (index ++ dense))
  | .mvstack _ _ va vb vy sc =>
    ([.spread (stack vb) (len va + len vy + ceilDiv (len vb) 4)], pathTransit tower (vb ++ sc.1 ++ sc.2))

/-- What the calendars admit, or the latency class whose refusal is counted (R402). -/
def admittedIn (cls : Nat) : Option State → Except Nat State
  | some s => .ok s
  | none => .error cls

/-- A stopped request admitted again with a new bound, its tag still 0 (R310), or the class in which it is refused. -/
def State.readmit (s : State) (core id : Nat) : Except Nat State :=
  match Cells.find s.requests id with
  | none => .ok s
  | some r =>
    let n := r.needs core
    (admittedIn r.cls (s.placeAll s.slot (windowSlots r.cls n.2) n.1)).map fun s =>
      { s with requests := Cells.put s.requests id { r with deadline := s.slot + Config.bound r.cls, bounded := true } }

/-- All of them, or none. -/
def State.readmitAll (s : State) (core : Nat) : List Nat → Except Nat State
  | [] => .ok s
  | i :: rest => (s.readmit core i).bind fun s => s.readmitAll core rest

/-- The contexts that the coaches of a team had not freed, given new places in order. -/
def replace : List Coach → List Nat → Nat → List Coach
  | [], _, _ => []
  | c :: rest, ks, since =>
    if c.ended then c :: replace rest ks since
    else match ks with
      | k :: ks => { c with slot := k / 16, ctx := k % 16, since := since } :: replace rest ks since
      | [] => c :: replace rest [] since

/-- A core may take a saved team back (R78, R326, R358): a group keeps to distinct cores of its cluster. -/
def State.mayReturn (s : State) (team : Nat) (t : Team) (core : Nat) : Bool :=
  decide (core < Config.cores) && ((t.grants.ocsz = 0 && !t.envu) || core = t.core)
    && s.hasRoom core team t.scratchBytes t.grants.tagn t.accu t.envu
    && (t.grants.cgsz = 0 || (Config.clusterOf core = Config.clusterOf t.core
      && s.teams.all fun p => p.1 = team || !t.sameGroup p.2 || p.2.core ≠ core || p.2.out))

/-! ### Time slicing -/

/-- Contexts that a team's coaches hold. -/
def Team.contexts (t : Team) : Nat := (t.coaches.filter fun c => !c.ended).length

/-- A saved team could come back to a core, as the core stands in `s`. -/
def State.couldReturn (s : State) (core : Nat) (p : Nat × Team) : Bool :=
  let allot := match p.2.coaches.find? fun c => !c.ended with | some c => c.allot | none => 16
  p.2.out && s.mayReturn p.1 p.2 core && (s.contexts core allot p.2.contexts).isSome
    && match Cells.find s.nodes p.2.node with | some n => !n.out && n.stop.isNone | none => false

/-- Another team waits for the core of a team and could take its place within the reservations of the core in this slot
(R302, R308): a team that is out, or one not yet launched. DESIGN CHOICE (log entry 12). -/
def State.wanted (s : State) (team : Nat) (t : Team) : Bool :=
  let x := s.setTeam team { t with state := .saved false }
  let rest := ((x.occupants t.core).map fun p => p.2.contexts).sum
  let fits (nc : Nat) : Bool := decide (rest + nc ≤ s.reserved (0x100 + t.core) s.slot)
  (x.teams.any fun p => p.1 ≠ team && x.couldReturn t.core p && fits p.2.contexts)
    || x.nodes.any fun p => p.2.admitted.isSome && !p.2.unlaunched.isEmpty && !p.2.out && p.2.stop.isNone
      && match p.2.object with | some o => x.canHold t.core o && fits o.nc | none => false

/-- SLICE_EXPIRY (R307 to R309): the effective slice has run out while another team waits for the core. -/
def execSliceExpiry (team : Nat) (s : State) : Host.Outcome State Fault Refusal :=
  whenRunning s <| match Cells.find s.teams team with
  | none => .next s
  | some t =>
    if t.here && t.slice ≠ 0 && t.sinceIn + t.slice ≤ s.slot && s.wanted team t then .next (s.stopTeam team false false)
    else .next s

/-- An evicted team's contexts are reserved again; its node, if it has lost its bound, is admitted with a new one (R310). -/
def State.renewNode (s : State) (t : Team) (core : Nat) : Except Nat State :=
  match Cells.find s.nodes t.node with
  | none => .ok s
  | some n =>
    let nc := (t.coaches.filter fun c => !c.ended).length
    (admittedIn n.cls (s.placeAll s.slot (Config.bound n.cls)
      (.solid (0x100 + core) n.dur nc :: if t.accu then [.solid (0x200 + core) n.dur 1] else []))).map fun s =>
        if n.bounded then s
        else { s with nodes := Cells.put s.nodes t.node { n with deadline := s.slot + Config.bound n.cls, bounded := true } }

/-- The team resident again on a core (R309, R326): new contexts, its jobs and wait-table entries with it, and TBASE set
again; resumption acts as an AR fence (R120). -/
def State.restoreTeam (s : State) (team : Nat) (t : Team) (core : Nat) (ks : List Nat) : State :=
  let back (ci : Nat) (c : Coach) : Coach := c.fence (coachSpot team ci core) 5
  let s := s.setTeam team { t with core := core, state := .resident, stopped := [], image := Cells.find s.images t.oid,
                                   coaches := (replace t.coaches ks s.fresh).mapIdx back }
  let s := { s with
    fresh := s.fresh + 1
    jobs := s.jobs.map fun (j : Job) => if j.team = team then { j with core := core } else j
    waits := s.waits.map fun (e : WaitEntry) => if e.team = team then { e with tower := Config.towerOf core } else e }
  s.reslice team

/-- TEAM_RESUME (R309 to R311, R326): an evicted team is admitted again, for which a UCIe module must have trained (R389); a
refusal is counted (R402). -/
def execTeamResume (team core : Nat) (s : State) : Host.Outcome State Fault Refusal :=
  whenRunning s <| match Cells.find s.teams team with
  | none => .next s
  | some t =>
    match t.state, Cells.find s.nodes t.node with
    | .saved ev, some n =>
      let live := (t.coaches.filter fun c => !c.ended)
      let allot := match live with | c :: _ => c.allot | [] => 16
      if n.out || n.stop.isSome || !s.mayReturn team t core || (ev && !s.ucie.any id) then .next s
      else match s.contexts core allot live.length with
        | none => .next s
        | some ks =>
          let again := if ev then (s.renewNode t core).bind fun s => s.readmitAll core t.stopped else .ok s
          .next (match again with | .ok s => s.restoreTeam team t core ks | .error cls => s.count (0x300 + cls))
    | _, _ => .next s

/-! ### Switching queues -/

/-- The admitted nodes of a queue changed. -/
def State.modNodesOf (s : State) (q : Nat) (f : Node → Node) : State :=
  { s with nodes := s.nodes.map fun p => (p.1, if p.2.q = q && p.2.admitted.isSome then f p.2 else p.2) }

/-- The requests of gather-scatter nodes of a queue stop at a block of indices (R306, R311). -/
def State.stopGathers (s : State) (q : Nat) : State :=
  (s.requests.filter fun p => match p.2.node with | some id => s.queueOf id = q | none => false).foldl
    (fun s p => s.performPart p.1) s

/-- QUEUE_SWITCH_OUT (R311): every admitted node of the queue is evicted; STATE is 0b10 until the save is complete. -/
def execQueueSwitchOut (q : Nat) (s : State) : Host.Outcome State Fault Refusal :=
  whenRunning s <|
    let x := s.queue q
    if 64 ≤ q || 2 ≤ x.state then .next s
    else
      let s := (s.setQueue q { x with state := 2 }).modNodesOf q fun n => { n with out := true, bounded := false }
      let mine := s.teams.filter fun p => s.queueOf p.2.node = q
      let s := mine.foldl (fun s p => s.evictTeam p.1) (s.stopGathers q)
      .next (s.finishSwitchOut q)

/-- QUEUE_RESUME (R292, R294, R311): the writes held in the context block take effect; the admitted nodes are then admitted again
before fetching goes on, but for those that are only to complete. -/
def execQueueResume (q : Nat) (s : State) : Host.Outcome State Fault Refusal :=
  whenRunning s <|
    let x := s.queue q
    if x.state ≠ 3 then .next s
    else
      let p := x.pending
      let x := { x with en := p.1, lgsz := p.2, state := bit p.1, later := none }
      let s := s.setQueue q (Queue.advance 65537 x).forget
      .next (s.modNodesOf q fun n => if n.stop.isSome then { n with out := false } else n)

end Sys2Proof.Machine
end

