-- ==== Sys2Proof/Machine/System.lean ====
section
/-!
DEFINITION. Host windows, management registers, the axle mailbox, boot and keys, the fabric, errors, power and the
lifetime log (spec/31_system.md R389 to R404; spec/25_near_memory.md R345 to R347; spec/23_faults.md R321).
-/

namespace Sys2Proof.Machine

/-! ### Configuration block -/

/-- The little-endian number in `n` bytes of a block from byte `o`. -/
def blockNat (b : List Byte) (o n : Nat) : Nat := leNat ((b.drop o).take n)

/-- A copy of the configuration block verifies (R397, R401). -/
def configGood (f : Images) (b : List Byte) : Bool :=
  b.length = 0x28 + 4627 && blockNat b 0 8 = 0x4746_4E43_0000_0001 && decide (Config.rollback ≤ blockNat b 8 8)
    && Config.mldsaVerify (b.take 0x28) (b.drop 0x28) f.saolefKey

/-- The first copy that verifies (R401). -/
def Images.block (f : Images) : Option (List Byte) := f.config.find? fun b => configGood f b

/-- The power limit of the configuration block (R401). -/
def State.powerLimit (s : State) : Nat := match s.found.block with | some b => blockNat b 0x24 4 | none => 3600

/-! ### Register writes -/

/-- An access of `size` bytes at `off` reaches a register of `w` bytes at `lo`. -/
def reaches (off size lo w : Nat) : Bool := decide (off < lo + w) && decide (lo < off + size)

/-- The register's value after the addressed bytes are replaced (R291). -/
def merged (off size v lo w old : Nat) : Nat :=
  leNat ((List.range w).map fun i =>
    BitVec.ofNat 8 (if off ≤ lo + i && lo + i < off + size then v / 256 ^ (lo + i - off) else old / 256 ^ i))

/-- A host write into the registers of a queue (R291): the bytes that it does not address keep their values, so that they
clear no W1C bit. -/
def Queue.write (x : Queue) (off size v stamp : Nat) : Queue :=
  let x := if reaches off size 0 8 then x.writeBase (BitVec.ofNat 64 (merged off size v 0 8 (x.base * 128))) else x
  let x := if reaches off size 8 4 then
      x.writeCfg (BitVec.ofNat 32 (merged off size v 8 4 x.cfgKept.toNat)) else x
  if reaches off size 0x10 4 then x.writeTail (BitVec.ofNat 32 (merged off size v 0x10 4 x.tail.toNat)) stamp else x

/-! ### Register reads -/

/-- The listed lifetime counters (R402). -/
def lifeListed (k : Nat) : Bool :=
  let within (lo hi : Nat) : Bool := decide (lo ≤ k) && decide (k ≤ hi)
  within 0 14 || within 0x20 0x2E || within 0x100 0x17F || within 0x200 0x203 || within 0x210 0x233 || within 0x300 0x307
    || within 0x310 0x311 || within 0x400 0x40F || within 0x411 0x416 || k = 0x420

/-- QSTAT as read (R291). -/
def Queue.stat (x : Queue) : Nat := x.state * 2 ^ 30

/-- The registers of a queue: offset, width in bytes, and value as read (R291). -/
def Queue.regs (x : Queue) : List (Nat × Nat × Nat) :=
  [(0, 8, x.base * 128), (8, 4, x.cfg.toNat), (0x10, 4, x.tail.toNat), (0x18, 4, x.prog.toNat), (0x20, 4, x.stat)]

/-- The management registers: offset, width, and value as read (R392). -/
def State.mgmtRegs (s : State) : List (Nat × Nat × Nat) :=
  let m := s.mgmt
  [(0, 4, m.calRes * 2 ^ 19 + m.calSlot), (0x08, 4, s.reserved m.calRes (s.slot + m.calSlot)), (0x10, 8, Cells.get 0 s.life 0x310),
   (0x18, 4, m.logIndex), (0x20, 8, if lifeListed m.logIndex then Cells.get 0 s.life m.logIndex else 0),
   (0x28, 8, m.shootOid * 2 ^ 52 + m.shootVpn * 2 ^ 12), (0x30, 8, m.repOid * 2 ^ 32 + m.repToken.toNat),
   (0x38, 4, m.powerCap), (0x40, 4, m.tjmax),
   (0x48, 8, bit m.apEn * 2 ^ 63 + bit m.apErr * 2 ^ 62 + m.apBase * 2 ^ 36 + m.apOid)]

/-- A byte of a list of registers, zero where none lies. -/
def regByte (l : List (Nat × Nat × Nat)) (o : Nat) : Byte :=
  match l.find? fun r => decide (r.1 ≤ o) && decide (o < r.1 + r.2.1) with
  | some r => BitVec.ofNat 8 (r.2.2 / 256 ^ (o - r.1))
  | none => 0

/-- A byte of the axle mailbox (R398). -/
def Mailbox.byte (m : Mailbox) (o : Nat) : Byte :=
  if o < 8 then regByte [(0, 4, m.command.toNat), (4, 4, m.status.toNat)] o
  else if 0x40 ≤ o && o < 0x8000 then Cells.get 0 m.request (o - 0x40)
  else if 0x8000 ≤ o then Cells.get 0 m.response (o - 0x8000)
  else 0

/-- The device answers over a link: the host needs a trained module; the coachwork firmware runs only while the part does; in
recovery the sideband and the mailbox answer (R389, R392, R397). -/
def State.answers (s : State) (link : Link) (off : Nat) : Bool :=
  match link with
  | .firmware => s.mode = .running
  | .sideband => s.ucie.any id && (s.mode = .running || s.mode = .recovery)
  | .main => s.ucie.any id && (s.mode = .running || (s.mode = .recovery && decide (0x10000 ≤ off) && decide (off < 0x20000)))

/-- The byte that a read of the device's address space returns, outside the aperture (R390): a window that the link does not
reach reads as zero, and a read changes nothing. -/
def State.windowByte (s : State) (link : Link) (o : Nat) : Byte :=
  match link with
  | .main =>
    if o < 0x1000 then regByte (s.queue (o / 0x40)).regs (o % 0x40)
    else if 0x10000 ≤ o && o < 0x20000 then s.mailbox.byte (o - 0x10000)
    else 0
  | _ => if 0x1000 ≤ o && o < 0x2000 then regByte s.mgmtRegs (o - 0x1000) else 0

/-- A read of `size` bytes at an offset, if the device answers (R390, R397). -/
def State.windowRead (s : State) (link : Link) (off size : Nat) : Option Nat :=
  if s.answers link off then some (leNat ((List.range size).map fun i => s.windowByte link (off + i))) else none

/-- What an aperture read returns: zero where EN = 0 or the access fails R86; nothing yet while a swap or a kernel holds it back
(R95, R339, R391). -/
def State.apertureRead (s : State) (off size : Nat) : Option Nat :=
  let m := s.mgmt
  if !s.hostLink then none
  else if !m.apEn then some 0
  else match s.translate none m.apOid (m.apBase * 2 ^ 36 + off) .load with
    | .ok pa _ _ => if s.channelHeld pa then none else some (leNat (s.readStoN m.apOid pa size))
    | .held _ => none
    | .fails _ => some 0

/-- A shootdown that the coachwork firmware orders (R14, R322, R392). -/
def State.orderShoot (s : State) (oid vpn : Nat) : State :=
  let oid := oid % 2 ^ 12
  let vpn := vpn % 2 ^ 40
  let s := s.shootdown oid (vpn * 65536) 65536
  { s with mgmt := { s.mgmt with shootOid := oid, shootVpn := vpn } }

/-- A replay that the coachwork firmware orders (R14, R324, R392). -/
def State.orderReplay (s : State) (oid : Nat) (token : Word) : State :=
  let oid := oid % 2 ^ 12
  let s := s.replayToken s.written oid token
  { s with mgmt := { s.mgmt with repOid := oid, repToken := token } }

/-- The cap that a write of PWRCAP stores (R403). -/
def State.clampPower (s : State) (w : Nat) : Nat := if w = 0 then 1 else min w s.powerLimit

/-- A write into the management registers; `firmware` says that it is the coachwork firmware's (R392). -/
def State.writeMgmt (s : State) (firmware : Bool) (off size v : Nat) : State :=
  let m := s.mgmt
  let cal := merged off size v 0 4 (m.calRes * 2 ^ 19 + m.calSlot)
  let m := if reaches off size 0 4 then { m with calRes := fld cal 19 13, calSlot := fld cal 0 19 } else m
  let m := if reaches off size 0x18 4 then { m with logIndex := fld (merged off size v 0x18 4 m.logIndex) 0 16 } else m
  let ap := merged off size v 0x48 8 (m.apOid + m.apBase * 2 ^ 36 + bit m.apEn * 2 ^ 63)
  let m := if reaches off size 0x48 8 then
      let m := if fld ap 62 1 = 1 then { m with apErr := false } else m
      if firmware then { m with apEn := fld ap 63 1 = 1, apBase := fld ap 36 20, apOid := fld ap 0 12 } else m
    else m
  let s := { s with mgmt := m }
  if !firmware then s
  else
    let sh := merged off size v 0x28 8 (m.shootOid * 2 ^ 52 + m.shootVpn * 2 ^ 12)
    let s := if !reaches off size 0x28 8 then s
      else if fld sh 0 1 = 1 then s.orderShoot (fld sh 52 12) (fld sh 12 40)
      else { s with mgmt := { s.mgmt with shootOid := fld sh 52 12, shootVpn := fld sh 12 40 } }
    let rt := merged off size v 0x30 8 (m.repOid * 2 ^ 32 + m.repToken.toNat)
    let s := if reaches off size 0x30 8 then s.orderReplay (fld rt 32 12) (BitVec.ofNat 32 rt) else s
    if reaches off size 0x38 4 then
      { s with mgmt := { s.mgmt with powerCap := s.clampPower (fld (merged off size v 0x38 4 m.powerCap) 0 16) } }
    else s

/-- A write into the axle mailbox (R398): the command word starts a command unless one runs; an unlisted command ends in an
error that the manual does not number. In recovery only ATTEST answers (R397). -/
def State.writeMailbox (s : State) (off size v : Nat) : State :=
  let m := s.mailbox
  let cmd := merged off size v 0 4 m.command.toNat
  let m := if reaches off size 0 4 && m.status ≠ 1 && (s.mode = .running || cmd = 1) then
      { m with command := BitVec.ofNat 32 cmd,
               status := if 1 ≤ cmd && cmd ≤ 4 then 1 else Config.freeWord s.tick 300000 ||| 0x80000000 }
    else m
  let req := (List.range size).foldl (fun r i =>
    if 0x40 ≤ off + i && off + i < 0x8000 then Cells.set 0 r (off + i - 0x40) (BitVec.ofNat 8 (v / 256 ^ i)) else r) m.request
  { s with mailbox := { m with request := req } }

/-- REGISTER_WRITE (R13, R291, R390, R392, R397, R398): an aligned write of 1, 2, 4 or 8 bytes at an offset of the device's window
over a link; a write that the device does not answer, or to a window that the link does not reach, is ignored. -/
def execRegisterWrite (link : Link) (off size : Nat) (v : BitVec 64) (s : State) : Host.Outcome State Fault Refusal :=
  if !([1, 2, 4, 8].contains size) || off % size ≠ 0 || !s.answers link off then .next s
  else match link with
    | .main =>
      if off < 0x1000 then
        .next (s.setQueue (off / 0x40) ((s.queue (off / 0x40)).write (off % 0x40) size v.toNat s.mem.writes))
      else if 0x10000 ≤ off && off < 0x20000 then .next (s.writeMailbox (off - 0x10000) size v.toNat)
      else .next s
    | link =>
      if 0x1000 ≤ off && off < 0x2000 then .next (s.writeMgmt (link = .firmware) (off - 0x1000) size v.toNat) else .next s

/-- SHOOT (R322, R392): complete at once, so that GO reads 0 again. -/
def execShoot (oid vpn : Nat) (s : State) : Host.Outcome State Fault Refusal := whenRunning s <| .next (s.orderShoot oid vpn)

/-- REPTOK (R324, R392). -/
def execReptok (oid : Nat) (token : BitVec 32) (s : State) : Host.Outcome State Fault Refusal :=
  whenRunning s <| .next (s.orderReplay oid token)

/-- PWRCAP_WRITE (R392, R403): the cap, and the capacities that the coachwork firmware scales for later admissions, none above
R301. A scaled capacity holds only in slots whose reservations fit it. -/
def execPwrcapWrite (watts : BitVec 16) (caps : List (Nat × Nat)) (s : State) : Host.Outcome State Fault Refusal :=
  whenRunning s <|
    let ok := caps.filter fun p => decide (p.2 ≤ tableCap p.1)
    .next { s with mgmt := { s.mgmt with powerCap := s.clampPower watts.toNat },
                   capacity := ok.foldl (fun c p => Cells.put c p.1 p.2) s.capacity }

/-- APCTL_ERR_CLEAR (R392): W1C. -/
def execApctlErrClear (s : State) : Host.Outcome State Fault Refusal :=
  whenRunning s <| .next { s with mgmt := { s.mgmt with apErr := false } }

/-- APERTURE_ACCESS (R391): a store, or a read, whose value no state keeps. -/
def execApertureAccess (store : Bool) (off size : Nat) (v : BitVec 64) (s : State) : Host.Outcome State Fault Refusal :=
  let m := s.mgmt
  if !s.hostLink || !m.apEn || 2 ^ 36 ≤ off || !([1, 2, 4, 8].contains size) || off % size ≠ 0 then .next s
  else match s.translate none m.apOid (m.apBase * 2 ^ 36 + off) (if store then .store else .load) with
    | .held chans => .next (s.markWaiting chans)
    | .fails _ => .next { s with mgmt := { m with apErr := true } }
    | .ok pa _ _ =>
      if s.channelHeld pa then .next (s.markWaiting [channelOf pa] (!store))
      else .next (if store then s.writeLocs m.apOid (.sto pa) (leBytes size v.toNat) else s)

/-! ### Firmware -/

/-- GRANULE_ASSIGNMENT (R79). -/
def execGranuleAssignment (granule oid : Nat) (s : State) : Host.Outcome State Fault Refusal :=
  whenRunning s <|
    if granule < 256 && oid < 4096 then .next { s with granules := Cells.put s.granules granule oid } else .next s

/-- TRANSLATION_ROOT_WRITE (R84): a level-0 table aligned to its size. -/
def execTranslationRootWrite (oid pa : Nat) (s : State) : Host.Outcome State Fault Refusal :=
  whenRunning s <|
    if oid < 4096 && pa % 65536 = 0 && pa < 2 ^ 52 then .next { s with roots := Cells.put s.roots oid pa } else .next s

/-- A SHA3-512 digest as bytes. -/
def digest (l : List Byte) : List Byte := leBytes 64 (Config.sha3 l).toNat

/-- A digest extends a measurement register, which starts at zero (R397). -/
def extend (m : Cells (List Byte)) (k : Nat) (image : List Byte) : Cells (List Byte) :=
  let cur := (Cells.find m k).getD (List.replicate 64 0)
  Cells.put m k (digest (cur ++ digest image))

/-- HANDLER_IMAGE_LOAD (R315, R321, R397): an image of 4 KiB to 64 MiB, never at address 0; its digest extends MEAS3. -/
def execHandlerImageLoad (oid vbase len pool : Nat) (s : State) : Host.Outcome State Fault Refusal :=
  whenRunning s <|
    if vbase = 0 || 2 ^ 44 ≤ vbase || len % 4096 ≠ 0 || len = 0 || 2 ^ 26 < len || s.moving oid then .next s
    else if !(s.gWaits oid (vbase * 4096) len .load).isEmpty then .next (s.markWaiting (s.gWaits oid (vbase * 4096) len .load))
    else match s.gBytes oid (vbase * 4096) len with
      | none => .next s
      | some b => .next { s with images := Cells.put s.images oid { vbase := vbase, len := len, pool := pool % 2 ^ 56 },
                                 meas := extend s.meas 3 b }

/-! ### Boot -/

/-- What a loss of power leaves: the images, the written log, and the model's own counters (R402). -/
def State.cold (s : State) : State :=
  { tick := s.tick, due := s.due, cur := s.cur, curSub := s.curSub, found := s.found, life := s.lifeMram,
    lifeMram := s.lifeMram }

/-- POWER_ON (R397): the boot ROM verifies and measures the images; any failure leaves the part in recovery. -/
def execPowerOn (s : State) : Host.Outcome State Fault Refusal :=
  if !(s.mode = .inReset || s.mode = .off) then .next s
  else
    let f := s.found
    let s := s.cold
    let down (s : State) : Host.Outcome State Fault Refusal := .next { s with mode := .recovery }
    if Config.sha3 f.saolefKey ≠ Config.fusedDigest || !Config.mldsaVerify f.axle f.axleSig f.saolefKey then down s
    else
      let s := { s with meas := extend s.meas 0 f.axle }
      match f.block with
      | none => down s
      | some b =>
        let flags := blockNat b 0x20 4
        let s := { s with meas := extend s.meas 1 b, fabricOn := fld flags 0 1 = 1,
                          ucie := (List.range 4).map fun i => fld flags (1 + i) 1 = 1 }
        let s := { s with mgmt := { s.mgmt with powerCap := s.powerLimit } }
        if !Config.mldsaVerify f.coachwork f.coachworkSig f.saolefKey then down s
        else .next { s with meas := extend s.meas 2 f.coachwork, mode := .running }

/-- POWER_LOSS (R402): counts since the last write of the log are lost, and with them all that needs power. -/
def execPowerLoss (s : State) : Host.Outcome State Fault Refusal := .next { s.cold with mode := .off }

/-- TRIP (R404): every engine stops at once, and the part enters recovery or stays in it. -/
def execTrip (s : State) : Host.Outcome State Fault Refusal :=
  if s.mode = .running || s.mode = .recovery then .next { s.count 0x420 with mode := .recovery } else .next s

/-- LIFETIME_LOG_WRITE (R402). -/
def execLifetimeLogWrite (s : State) : Host.Outcome State Fault Refusal :=
  if s.mode = .running || s.mode = .recovery then .next { s with lifeMram := s.life } else .next s

/-! ### Commands of the axle mailbox -/

/-- A command is at hand: the command word holds its number and the status reads 1 (R398). -/
def command (k : Word) (s : State) (f : State → Host.Outcome State Fault Refusal) : Host.Outcome State Fault Refusal :=
  if s.mailbox.command = k && s.mailbox.status = 1 && (s.mode = .running || (s.mode = .recovery && k = 1)) then f s
  else .next s

/-- A command ends with a status and a response. -/
def State.answer (s : State) (status : Word) (response : List Byte) : State :=
  { s with mailbox := { s.mailbox with status := status,
                                       response := (response.zipIdx).foldl (fun m p => Cells.set 0 m p.2 p.1) [] } }

/-- Bytes of the request from offset `o`. -/
def State.requestBytes (s : State) (o n : Nat) : List Byte := (List.range n).map fun i => Cells.get 0 s.mailbox.request (o + i)

/-- A field of a fixed length. -/
def padded (l : List Byte) (n : Nat) : List Byte := (l ++ List.replicate n 0).take n

/-- The report of R399 without its signature. -/
def State.report (s : State) : List Byte :=
  let block := (s.found.block).getD []
  leBytes 8 0x5254_5441_0000_0001 ++ s.requestBytes 0 64
    ++ (List.range 4).flatMap (fun k => padded ((Cells.find s.meas k).getD []) 64)
    ++ digest block ++ padded ((block.drop 0x10).take 16) 16 ++ leBytes 2592 Config.identityKey.toNat

/-- A signature by the identity key, as bytes (R398, R399). -/
def signature (l : List Byte) : List Byte := leBytes 4627 (Config.mldsaSign l).toNat

/-- ATTEST (R398, R399). -/
def execAttest (s : State) : Host.Outcome State Fault Refusal :=
  command 1 s fun s => .next (s.answer 2 (s.report ++ signature s.report))

/-- The encapsulation key as bytes (R398). -/
def encapsulationBytes : List Byte := leBytes 1568 Config.encapsulationKey.toNat

/-- GETEK (R398): the key, and after it the signature (log entry 18). -/
def execGetek (s : State) : Host.Outcome State Fault Refusal :=
  command 2 s fun s => .next (s.answer 2 (encapsulationBytes ++ signature encapsulationBytes))

/-- LOADKEY (R90, R398): the XTS key is kept under the number that the owner's key has now. -/
def execLoadkey (s : State) : Host.Outcome State Fault Refusal :=
  command 3 s fun s =>
    let oid := leNat (s.requestBytes 0 4)
    if oid = 0 || 0xFFF ≤ oid || s.keys.contains oid then .next (s.answer 0x80000001 [])
    else match Config.unwrap (s.requestBytes 4 1568) (s.requestBytes 1572 72) with
      | none => .next (s.answer 0x80000002 [])
      | some k => .next ({ s with keys := oid :: s.keys, keyBits := Cells.put s.keyBits (s.keyOf oid) k }.answer 2 [])

/-- An executor holds the call and has not started it. -/
def State.queued (s : State) (k : Nat) : Bool := s.executors.any fun e => e.2.queue.contains k

/-- Calls of an owner that have not started are aborted, those past their deadline too (R264, R400). -/
def State.abortCalls (s : State) (oid : Nat) : State :=
  let gone := (s.calls.filter fun p => p.2.oid = oid && !p.2.started && p.2.result.isNone && p.2.relay.isNone && s.queued p.1).map Prod.fst
  let tokens := gone.filterMap fun k => (Cells.find s.calls k).map Call.token
  { s with
    calls := s.calls.map fun (p : Nat × Call) => (p.1, if gone.contains p.1 then { p.2 with result := some (1, []), started := true } else p.2)
    executors := s.executors.map fun (e : Nat × Executor) => (e.1, { e.2 with
      queue := e.2.queue.filter fun k => !gone.contains k,
      recent := e.2.recent.map fun r => if tokens.contains r.1 then (r.1, some (1, 0)) else r }) }

/-- WITHDRAW (R310, R400): the owner's teams are evicted, its nodes complete with EVICTED and its calls that have not
started are aborted; once no admitted node of the owner is left, the key is erased. -/
def execWithdraw (s : State) : Host.Outcome State Fault Refusal :=
  command 4 s fun s =>
    let oid := leNat (s.requestBytes 0 4)
    if s.nodes.any fun p => p.2.oid = oid && p.2.admitted.isSome then
      let s := (s.teams.filter fun p => p.2.oid = oid).foldl (fun s p => s.evictTeam p.1) s
      let mark (n : Node) : Node :=
        if n.oid = oid && n.admitted.isSome then { n with stop := some 6, bounded := false } else n
      .next ({ s with nodes := s.nodes.map fun (p : Nat × Node) => (p.1, mark p.2) }.abortCalls oid)
    else
      let s := s.abortCalls oid
      .next ({ s with keys := s.keys.filter (· ≠ oid),
                      epochs := Cells.set 0 s.epochs oid (Cells.get 0 s.epochs oid + 1) }.answer 2 [])

/-! ### Fabric -/

/-- The agent of a peer's request (R101, R394). -/
def peerAgent (oid : Nat) : Agent := { oid := oid, team := 0, t := { oid := oid } }

/-- An arriving copy performed on its destination (R93, R394). -/
def State.fabricCopy (s : State) (oid xf ss ds sf df : Nat) (scalar : Word) (dst : List Piece) (bytes : List Byte) : State :=
  (List.range (bytes.length / ss)).foldl (fun x i =>
    let from_ := (bytes.drop (i * ss)).take ss
    let out := if xf = 0 then from_
      else match tidElem sf, tidElem df with
        | some se, some de => leBytes ds (transform xf se de scalar (leNat from_) (leNat (x.readPieces oid dst (i * ds) ds)))
        | _, _ => from_
    x.writePieces oid dst (i * ds) out) s

/-- FABRIC_REQUEST (R394): an arriving copy is reserved and performed, a packet handled by R345, a call queued at the executor
that R263 selects for its target in CHIP or GLOBAL. What is not admitted is refused with a hint; what the peer asks wrongly
has no effect (log entry 24). -/
def execFabricRequest (req : FabricReq) (s : State) : Host.Outcome State Fault Refusal :=
  whenRunning s <|
    if !s.fabricOn then .next s
    else match req with
    | .copy oid va xf sf df scalar cls bytes =>
      let ss := if xf = 0 then 1 else fmtBytes sf
      let ds := if xf = 0 then 1 else fmtBytes df
      let len := bytes.length / ss * ds
      if len = 0 || 2 ^ 24 < len || 6 < xf || 7 < cls || (xf ≠ 0 && (!xfFmt sf || !xfFmt df || 10 < sf || 10 < df)) || va % ds ≠ 0 then
        .next s
      else match s.wholeRange (peerAgent oid) 4 .store va len with
        | .error (.hold chans) => .next (s.markWaiting chans)
        | .error (.trap _) => .next s
        | .ok dst =>
          let held := s.heldChannels dst
          if !held.isEmpty then .next (s.markWaiting held (decide (4 ≤ xf)))
          else match s.tryAdmit oid cls 16 (s.pagesOf oid va len)
              (byteNeeds [] dst ++ [.spread 0x19 bytes.length] ++ if xf = 0 then [] else drayNeeds dst) with
            | .error k => .next { s.count (0x300 + cls) with peerHint := some k }
            | .ok s => .next { s.fabricCopy oid xf ss ds sf df scalar dst bytes with peerHint := none }
    | .reduce oid pa fmt op elems =>
      if pa < 2 ^ 39 && pa % 32 = 0 && elems.length ≤ 32 && xfFmt fmt && fmt ≤ 10 && 4 ≤ op && op ≤ 6 then
        .next (s.takePacket { oid := oid, sector := pa, fmt := fmt, op := op, elems := elems })
      else .next s
    | .call oid base len entry layer target nret cls payload =>
      if 16 < payload.length || 8 < nret || 7 < cls || len ≤ entry || entry % 4 ≠ 0 || !(layer = 3 || layer = 4)
          || (layer = 4 && (s.anyHost oid target 1 || s.movingIn oid target 1)) then .next s
      else match s.wholeRange (peerAgent oid) layer .load target 1 with
        | .error (.hold chans) => .next (s.markWaiting chans)
        | .error (.trap _) => .next s
        | .ok ps =>
          let ex := executorOf layer 0 ((pieceLoc ps 0).getD (.sto 0))
          match s.tryAdmit oid cls 32 [] (callNeeds ex cls payload.length nret
              ++ [.spread 0x19 (4 * payload.length), .spread 0x18 (4 * nret)]) with
          | .error k => .next { s.count (0x300 + cls) with peerHint := some k }
          | .ok s =>
            let call : Call :=
              { token := 0, ex := ex, team := 0, coach := 0, oid := oid, deadline := s.slot + Config.bound cls, nret := nret,
                payload := payload, entry := entry, caller := { oid := oid, code := base, codeLen := len } }
            .next (({ s with peerHint := none } : State).addCall call).1

/-- Owner, class, and bytes out and in of a request that crosses the fabric; a packet names no class (log entry 24). -/
def fabricShape : FabricReq → Nat × Nat × Nat × Nat
  | .copy oid _ _ _ _ _ cls bytes => (oid, cls, bytes.length, 0)
  | .reduce oid _ _ _ elems => (oid, 7, elems.length, 0)
  | .call oid _ _ _ _ _ nret cls payload => (oid, cls, 4 * payload.length, 4 * nret)

/-- The request is a call. -/
def fabricIsCall : FabricReq → Bool
  | .call .. => true
  | _ => false

/-- The request with the bytes that the relay reads from its source. -/
def fabricCarrying (bs : List Byte) : FabricReq → FabricReq
  | .copy oid va xf sf df scalar cls _ => .copy oid va xf sf df scalar cls bs
  | .reduce oid pa fmt op _ => .reduce oid pa fmt op bs
  | r => r

/-- An outbound request that both parts have admitted (R395): a call takes an entry of its port's table with the next number of
that entry in its token (R263), and waits for its disposition. -/
def State.relaySend (s : State) (req : FabricReq) (number : Nat) : State :=
  let s := { s with relayHint := none }
  match req with
  | .call oid _ _ _ _ _ nret cls payload =>
    let seq := Cells.get 0 s.relaySeq number
    let token : Word := BitVec.ofNat 32 (pack [(1, 0), (11, number), (20, seq % 2 ^ 20)])
    let c : Call :=
      { token := token, ex := number, team := 0, coach := 0, oid := oid, deadline := s.slot + Config.bound cls, nret := nret,
        payload := payload, entry := 0, caller := { oid := oid }, relay := some number }
    { s with
      calls := Cells.put s.calls s.fresh c, fresh := s.fresh + 1
      relaySeq := Cells.set 0 s.relaySeq number ((seq + 1) % 2 ^ 20)
      relayed := Cells.put s.relayed number { req := req, token := token } }
  | req => { s with relayed := Cells.put s.relayed 0 { req := req } }

/-- A hint of a peer: from 1 to 524,288 slots, or never (R303); which is open (log entry 24). -/
def peerHintOf (x : Nat) : Nat := if x % 524289 = 524288 then 0x7FFFFFFF else x % 524289 + 1

/-- FABRIC_RELAY_REQUEST (R302, R394, R395, R405): the relay sends a request, the bytes of a copy or packet read at GLOBAL
address `r.src` of the owner, if both parts admit it; else the larger of their hints is kept. The number of a call is that of
its port and of its entry in the port's table of 256, which the relay chooses. -/
def execFabricRelayRequest (r : RelayReq) (s : State) : Host.Outcome State Fault Refusal :=
  whenRunning s <|
    let src := r.src
    let req := r.req
    let (oid, cls, out, back) := fabricShape req
    let number := if fabricIsCall req then 0x400 + Config.choose s.tick 2 % 1024 else 0
    let taken := fabricIsCall req && s.calls.any fun p => p.2.relay = some number
    let len := if fabricIsCall req then 0 else out
    if !s.fabricOn || 7 < cls || taken then .next s
    else match s.wholeRange (peerAgent oid) 4 .load src len with
      | .error (.hold chans) => .next (s.markWaiting chans)
      | .error (.trap _) => .next s
      | .ok ps =>
        if !(s.heldChannels ps).isEmpty then .next (s.markWaiting (s.heldChannels ps))
        else
          let needs := byteNeeds ps [] ++ [.spread 0x18 out] ++ if back = 0 then [] else [.spread 0x19 back]
          let peer := if Config.choose s.tick 1 % 2 = 0 then peerHintOf (Config.choose s.tick 5) else 0
          match s.tryAdmit oid cls (if fabricIsCall req then 32 else 16) (s.pagesOf oid src len) needs with
          | .error k => .next { s.count (0x300 + cls) with relayHint := some (max k peer) }
          | .ok s' =>
            if peer ≠ 0 then .next { s.count (0x300 + cls) with relayHint := some peer }
            else .next (s'.relaySend (fabricCarrying (s.readPieces oid ps 0 len) req) number)

/-! ### Errors and retrains -/

/-- A hardware fault may make everything late that is admitted now (R304, R305). -/
def State.excuse (s : State) : State :=
  { s with
    requests := s.requests.map fun (p : Nat × Request) => (p.1, { p.2 with excused := true })
    nodes := s.nodes.map fun (p : Nat × Node) => (p.1, if p.2.admitted.isSome then { p.2 with excused := true } else p.2)
    calls := s.calls.map fun (p : Nat × Call) => (p.1, { p.2 with excused := true }) }

/-- A UCIe module is enabled by the configuration block; without a block that verifies every module is (R401; log entry 53). -/
def State.moduleEnabled (s : State) (m : Nat) : Bool :=
  match s.found.block with | some b => fld (blockNat b 0x20 4) (1 + m) 1 = 1 | none => true

/-- UCIE_RETRAIN (R304, R389, R401): a module retrains, or fails and leaves the link and the sideband to the others; a module that
the configuration block does not enable never trains. -/
def execUcieRetrain (m : Nat) (trained : Bool) (s : State) : Host.Outcome State Fault Refusal :=
  if m < 4 && (s.mode = .running || s.mode = .recovery) then
    .next { (s.count (0x200 + m)).excuse with ucie := s.ucie.set m (trained && s.moduleEnabled m) }
  else .next s

/-- An event that happens to the part as long as it has power and its boot has ended, in recovery too. -/
def whenPowered (s : State) (r : Host.Outcome State Fault Refusal) : Host.Outcome State Fault Refusal :=
  if s.mode = .running || s.mode = .recovery then r else .next s

/-- LANE_RETRAIN (R304, R393, R402). -/
def execLaneRetrain (lane : Nat) (s : State) : Host.Outcome State Fault Refusal :=
  whenPowered s <| if lane < 36 then .next (s.count (0x210 + lane)).excuse else .next s

/-- SOFT_ERROR (R304, R321, R402): an uncorrectable one in data that a node reads stops the node with UNHANDLED; in recovery no
node reads any. -/
def execSoftError (region : Nat) (corrected : Bool) (node : Nat) (s : State) : Host.Outcome State Fault Refusal :=
  whenPowered s <|
    if 14 < region then .next s
    else if corrected then .next (s.count region)
    else
      let s := (s.count (0x20 + region)).excuse
      .next (match Cells.find s.nodes node with
        | some n => if n.admitted.isSome && decide (s.mode = .running) then s.stopNode node 5 else s
        | none => s)

/-- DROOP_EVENT (R402). -/
def execDroopEvent (mv : Nat) (s : State) : Host.Outcome State Fault Refusal :=
  whenPowered s <| if mv / 5 < 64 then .next (s.count (0x140 + mv / 5)) else .next s

end Sys2Proof.Machine
end

