-- ==== Sys2Proof/Machine/Uniform.lean ====
section
/-!
DEFINITION. Uniform integer arithmetic and constants (spec/14_instr_uniform.md R192 to R199).
-/

namespace Sys2Proof.Machine

/-- Uniform 32-bit add modulo 2^32 (R192). -/
def execUadd (sw : Bool) (d a b : BitVec 8) (s : State) : Host.Outcome State Fault Refusal :=
  uniBin sw d a b s (fun x y => x + y)

/-- Uniform 32-bit subtract modulo 2^32 (R192). -/
def execUsub (sw : Bool) (d a b : BitVec 8) (s : State) : Host.Outcome State Fault Refusal :=
  uniBin sw d a b s (fun x y => x - y)

/-- Uniform 32-bit multiply, low word (R192). -/
def execUmul (sw : Bool) (d a b : BitVec 8) (s : State) : Host.Outcome State Fault Refusal :=
  uniBin sw d a b s (fun x y => x * y)

/-- Uniform signed multiply, high word (R192). -/
def execUmulh (sw : Bool) (d a b : BitVec 8) (s : State) : Host.Outcome State Fault Refusal :=
  uniBin sw d a b s mulhS

/-- Uniform unsigned multiply, high word (R192). -/
def execUmulhu (sw : Bool) (d a b : BitVec 8) (s : State) : Host.Outcome State Fault Refusal :=
  uniBin sw d a b s mulhU

/-- Uniform signed division truncating toward zero, never trapping (R193). -/
def execUdiv (sw : Bool) (d a b : BitVec 8) (s : State) : Host.Outcome State Fault Refusal :=
  uniBin sw d a b s divS

/-- Uniform signed remainder, never trapping (R193). -/
def execUrem (sw : Bool) (d a b : BitVec 8) (s : State) : Host.Outcome State Fault Refusal :=
  uniBin sw d a b s remS

/-- Uniform bitwise AND (R192). -/
def execUand (sw : Bool) (d a b : BitVec 8) (s : State) : Host.Outcome State Fault Refusal :=
  uniBin sw d a b s (fun x y => x &&& y)

/-- Uniform bitwise OR (R192). -/
def execUor (sw : Bool) (d a b : BitVec 8) (s : State) : Host.Outcome State Fault Refusal :=
  uniBin sw d a b s (fun x y => x ||| y)

/-- Uniform bitwise XOR (R192). -/
def execUxor (sw : Bool) (d a b : BitVec 8) (s : State) : Host.Outcome State Fault Refusal :=
  uniBin sw d a b s (fun x y => x ^^^ y)

/-- Uniform left shift by a register amount, not reduced modulo 32 (R194). -/
def execUshl (sw : Bool) (d a b : BitVec 8) (s : State) : Host.Outcome State Fault Refusal :=
  uniBin sw d a b s shl32

/-- Uniform logical right shift by a register amount (R194). -/
def execUshr (sw : Bool) (d a b : BitVec 8) (s : State) : Host.Outcome State Fault Refusal :=
  uniBin sw d a b s shr32

/-- Uniform arithmetic right shift by a register amount (R194). -/
def execUsar (sw : Bool) (d a b : BitVec 8) (s : State) : Host.Outcome State Fault Refusal :=
  uniBin sw d a b s sar32

/-- Uniform signed minimum (R192). -/
def execUmin (sw : Bool) (d a b : BitVec 8) (s : State) : Host.Outcome State Fault Refusal :=
  uniBin sw d a b s minS

/-- Uniform signed maximum (R192). -/
def execUmax (sw : Bool) (d a b : BitVec 8) (s : State) : Host.Outcome State Fault Refusal :=
  uniBin sw d a b s maxS

/-- Uniform compare equal, writing 1 or 0 (R195). -/
def execUceq (sw : Bool) (d a b : BitVec 8) (s : State) : Host.Outcome State Fault Refusal :=
  uniBin sw d a b s ceq

/-- Uniform signed compare less-than (R195). -/
def execUclt (sw : Bool) (d a b : BitVec 8) (s : State) : Host.Outcome State Fault Refusal :=
  uniBin sw d a b s clt

/-- Uniform unsigned compare less-than (R195). -/
def execUcltu (sw : Bool) (d a b : BitVec 8) (s : State) : Host.Outcome State Fault Refusal :=
  uniBin sw d a b s cltu

/-- Select on the old value of D; the result takes the taint of the condition and of the operand selected (R195). -/
def execUsel (sw : Bool) (d a b : BitVec 8) (s : State) : Host.Outcome State Fault Refusal :=
  nativeHere sw true s fun h => do
    h.okU d; h.okU a; h.okU b
    let c := h.u d.toNat
    let x := h.u a.toNat
    let y := h.u b.toNat
    pure (h.setU d.toNat (sel c.1 x.1 y.1) (c.2 || if c.1 ≠ 0 then x.2 else y.2))

/-- Adds a sign-extended register to a 64-bit pair (R198). DESIGN CHOICE (log entry 53): both words of the result, UADDPI's
too, take the taint of every register read, though R112 speaks of each destination and the low word needs no high word. -/
def execUaddp (sw : Bool) (d a b : BitVec 8) (s : State) : Host.Outcome State Fault Refusal :=
  nativeHere sw true s fun h => do
    h.okUPair d; h.okUPair a; h.okU b
    let x := h.uPair a.toNat
    let y := h.u b.toNat
    pure (h.setUPair d.toNat (x.1 + y.1.signExtend 64) (x.2 || y.2))

/-- Uniform add of a sign-extended immediate (R196). -/
def execUaddImm (sw : Bool) (d a imm : BitVec 8) (s : State) : Host.Outcome State Fault Refusal :=
  uniImm sw d a s (fun h => h.imm8 true imm) (fun x y => x + y)

/-- Uniform AND with a sign-extended immediate (R196). -/
def execUandImm (sw : Bool) (d a imm : BitVec 8) (s : State) : Host.Outcome State Fault Refusal :=
  uniImm sw d a s (fun h => h.imm8 true imm) (fun x y => x &&& y)

/-- Uniform OR with a zero-extended immediate (R196). -/
def execUorImm (sw : Bool) (d a imm : BitVec 8) (s : State) : Host.Outcome State Fault Refusal :=
  uniImm sw d a s (fun h => h.imm8 false imm) (fun x y => x ||| y)

/-- Uniform left shift by an immediate amount 0-63 (R197). -/
def execUshlImm (sw : Bool) (d a : BitVec 8) (n : BitVec 6) (s : State) : Host.Outcome State Fault Refusal :=
  uniImm sw d a s (fun _ => n.zeroExtend 32) shl32

/-- Uniform logical right shift by an immediate amount (R197). -/
def execUshrImm (sw : Bool) (d a : BitVec 8) (n : BitVec 6) (s : State) : Host.Outcome State Fault Refusal :=
  uniImm sw d a s (fun _ => n.zeroExtend 32) shr32

/-- Uniform arithmetic right shift by an immediate amount (R197). -/
def execUsarImm (sw : Bool) (d a : BitVec 8) (n : BitVec 6) (s : State) : Host.Outcome State Fault Refusal :=
  uniImm sw d a s (fun _ => n.zeroExtend 32) sar32

/-- Adds a sign-extended immediate to a 64-bit pair (R198). -/
def execUaddpi (sw : Bool) (d a imm : BitVec 8) (s : State) : Host.Outcome State Fault Refusal :=
  nativeHere sw true s fun h => do
    h.okUPair d; h.okUPair a
    let x := h.uPair a.toNat
    pure (h.setUPair d.toNat (x.1 + (h.imm8 true imm).signExtend 64) x.2)

/-- Writes a 16-bit sign-extended or IMMX-extended constant to a register (R199). -/
def execUmovi (sw : Bool) (d : BitVec 8) (imm : BitVec 16) (s : State) : Host.Outcome State Fault Refusal :=
  nativeHere sw true s fun h => do
    h.okU d
    pure (h.setU d.toNat (h.imm16 imm) false)

end Sys2Proof.Machine
end

