-- ==== Sys2Proof/Machine/Dispatch.lean ====
section
/-!
DEFINITION. The meaning of every instruction: one arm per constructor, each a call of its meaning.
-/

namespace Sys2Proof.Machine

def exec (i : Instr) (s : State) : Host.Outcome State Fault Refusal :=
  match i with
  | .uadd sw d a b => Sys2Proof.Machine.execUadd sw d a b s
  | .usub sw d a b => Sys2Proof.Machine.execUsub sw d a b s
  | .umul sw d a b => Sys2Proof.Machine.execUmul sw d a b s
  | .umulh sw d a b => Sys2Proof.Machine.execUmulh sw d a b s
  | .umulhu sw d a b => Sys2Proof.Machine.execUmulhu sw d a b s
  | .udiv sw d a b => Sys2Proof.Machine.execUdiv sw d a b s
  | .urem sw d a b => Sys2Proof.Machine.execUrem sw d a b s
  | .uand sw d a b => Sys2Proof.Machine.execUand sw d a b s
  | .uor sw d a b => Sys2Proof.Machine.execUor sw d a b s
  | .uxor sw d a b => Sys2Proof.Machine.execUxor sw d a b s
  | .ushl sw d a b => Sys2Proof.Machine.execUshl sw d a b s
  | .ushr sw d a b => Sys2Proof.Machine.execUshr sw d a b s
  | .usar sw d a b => Sys2Proof.Machine.execUsar sw d a b s
  | .umin sw d a b => Sys2Proof.Machine.execUmin sw d a b s
  | .umax sw d a b => Sys2Proof.Machine.execUmax sw d a b s
  | .uceq sw d a b => Sys2Proof.Machine.execUceq sw d a b s
  | .uclt sw d a b => Sys2Proof.Machine.execUclt sw d a b s
  | .ucltu sw d a b => Sys2Proof.Machine.execUcltu sw d a b s
  | .usel sw d a b => Sys2Proof.Machine.execUsel sw d a b s
  | .uaddp sw d a b => Sys2Proof.Machine.execUaddp sw d a b s
  | .uaddImm sw d a imm => Sys2Proof.Machine.execUaddImm sw d a imm s
  | .uandImm sw d a imm => Sys2Proof.Machine.execUandImm sw d a imm s
  | .uorImm sw d a imm => Sys2Proof.Machine.execUorImm sw d a imm s
  | .ushlImm sw d a n => Sys2Proof.Machine.execUshlImm sw d a n s
  | .ushrImm sw d a n => Sys2Proof.Machine.execUshrImm sw d a n s
  | .usarImm sw d a n => Sys2Proof.Machine.execUsarImm sw d a n s
  | .uaddpi sw d a imm => Sys2Proof.Machine.execUaddpi sw d a imm s
  | .umovi sw d imm => Sys2Proof.Machine.execUmovi sw d imm s
  | .bz sw d off => Sys2Proof.Machine.execBz sw d off s
  | .bnz sw d off => Sys2Proof.Machine.execBnz sw d off s
  | .srrd sw d num => Sys2Proof.Machine.execSrrd sw d num s
  | .srwr sw d num => Sys2Proof.Machine.execSrwr sw d num s
  | .bra sw off => Sys2Proof.Machine.execBra sw off s
  | .call sw off => Sys2Proof.Machine.execCall sw off s
  | .callr sw reg => Sys2Proof.Machine.execCallr sw reg s
  | .brr sw reg => Sys2Proof.Machine.execBrr sw reg s
  | .ret sw reg => Sys2Proof.Machine.execRet sw reg s
  | .endLanes sw => Sys2Proof.Machine.execEndLanes sw s
  | .trap sw reg code => Sys2Proof.Machine.execTrap sw reg code s
  | .rfe sw => Sys2Proof.Machine.execRfe sw s
  | .replayToken sw reg => Sys2Proof.Machine.execReplayToken sw reg s
  | .replayPage sw reg => Sys2Proof.Machine.execReplayPage sw reg s
  | .icinv sw sc => Sys2Proof.Machine.execIcinv sw sc s
  | .fence sw kind sc => Sys2Proof.Machine.execFence sw kind sc s
  | .opfence sw => Sys2Proof.Machine.execOpfence sw s
  | .waitany sw reg k => Sys2Proof.Machine.execWaitany sw reg k s
  | .waitall sw reg => Sys2Proof.Machine.execWaitall sw reg s
  | .ffrdy sw reg k => Sys2Proof.Machine.execFfrdy sw reg k s
  | .rcwait sw reg k => Sys2Proof.Machine.execRcwait sw reg k s
  | .rcprobe sw reg k => Sys2Proof.Machine.execRcprobe sw reg k s
  | .exrd sw reg => Sys2Proof.Machine.execExrd sw reg s
  | .exwr sw reg => Sys2Proof.Machine.execExwr sw reg s
  | .exld sw ma => Sys2Proof.Machine.execExld sw ma s
  | .exsv sw ma => Sys2Proof.Machine.execExsv sw ma s
  | .mand sw ma mb mc => Sys2Proof.Machine.execMand sw ma mb mc s
  | .mor sw ma mb mc => Sys2Proof.Machine.execMor sw ma mb mc s
  | .mxor sw ma mb mc => Sys2Proof.Machine.execMxor sw ma mb mc s
  | .mnot sw ma mb => Sys2Proof.Machine.execMnot sw ma mb s
  | .mrd sw reg ma => Sys2Proof.Machine.execMrd sw reg ma s
  | .mwr sw reg ma => Sys2Proof.Machine.execMwr sw reg ma s
  | .mpop sw reg ma => Sys2Proof.Machine.execMpop sw reg ma s
  | .bararv sw reg ci cnt bar => Sys2Proof.Machine.execBararv sw reg ci cnt bar s
  | .barsync sw reg ci cnt bar => Sys2Proof.Machine.execBarsync sw reg ci cnt bar s
  | .uldb sw d a wh abs => Sys2Proof.Machine.execUldb sw d a wh abs s
  | .uldh sw d a wh abs => Sys2Proof.Machine.execUldh sw d a wh abs s
  | .uldw sw d a wh abs => Sys2Proof.Machine.execUldw sw d a wh abs s
  | .uldd sw d a wh abs => Sys2Proof.Machine.execUldd sw d a wh abs s
  | .uldq sw d a wh abs => Sys2Proof.Machine.execUldq sw d a wh abs s
  | .ustb sw d a wh abs => Sys2Proof.Machine.execUstb sw d a wh abs s
  | .usth sw d a wh abs => Sys2Proof.Machine.execUsth sw d a wh abs s
  | .ustw sw d a wh abs => Sys2Proof.Machine.execUstw sw d a wh abs s
  | .ustd sw d a wh abs => Sys2Proof.Machine.execUstd sw d a wh abs s
  | .ustq sw d a wh abs => Sys2Proof.Machine.execUstq sw d a wh abs s
  | .uldwAcq sw d a wh sc => Sys2Proof.Machine.execUldwAcq sw d a wh sc s
  | .ulddAcq sw d a wh sc => Sys2Proof.Machine.execUlddAcq sw d a wh sc s
  | .ustwRel sw d a wh sc => Sys2Proof.Machine.execUstwRel sw d a wh sc s
  | .ustdRel sw d a wh sc => Sys2Proof.Machine.execUstdRel sw d a wh sc s
  | .uldcw sw d a wh sc => Sys2Proof.Machine.execUldcw sw d a wh sc s
  | .uldcd sw d a wh sc => Sys2Proof.Machine.execUldcd sw d a wh sc s
  | .uaadd sw d a wh ord sc => Sys2Proof.Machine.execUaadd sw d a wh ord sc s
  | .uamin sw d a wh ord sc => Sys2Proof.Machine.execUamin sw d a wh ord sc s
  | .uamax sw d a wh ord sc => Sys2Proof.Machine.execUamax sw d a wh ord sc s
  | .uaand sw d a wh ord sc => Sys2Proof.Machine.execUaand sw d a wh ord sc s
  | .uaor sw d a wh ord sc => Sys2Proof.Machine.execUaor sw d a wh ord sc s
  | .uaxor sw d a wh ord sc => Sys2Proof.Machine.execUaxor sw d a wh ord sc s
  | .uaxchg sw d a wh ord sc => Sys2Proof.Machine.execUaxchg sw d a wh ord sc s
  | .uacas sw d a wh ord sc => Sys2Proof.Machine.execUacas sw d a wh ord sc s
  | .copy sw b sl dl xf tag => Sys2Proof.Machine.execCopy sw b sl dl xf tag s
  | .gsjob sw b dir iw es dl tag => Sys2Proof.Machine.execGsjob sw b dir iw es dl tag s
  | .rcall sw b narg nret sc => Sys2Proof.Machine.execRcall sw b narg nret sc s
  | .mma sw b f rb za rm => Sys2Proof.Machine.execMma sw b f rb za rm s
  | .mloop sw b za rm => Sys2Proof.Machine.execMloop sw b za rm s
  | .mwait sw => Sys2Proof.Machine.execMwait sw s
  | .mdrain sw b tm sat rm => Sys2Proof.Machine.execMdrain sw b tm sat rm s
  | .mvstack sw b => Sys2Proof.Machine.execMvstack sw b s
  | .quant2 sw b => Sys2Proof.Machine.execQuant2 sw b s
  | .tidset sw v x wd => Sys2Proof.Machine.execTidset sw v x wd s
  | .tidget sw d x wd => Sys2Proof.Machine.execTidget sw d x wd s
  | .immx imm => Sys2Proof.Machine.execImmx imm s
  | .runend post wait => Sys2Proof.Machine.execRunend post wait s
  | .iadd sw d a b => Sys2Proof.Machine.execIadd sw d a b s
  | .isub sw d a b => Sys2Proof.Machine.execIsub sw d a b s
  | .imul sw d a b => Sys2Proof.Machine.execImul sw d a b s
  | .imulh sw d a b => Sys2Proof.Machine.execImulh sw d a b s
  | .imulhu sw d a b => Sys2Proof.Machine.execImulhu sw d a b s
  | .imin sw d a b => Sys2Proof.Machine.execImin sw d a b s
  | .imax sw d a b => Sys2Proof.Machine.execImax sw d a b s
  | .iand sw d a b => Sys2Proof.Machine.execIand sw d a b s
  | .ior sw d a b => Sys2Proof.Machine.execIor sw d a b s
  | .ixor sw d a b => Sys2Proof.Machine.execIxor sw d a b s
  | .ishl sw d a b => Sys2Proof.Machine.execIshl sw d a b s
  | .ishr sw d a b => Sys2Proof.Machine.execIshr sw d a b s
  | .isar sw d a b => Sys2Proof.Machine.execIsar sw d a b s
  | .iceq sw d a b => Sys2Proof.Machine.execIceq sw d a b s
  | .iclt sw d a b => Sys2Proof.Machine.execIclt sw d a b s
  | .icltu sw d a b => Sys2Proof.Machine.execIcltu sw d a b s
  | .isel sw d a b => Sys2Proof.Machine.execIsel sw d a b s
  | .p8add sw d a b => Sys2Proof.Machine.execP8add sw d a b s
  | .p8sub sw d a b => Sys2Proof.Machine.execP8sub sw d a b s
  | .p8max sw d a b => Sys2Proof.Machine.execP8max sw d a b s
  | .p8min sw d a b => Sys2Proof.Machine.execP8min sw d a b s
  | .p16add sw d a b => Sys2Proof.Machine.execP16add sw d a b s
  | .p16sub sw d a b => Sys2Proof.Machine.execP16sub sw d a b s
  | .p16mul sw d a b => Sys2Proof.Machine.execP16mul sw d a b s
  | .fadd sw d a b => Sys2Proof.Machine.execFadd sw d a b s
  | .fsub sw d a b => Sys2Proof.Machine.execFsub sw d a b s
  | .fmul sw d a b => Sys2Proof.Machine.execFmul sw d a b s
  | .ffma sw d a b => Sys2Proof.Machine.execFfma sw d a b s
  | .fmin sw d a b => Sys2Proof.Machine.execFmin sw d a b s
  | .fmax sw d a b => Sys2Proof.Machine.execFmax sw d a b s
  | .fceq sw d a b => Sys2Proof.Machine.execFceq sw d a b s
  | .fclt sw d a b => Sys2Proof.Machine.execFclt sw d a b s
  | .fcle sw d a b => Sys2Proof.Machine.execFcle sw d a b s
  | .hadd2 sw d a b => Sys2Proof.Machine.execHadd2 sw d a b s
  | .hfma2 sw d a b => Sys2Proof.Machine.execHfma2 sw d a b s
  | .badd2 sw d a b => Sys2Proof.Machine.execBadd2 sw d a b s
  | .bfma2 sw d a b => Sys2Proof.Machine.execBfma2 sw d a b s
  | .iaddImm sw d a imm => Sys2Proof.Machine.execIaddImm sw d a imm s
  | .iandImm sw d a imm => Sys2Proof.Machine.execIandImm sw d a imm s
  | .iorImm sw d a imm => Sys2Proof.Machine.execIorImm sw d a imm s
  | .ishlImm sw d a n => Sys2Proof.Machine.execIshlImm sw d a n s
  | .ishrImm sw d a n => Sys2Proof.Machine.execIshrImm sw d a n s
  | .isarImm sw d a n => Sys2Proof.Machine.execIsarImm sw d a n s
  | .p8shl sw d a n => Sys2Proof.Machine.execP8shl sw d a n s
  | .p8shr sw d a n => Sys2Proof.Machine.execP8shr sw d a n s
  | .p8sar sw d a n => Sys2Proof.Machine.execP8sar sw d a n s
  | .p16shl sw d a n => Sys2Proof.Machine.execP16shl sw d a n s
  | .p16shr sw d a n => Sys2Proof.Machine.execP16shr sw d a n s
  | .p16sar sw d a n => Sys2Proof.Machine.execP16sar sw d a n s
  | .exp2 sw d a => Sys2Proof.Machine.execExp2 sw d a s
  | .log2 sw d a => Sys2Proof.Machine.execLog2 sw d a s
  | .rcp sw d a => Sys2Proof.Machine.execRcp sw d a s
  | .rsqrt sw d a => Sys2Proof.Machine.execRsqrt sw d a s
  | .sin sw d a => Sys2Proof.Machine.execSin sw d a s
  | .cos sw d a => Sys2Proof.Machine.execCos sw d a s
  | .cvt sw d a rm tgt src => Sys2Proof.Machine.execCvt sw d a rm tgt src s
  | .cvts sw d a rm tgt src => Sys2Proof.Machine.execCvts sw d a rm tgt src s
  | .vrd sw d k => Sys2Proof.Machine.execVrd sw d k s
  | .vwr sw a k => Sys2Proof.Machine.execVwr sw a k s
  | .lpush sw d a x mk => Sys2Proof.Machine.execLpush sw d a x mk s
  | .lpull sw d a b => Sys2Proof.Machine.execLpull sw d a b s
  | .imovi sw d imm => Sys2Proof.Machine.execImovi sw d imm s
  | .bvz sw d off => Sys2Proof.Machine.execBvz sw d off s
  | .bvnz sw d off => Sys2Proof.Machine.execBvnz sw d off s
  | .ldb sw d a wh abs => Sys2Proof.Machine.execLdb sw d a wh abs s
  | .ldh sw d a wh abs => Sys2Proof.Machine.execLdh sw d a wh abs s
  | .ldw sw d a wh abs => Sys2Proof.Machine.execLdw sw d a wh abs s
  | .ldd sw d a wh abs => Sys2Proof.Machine.execLdd sw d a wh abs s
  | .ldq sw d a wh abs => Sys2Proof.Machine.execLdq sw d a wh abs s
  | .stb sw d a wh abs => Sys2Proof.Machine.execStb sw d a wh abs s
  | .sth sw d a wh abs => Sys2Proof.Machine.execSth sw d a wh abs s
  | .stw sw d a wh abs => Sys2Proof.Machine.execStw sw d a wh abs s
  | .std sw d a wh abs => Sys2Proof.Machine.execStd sw d a wh abs s
  | .stq sw d a wh abs => Sys2Proof.Machine.execStq sw d a wh abs s
  | .ldwAcq sw d a wh sc => Sys2Proof.Machine.execLdwAcq sw d a wh sc s
  | .lddAcq sw d a wh sc => Sys2Proof.Machine.execLddAcq sw d a wh sc s
  | .stwRel sw d a wh sc => Sys2Proof.Machine.execStwRel sw d a wh sc s
  | .stdRel sw d a wh sc => Sys2Proof.Machine.execStdRel sw d a wh sc s
  | .ldcw sw d a wh sc => Sys2Proof.Machine.execLdcw sw d a wh sc s
  | .ldcd sw d a wh sc => Sys2Proof.Machine.execLdcd sw d a wh sc s
  | .aadd sw d a wh ord sc => Sys2Proof.Machine.execAadd sw d a wh ord sc s
  | .amin sw d a wh ord sc => Sys2Proof.Machine.execAmin sw d a wh ord sc s
  | .amax sw d a wh ord sc => Sys2Proof.Machine.execAmax sw d a wh ord sc s
  | .aand sw d a wh ord sc => Sys2Proof.Machine.execAand sw d a wh ord sc s
  | .aor sw d a wh ord sc => Sys2Proof.Machine.execAor sw d a wh ord sc s
  | .axor sw d a wh ord sc => Sys2Proof.Machine.execAxor sw d a wh ord sc s
  | .axchg sw d a wh ord sc => Sys2Proof.Machine.execAxchg sw d a wh ord sc s
  | .acas sw d a wh ord sc => Sys2Proof.Machine.execAcas sw d a wh ord sc s
  | .pshift sw d a sk dir fl n => Sys2Proof.Machine.execPshift sw d a sk dir fl n s
  | .prot sw d a dir n => Sys2Proof.Machine.execProt sw d a dir n s
  | .pspread sw d a axis r => Sys2Proof.Machine.execPspread sw d a axis r s
  | .pfold sw d a op dir => Sys2Proof.Machine.execPfold sw d a op dir s
  | .prefold sw d a => Sys2Proof.Machine.execPrefold sw d a s
  | .padd sw d a b => Sys2Proof.Machine.execPadd sw d a b s
  | .psub sw d a b => Sys2Proof.Machine.execPsub sw d a b s
  | .pmul sw d a b => Sys2Proof.Machine.execPmul sw d a b s
  | .pmax sw d a b => Sys2Proof.Machine.execPmax sw d a b s
  | .pmin sw d a b => Sys2Proof.Machine.execPmin sw d a b s
  | .pdset sw d x => Sys2Proof.Machine.execPdset sw d x s
  | .pdget sw a x => Sys2Proof.Machine.execPdget sw a x s
  | .envclr sw d r given => Sys2Proof.Machine.execEnvclr sw d r given s
  | .envins sw d a => Sys2Proof.Machine.execEnvins sw d a s
  | .envsum sw a d b => Sys2Proof.Machine.execEnvsum sw a d b s
  | .envmax sw a d b => Sys2Proof.Machine.execEnvmax sw a d b s
  | .envconv sw a d b => Sys2Proof.Machine.execEnvconv sw a d b s
  | .envleg sw a d => Sys2Proof.Machine.execEnvleg sw a d s
  | .enveval sw d x a => Sys2Proof.Machine.execEnveval sw d x a s
  | .envld sw wh d r => Sys2Proof.Machine.execEnvld sw wh d r s
  | .envst sw wh d r => Sys2Proof.Machine.execEnvst sw wh d r s
  | .envsimp sw a d => Sys2Proof.Machine.execEnvsimp sw a d s
  | .smxacc sw p a nm1 => Sys2Proof.Machine.execSmxacc sw p a nm1 s
  | .smxfin sw d p => Sys2Proof.Machine.execSmxfin sw d p s
  | .aend => Sys2Proof.Machine.execAend s
  | .jmovi d v => Sys2Proof.Machine.execJmovi d v s
  | .jaddi d a v => Sys2Proof.Machine.execJaddi d a v s
  | .jadd d a b => Sys2Proof.Machine.execJadd d a b s
  | .jloop d o => Sys2Proof.Machine.execJloop d o s
  | .drayOpen r => Sys2Proof.Machine.execDrayOpen r s
  | .drayRead r c n => Sys2Proof.Machine.execDrayRead r c n s
  | .drayWback k r c f => Sys2Proof.Machine.execDrayWback k r c f s
  | .drayClose r => Sys2Proof.Machine.execDrayClose r s
  | .xend => Sys2Proof.Machine.execXend s
  | .xpop d f => Sys2Proof.Machine.execXpop d f s
  | .xadd d a b f => Sys2Proof.Machine.execXadd d a b f s
  | .xmul d a b f => Sys2Proof.Machine.execXmul d a b f s
  | .xfma d a b f => Sys2Proof.Machine.execXfma d a b f s
  | .xmax d a b f => Sys2Proof.Machine.execXmax d a b f s
  | .xmin d a b f => Sys2Proof.Machine.execXmin d a b f s
  | .xset k a => Sys2Proof.Machine.execXset k a s
  | .xacc k a => Sys2Proof.Machine.execXacc k a s
  | .xrel k => Sys2Proof.Machine.execXrel k s
  | .xcmovi d v => Sys2Proof.Machine.execXcmovi d v s
  | .xloop d o => Sys2Proof.Machine.execXloop d o s
  | .celudDecl d ty => Sys2Proof.Machine.execCeludDecl d ty s
  | .celudTid d => Sys2Proof.Machine.execCeludTid d s
  | .celudNthr d => Sys2Proof.Machine.execCeludNthr d s
  | .celudMov lit d a => Sys2Proof.Machine.execCeludMov lit d a s
  | .celudAdd lit d a b => Sys2Proof.Machine.execCeludAdd lit d a b s
  | .celudSub lit d a b => Sys2Proof.Machine.execCeludSub lit d a b s
  | .celudMul lit d a b => Sys2Proof.Machine.execCeludMul lit d a b s
  | .celudMulh lit d a b => Sys2Proof.Machine.execCeludMulh lit d a b s
  | .celudMin lit d a b => Sys2Proof.Machine.execCeludMin lit d a b s
  | .celudMax lit d a b => Sys2Proof.Machine.execCeludMax lit d a b s
  | .celudAnd lit d a b => Sys2Proof.Machine.execCeludAnd lit d a b s
  | .celudOr lit d a b => Sys2Proof.Machine.execCeludOr lit d a b s
  | .celudXor lit d a b => Sys2Proof.Machine.execCeludXor lit d a b s
  | .celudShl lit d a b => Sys2Proof.Machine.execCeludShl lit d a b s
  | .celudShr lit d a b => Sys2Proof.Machine.execCeludShr lit d a b s
  | .celudSar lit d a b => Sys2Proof.Machine.execCeludSar lit d a b s
  | .celudCeq lit d a b => Sys2Proof.Machine.execCeludCeq lit d a b s
  | .celudClt lit d a b => Sys2Proof.Machine.execCeludClt lit d a b s
  | .celudCltu lit d a b => Sys2Proof.Machine.execCeludCltu lit d a b s
  | .celudSel lit d a b c => Sys2Proof.Machine.execCeludSel lit d a b c s
  | .celudAdd64 lit d a b => Sys2Proof.Machine.execCeludAdd64 lit d a b s
  | .celudFadd lit d a b => Sys2Proof.Machine.execCeludFadd lit d a b s
  | .celudFsub lit d a b => Sys2Proof.Machine.execCeludFsub lit d a b s
  | .celudFmul lit d a b => Sys2Proof.Machine.execCeludFmul lit d a b s
  | .celudFfma lit d a b => Sys2Proof.Machine.execCeludFfma lit d a b s
  | .celudFmin lit d a b => Sys2Proof.Machine.execCeludFmin lit d a b s
  | .celudFmax lit d a b => Sys2Proof.Machine.execCeludFmax lit d a b s
  | .celudFceq lit d a b => Sys2Proof.Machine.execCeludFceq lit d a b s
  | .celudFclt lit d a b => Sys2Proof.Machine.execCeludFclt lit d a b s
  | .celudFcle lit d a b => Sys2Proof.Machine.execCeludFcle lit d a b s
  | .celudSfn lit d a fn => Sys2Proof.Machine.execCeludSfn lit d a fn s
  | .celudCvt lit d a i8 sat => Sys2Proof.Machine.execCeludCvt lit d a i8 sat s
  | .celudHadd2 lit d a b => Sys2Proof.Machine.execCeludHadd2 lit d a b s
  | .celudHfma2 lit d a b => Sys2Proof.Machine.execCeludHfma2 lit d a b s
  | .celudBadd2 lit d a b => Sys2Proof.Machine.execCeludBadd2 lit d a b s
  | .celudBfma2 lit d a b => Sys2Proof.Machine.execCeludBfma2 lit d a b s
  | .celudDot2 lit d a b => Sys2Proof.Machine.execCeludDot2 lit d a b s
  | .celudLd sc ord rev lit d a space size hint => Sys2Proof.Machine.execCeludLd sc ord rev lit d a space size hint s
  | .celudSt sc ord rev lit a b space size hint => Sys2Proof.Machine.execCeludSt sc ord rev lit a b space size hint s
  | .celudLdc sc rev lit d a space size hint => Sys2Proof.Machine.execCeludLdc sc rev lit d a space size hint s
  | .celudAtom sc ord rev lit d a b space hint op => Sys2Proof.Machine.execCeludAtom sc ord rev lit d a b space hint op s
  | .celudFence sc kind => Sys2Proof.Machine.execCeludFence sc kind s
  | .celudBar => Sys2Proof.Machine.execCeludBar s
  | .celudJmp target => Sys2Proof.Machine.execCeludJmp target s
  | .celudBrz a target => Sys2Proof.Machine.execCeludBrz a target s
  | .celudBrnz a target => Sys2Proof.Machine.execCeludBrnz a target s
  | .celudEnd => Sys2Proof.Machine.execCeludEnd s
  | .issueDecision half => Sys2Proof.Machine.execIssueDecision half s
  | .coachOverdue team coach => Sys2Proof.Machine.execCoachOverdue team coach s
  | .subgroupOverdue team coach sub => Sys2Proof.Machine.execSubgroupOverdue team coach sub s
  | .longResultReturn ctx ix => Sys2Proof.Machine.execLongResultReturn ctx ix s
  | .memberLanesEnd ctx sub => Sys2Proof.Machine.execMemberLanesEnd ctx sub s
  | .handlerEntry team coach => Sys2Proof.Machine.execHandlerEntry team coach s
  | .overrun node => Sys2Proof.Machine.execOverrun node s
  | .copyCompletion req => Sys2Proof.Machine.execCopyCompletion req s
  | .gsjobCompletion req => Sys2Proof.Machine.execGsjobCompletion req s
  | .drayRequestCompletion req chan => Sys2Proof.Machine.execDrayRequestCompletion req chan s
  | .mvstackCompletion req => Sys2Proof.Machine.execMvstackCompletion req s
  | .matrixJobCompletion core => Sys2Proof.Machine.execMatrixJobCompletion core s
  | .matrixRendezvous team rdv => Sys2Proof.Machine.execMatrixRendezvous team rdv s
  | .remoteFunctionStart ex => Sys2Proof.Machine.execRemoteFunctionStart ex s
  | .reply call => Sys2Proof.Machine.execReply call s
  | .callLost call => Sys2Proof.Machine.execCallLost call s
  | .probeAnswer call => Sys2Proof.Machine.execProbeAnswer call s
  | .swapRequest oid va pa => Sys2Proof.Machine.execSwapRequest oid va pa s
  | .swapBegin swap => Sys2Proof.Machine.execSwapBegin swap s
  | .qtailWrite q v => Sys2Proof.Machine.execQtailWrite q v s
  | .queueEnable q v => Sys2Proof.Machine.execQueueEnable q v s
  | .queueDisable q v => Sys2Proof.Machine.execQueueDisable q v s
  | .qcfgErrClear q v => Sys2Proof.Machine.execQcfgErrClear q v s
  | .registerWrite link off size v => Sys2Proof.Machine.execRegisterWrite link off size v s
  | .recordFetch x => Sys2Proof.Machine.execRecordFetch x s
  | .dzitumTranslation node code keep => Sys2Proof.Machine.execDzitumTranslation node code keep s
  | .nodeAdmission node => Sys2Proof.Machine.execNodeAdmission node s
  | .teamLaunch node cores areas => Sys2Proof.Machine.execTeamLaunch node cores areas s
  | .nodeCompletion node => Sys2Proof.Machine.execNodeCompletion node s
  | .sliceExpiry team => Sys2Proof.Machine.execSliceExpiry team s
  | .teamResume team core => Sys2Proof.Machine.execTeamResume team core s
  | .stopOrder team => Sys2Proof.Machine.execStopOrder team s
  | .engineAcknowledgement team engine => Sys2Proof.Machine.execEngineAcknowledgement team engine s
  | .eviction team => Sys2Proof.Machine.execEviction team s
  | .queueSwitchOut q => Sys2Proof.Machine.execQueueSwitchOut q s
  | .queueResume q => Sys2Proof.Machine.execQueueResume q s
  | .openCommand chan => Sys2Proof.Machine.execOpenCommand chan s
  | .readCommand chan => Sys2Proof.Machine.execReadCommand chan s
  | .wbackCommand chan => Sys2Proof.Machine.execWbackCommand chan s
  | .closeCommand chan => Sys2Proof.Machine.execCloseCommand chan s
  | .arbitrationWindow chan => Sys2Proof.Machine.execArbitrationWindow chan s
  | .windowExpiry chan => Sys2Proof.Machine.execWindowExpiry chan s
  | .drayKernelEnd chan => Sys2Proof.Machine.execDrayKernelEnd chan s
  | .reductionPacket oid pa fmt op elems => Sys2Proof.Machine.execReductionPacket oid pa fmt op elems s
  | .clockRatioChange stack num den => Sys2Proof.Machine.execClockRatioChange stack num den s
  | .shoot oid vpn => Sys2Proof.Machine.execShoot oid vpn s
  | .reptok oid token => Sys2Proof.Machine.execReptok oid token s
  | .pwrcapWrite watts caps => Sys2Proof.Machine.execPwrcapWrite watts caps s
  | .apctlErrClear => Sys2Proof.Machine.execApctlErrClear s
  | .apertureAccess store off size v => Sys2Proof.Machine.execApertureAccess store off size v s
  | .fabricRequest req => Sys2Proof.Machine.execFabricRequest req s
  | .ucieRetrain m trained => Sys2Proof.Machine.execUcieRetrain m trained s
  | .laneRetrain lane => Sys2Proof.Machine.execLaneRetrain lane s
  | .softError region corrected node => Sys2Proof.Machine.execSoftError region corrected node s
  | .powerOn => Sys2Proof.Machine.execPowerOn s
  | .attest => Sys2Proof.Machine.execAttest s
  | .getek => Sys2Proof.Machine.execGetek s
  | .loadkey => Sys2Proof.Machine.execLoadkey s
  | .withdraw => Sys2Proof.Machine.execWithdraw s
  | .trip => Sys2Proof.Machine.execTrip s
  | .lifetimeLogWrite => Sys2Proof.Machine.execLifetimeLogWrite s
  | .heldTranslationRelease swap => Sys2Proof.Machine.execHeldTranslationRelease swap s
  | .granuleAssignment granule oid => Sys2Proof.Machine.execGranuleAssignment granule oid s
  | .translationRootWrite oid pa => Sys2Proof.Machine.execTranslationRootWrite oid pa s
  | .queueOidPmaxSet q oid pmax => Sys2Proof.Machine.execQueueOidPmaxSet q oid pmax s
  | .fabricRelayRequest r => Sys2Proof.Machine.execFabricRelayRequest r s
  | .handlerImageLoad oid vbase len pool => Sys2Proof.Machine.execHandlerImageLoad oid vbase len pool s
  | .powerLoss => Sys2Proof.Machine.execPowerLoss s
  | .droopEvent mv => Sys2Proof.Machine.execDroopEvent mv s

end Sys2Proof.Machine
end

