-- ==== Sys2Proof/Machine/Run.lean ====
section
/-!
DEFINITION. What one step runs: the next word of a run, of a remote function, of a Celud thread or of a dray thread, or an
event; and the passing of time (spec/01_execution.md R30, R31; spec/13_encoding.md R166, R175, R182).
-/

namespace Sys2Proof.Machine

/-! ### Time -/

/-- Calendar slots in one second: a slot is 64 ns (R295). -/
def slotsPerSecond : Nat := 15625000

/-- One second under the temperature that the sensors show: its residency counter goes up (R392, R402). -/
def State.second (s : State) (t : Nat) : State := if t / 2 < 64 then s.count (0x100 + t / 2) else s

/-- A batch is late by a function that has run longer than its reservation, or runs that long now (R304, R349). -/
def State.batchLate (s : State) (id : Nat) (n : Node) : Bool :=
  n.late || s.calls.any fun p => (match p.2.batch with | some (node, _) => decide (node = id) | none => false)
    && p.2.started && p.2.ranLong n.dur s.slot

/-- The deadline of a node bounds the passing of time (R50, R304): until its status word is written, or until OVERRUN stops a
grid-core or dray node. Not after an eviction or an OVERRUN, nor for functions of a batch that run longer than their
reservations, nor for a delay by a hardware fault. -/
def State.nodeTimed (s : State) (id : Nat) (n : Node) : Bool :=
  n.admitted.isSome && n.bounded && match n.eng with
    | 0 | 1 => match n.stop with
      | none => !n.excused || (s.nodeDone id n).isNone
      | some code => code ≠ 4 && code ≠ 6 && !n.excused
    | 2 => !n.excused
    | _ => !n.excused && !s.batchLate id n

/-- The slots that time does not pass before what they bound has happened (R304, R306): the bounds of nodes and requests, the
deadlines of calls, at which OVERRUN and CALL_LOST happen, and 1,024 slots after a stop order. -/
def State.timeLimits (s : State) : List Nat :=
  (s.nodes.filterMap fun p => if s.nodeTimed p.1 p.2 then some p.2.deadline else none)
    ++ (s.requests.filterMap fun p => if p.2.bounded && !p.2.excused then some p.2.deadline else none)
    ++ (s.calls.filterMap fun p => if s.callWaits p.1 p.2 then some p.2.deadline else none)
    ++ s.teams.filterMap fun p => match p.2.state with | .stopping .. => some (p.2.ordered + 1024) | _ => none

/-- The slot at which time stands after this step's passing, which ends at the first limit (log entry 39). -/
def State.nextSlot (s : State) : Nat :=
  s.timeLimits.foldl (fun m d => min m (max s.slot d)) (s.slot + Config.elapsed s.tick)

/-- What happens of itself at the slot that has been reached: OVERRUN and CALL_LOST (R50, R267). -/
def State.dueNow (s : State) : List Move :=
  (s.nodes.filterMap fun p => if s.expired p.1 p.2 then some (.overrun p.1) else none)
    ++ s.calls.filterMap fun p =>
      if s.callWaits p.1 p.2 && decide (p.2.deadline ≤ s.slot) then some (.callLost p.1) else none

/-- The sensors, read one after another, have come to 105 degrees (R404). -/
def trips : Nat → List Nat → Bool
  | _, [] => false
  | a, b :: rest => (decide (a < 105) && decide (105 ≤ b)) || trips b rest

/-- Calendar slots pass while no move is due (log entry 2), and what they bring becomes due. The temperature of each second is
open; one that comes to 105 degrees trips the part (R404), and with each second the lifetime counters are written (R402). -/
def State.passTime (s : State) : State :=
  if s.mode = .running || s.mode = .recovery then
    let now := if s.mode = .running then s.nextSlot else s.slot + Config.elapsed s.tick
    let n := now / slotsPerSecond - s.slot / slotsPerSecond
    let temps := ((List.range n).map fun i => Config.choose s.tick (1000 + i) % 256) ++ [Config.choose s.tick 999 % 256]
    let hot := trips s.mgmt.tjmax temps
    let s := (temps.take n).foldl State.second s
    let s := { s with slot := now, mgmt := { s.mgmt with tjmax := temps.getLastD 0 } }
    let head : List Move := (if hot then [.event .trip] else []) ++ if n = 0 then [] else [.event .lifetimeLogWrite]
    { s with due := head ++ if s.mode = .running then s.dueNow else [] }
  else s

/-! ### Words of a run -/

/-- The word at the issuer's offset is fetched and runs; a word that no row of the table describes traps ILLEGAL (R174,
R182), and where a run-closing instruction has issued, any word but a trailer makes that instruction trap ILLEGAL (R175). -/
def State.issueWord (s : State) : Host.Outcome State Fault Refusal :=
  match s.here with
  | none => .next s
  | some h =>
    match s.fetch h h.g.pc with
    | .error (.hold chans) => .next (s.markWaiting chans)
    | .error (.trap t) => .next (s.stopWith h.rewind (h.fetchStopped t))
    | .ok w =>
      if h.run.closer ≠ .none && !isTrailer w then .next (s.closerTrap h { cause := .illegal })
      else
      let s := s.put (h.setRun { h.run with word := w })
      match decode w with
      | some i => exec i s
      | none => native false true s fun _ _ => .error illegal

/-- A team whose coaches may issue words: it is not saved (R306, R307). -/
def Team.issues (t : Team) : Bool := match t.state with | .saved _ => false | _ => true

/-- The next word of the run that a half is in the middle of (R31). -/
def State.runHalf (s : State) (half : Nat) : Host.Outcome State Fault Refusal :=
  match (Cells.get {} s.halves half).inRun with
  | none => .next s
  | some (team, ci, sub) =>
    match Cells.find s.teams team with
    | none => .next s
    | some t => if t.issues then { s with cur := .coach team ci, curSub := sub }.issueWord else .next s

/-- The next word of the function that an executor runs; its parks end as those of a coach, and each run has its number
(R175, R264). -/
def State.runRemote (s : State) (ex : Nat) : Host.Outcome State Fault Refusal :=
  let s := { s.settle (.remote ex) [0] with cur := .remote ex, curSub := 0 }
  match s.here with
  | none => .next s
  | some h => if h.g.ready then (s.modCtx (.remote ex) fun c => c.startRun h.g).issueWord else .next s

/-- The word of a Celud thread, if it is the instruction `i` (R378, R381; log entry 30). -/
def State.runThread (s : State) (team n : Nat) (i : Instr) : Host.Outcome State Fault Refusal :=
  let s := { s with cur := .thread team n }
  match s.celudHere with
  | none => .next s
  | some h =>
    match h.p.words[h.th.pc]? with
    | none => .next s
    | some w => if isCelud i w (h.p.words.getD (h.th.pc + 1) 0) then exec i s else .next s

/-- The next word of a thread of a dray kernel; a word that R333 does not describe faults the thread (R335). -/
def State.runDray (s : State) (chan : Nat) (addr : Bool) : Host.Outcome State Fault Refusal :=
  let s := { s with cur := if addr then .drayA chan else .drayX chan }
  match Cells.find s.drays chan with
  | none => .next s
  | some d =>
    match d.word addr with
    | none => .next s
    | some none => .next (s.drayPassed chan addr)
    | some (some w) =>
      match decodeDray w with
      | some i => if fld w.toNat 31 1 = bit (!addr) then exec i s else .next (s.drayPassed chan addr)
      | none => .next (s.drayPassed chan addr)

/-- An instruction that no word encodes: an event of the device. -/
def Instr.isEvent (i : Instr) : Bool :=
  (encodeFields i).isNone && (encodeDray i).isNone && (encodeCelud i).isNone

/-- One move. Words run only while the part runs; a move that the state does not allow changes nothing (log entry 11). -/
def State.runMove (s : State) (m : Move) : Host.Outcome State Fault Refusal :=
  let s := { s with now := some m }
  match m with
  | .event i => if Instr.isEvent i then exec i s else .next s
  | .word half => whenRunning s (s.runHalf half)
  | .remote ex => whenRunning s (s.runRemote ex)
  | .thread team n i => whenRunning s (s.runThread team n i)
  | .drayA chan => whenRunning s (s.runDray chan true)
  | .drayX chan => whenRunning s (s.runDray chan false)
  | .overrun node => Sys2Proof.Machine.execOverrun node s
  | .callLost call => Sys2Proof.Machine.execCallLost call s
  | .entry team coach => Sys2Proof.Machine.execHandlerEntry team coach s
  | .serve => whenRunning s (.next s.serveFree)

/-! ### Placing an instruction at the point of fetch (log entry 3) -/

/-- A leaf that maps the first GiB of GLOBAL onto the first GiB of storage with every permission (R85). -/
def placedLeaf : Nat := pack [(1, 1), (1, 1), (1, 1), (2, 2), (1, 1), (1, 1)]

/-- Storage with a translation table of one leaf for owner 1 at its root 0x20000. -/
def State.placeTables (s : State) : State :=
  (({ s with roots := Cells.put s.roots 1 0x20000 }).writeLocs 1 (.sto 0x20000) (leBytes 8 0x40001)).writeLocs 1
    (.sto 0x40000) (leBytes 8 placedLeaf)

/-- A team of one coach with full grants, in the middle of a run at offset 0 of a code section of two words, which may
execute what has been written. -/
def placedTeam (known : Known) : Team :=
  { oid := 1, code := 0x1000, codeLen := 8, grants := { ocsz := 0, spsz := 256, lssz := 32, cgsz := 0, tagn := 64 },
    coaches := [{ allot := 256, runNo := 1, nextId := 1, acq := known, ic := known,
                  subs := [{ id := 0, pc := 0, mem := 0xFFFFFFFF, exec := 0xFFFFFFFF, run := some { no := 1, words := 1 } }] }] }

/-- A native word `w` in the middle of a run of half 0, followed by a trailer. -/
def State.placeNative (s : State) (w : Nat) : State :=
  let s := s.placeTables.writeLocs 1 (.sto 0x1000) (leBytes 4 w ++ leBytes 4 0xBF000000)
  { s with mode := .running, teams := Cells.put s.teams 0 (placedTeam s.written),
           halves := Cells.put s.halves 0 { inRun := some (0, 0, 0), last := some (0, 0) }, due := [.word 0] }

/-- A dray word `w` as the first word of its thread on channel 0. -/
def State.placeDray (s : State) (w : Nat) : State :=
  let word : List Word := [BitVec.ofNat 32 w]
  let x := fld w 31 1 = 1
  let d : Dray := { node := 0, oid := 1, rows := [0], progA := if x then [] else word, progX := if x then word else [],
                    endA := x, endX := !x }
  { s with mode := .running, drays := Cells.put s.drays 0 d, due := [if x then .drayX 0 else .drayA 0] }

end Sys2Proof.Machine
end

