-- ==== Sys2Proof/Machine/Step.lean ====
section
/-!
DEFINITION. One step of the machine: the move that is due, or, with none due, the passing of time and the move that it brings
or that is offered (spec/00_scope.md R5; log entry 2).
-/

namespace Sys2Proof.Machine

/-- One step. -/
def step (s : State) : Host.Outcome State Fault Refusal :=
  let s := { s with tick := s.tick + 1 }
  match s.due with
  | m :: rest => { s with due := rest }.runMove m
  | [] =>
    let s := s.passTime
    match s.due with
    | m :: rest => { s with due := rest }.runMove m
    | [] => s.runMove (Config.offer s.tick)

/-- The state with the instruction of value `w` placed where the very next step fetches it: as a word of a coach's run, or,
where only a dray decodes it, as the first word of a dray thread (log entry 3). -/
def State.withFetchWord (s : State) (nbits w : Nat) : State :=
  let v := w % 2 ^ nbits % 2 ^ 32
  if (decode (BitVec.ofNat 32 v)).isNone && (decodeDray (BitVec.ofNat 32 v)).isSome then s.placeDray v
  else s.placeNative v

end Sys2Proof.Machine
end

