-- ==== Sys2Proof/Safety.lean ====
section
/-!
DEFINITION. What counts as a safe run: every step answers a next state, and storage keeps its canonical form.
-/

namespace Sys2Proof.Machine

/-- The step of a state answers a next state: the machine neither faults nor refuses. -/
def State.proceeds (s : State) : Prop := ∃ s', step s = .next s'

/-- The invariant of the storage of the machine. -/
def State.Inv (s : State) : Prop := Memory.wf s

end Sys2Proof.Machine
end

