-- ==== Sys2Proof/Certificates/Slice0/Obligations.lean ====
section
/-!
DEFINITION. The statements for the provers, and the words they are written in.
A statement of a result says that the instruction ANSWERS a next state and which one. `after s h' sw` is the state in which
the issuing sub-group has become `h'` and stands at the next word.
-/

namespace Sys2Proof.Claims

open Sys2Proof.Machine

/-! ### Words of the statements about native instructions -/

/-- `h` issues the instruction: the state names it, a remote function only where R264 lists the instruction, and the run
has room for the word (R175). -/
def Issues (remoteOk : Bool) (s : State) (h : Here) : Prop :=
  s.here = some h ∧ (h.remote.isSome = true → remoteOk = true) ∧ h.run.words < 24

/-- The state after an instruction that left its issuer as `h'`. -/
def after (s : State) (h' : Here) (sw : Bool) : State := s.put (h'.retire sw)

/-- V register `n` belongs to the allotment and no matrix job holds it on the scoreboard (R170, R181). -/
def VFree (h : Here) (n : Nat) : Prop := n < h.c.allot ∧ h.c.boarded n = false

/-- `n` V registers from `base`. -/
def VsFree (h : Here) (base n : Nat) : Prop := ∀ i, i < n → VFree h (base + i)

/-- A field of 8 bits that may be read, or written by a uniform instruction: an S or T register, or a free V register. -/
def Usable (h : Here) (f : BitVec 8) : Prop := f.toNat < 192 → VFree h f.toNat

/-- An even register and its successor, both usable (R170, R188). -/
def UsablePair (h : Here) (f : BitVec 8) : Prop := f.toNat % 2 = 0 ∧ (f.toNat < 192 → VsFree h f.toNat 2)

/-- A lane destination: a free V register or a T register (R170, R221). -/
def LaneDest (h : Here) (f : BitVec 8) : Prop := (f.toNat < 192 ∧ VFree h f.toNat) ∨ 248 ≤ f.toNat

/-- A block of `n` registers that a uniform instruction may use (R170). -/
def UniBlock (h : Here) (f : BitVec 8) (n : Nat) : Prop :=
  f.toNat % n = 0 ∧ (f.toNat < 192 → f.toNat + n ≤ 192 ∧ VsFree h f.toNat n)

/-- A block of `n` lane registers as sources or as destinations (R170). -/
def LaneBlock (h : Here) (f : BitVec 8) (n : Nat) (dst : Bool) : Prop :=
  f.toNat % n = 0
    ∧ ((f.toNat < 192 ∧ f.toNat + n ≤ 192 ∧ VsFree h f.toNat n)
      ∨ (192 ≤ f.toNat ∧ f.toNat < 248 ∧ dst = false ∧ f.toNat + n ≤ 248) ∨ 248 ≤ f.toNat)

/-! ### Uniform arithmetic -/

/-- Uniform instructions with two sources: SW, D, A, B and the result (R192 to R195). -/
def uniformBinary : Instr → Option (Bool × BitVec 8 × BitVec 8 × BitVec 8 × (Word → Word → Word))
  | .uadd sw d a b => some (sw, d, a, b, fun x y => x + y)
  | .usub sw d a b => some (sw, d, a, b, fun x y => x - y)
  | .umul sw d a b => some (sw, d, a, b, fun x y => x * y)
  | .umulh sw d a b => some (sw, d, a, b, fun x y => BitVec.ofInt 32 (x.toInt * y.toInt / 2 ^ 32))
  | .umulhu sw d a b => some (sw, d, a, b, fun x y => BitVec.ofNat 32 (x.toNat * y.toNat / 2 ^ 32))
  | .udiv sw d a b => some (sw, d, a, b, fun x y =>
      if y = 0 then BitVec.ofInt 32 (-1) else BitVec.ofInt 32 (x.toInt.tdiv y.toInt))
  | .urem sw d a b => some (sw, d, a, b, fun x y => if y = 0 then x else BitVec.ofInt 32 (x.toInt.tmod y.toInt))
  | .uand sw d a b => some (sw, d, a, b, fun x y => x &&& y)
  | .uor sw d a b => some (sw, d, a, b, fun x y => x ||| y)
  | .uxor sw d a b => some (sw, d, a, b, fun x y => x ^^^ y)
  | .ushl sw d a b => some (sw, d, a, b, fun x y => x <<< (y.toNat % 256))
  | .ushr sw d a b => some (sw, d, a, b, fun x y => x >>> (y.toNat % 256))
  | .usar sw d a b => some (sw, d, a, b, fun x y => x.sshiftRight (y.toNat % 256))
  | .umin sw d a b => some (sw, d, a, b, fun x y => if x.toInt ≤ y.toInt then x else y)
  | .umax sw d a b => some (sw, d, a, b, fun x y => if x.toInt ≤ y.toInt then y else x)
  | .uceq sw d a b => some (sw, d, a, b, fun x y => if x = y then 1 else 0)
  | .uclt sw d a b => some (sw, d, a, b, fun x y => if x.toInt < y.toInt then 1 else 0)
  | .ucltu sw d a b => some (sw, d, a, b, fun x y => if x.toNat < y.toNat then 1 else 0)
  | _ => none

/-- Uniform instructions with an immediate: SW, D, A and the result (R196, R197); an IMMX before the word supplies the
upper 24 bits of the immediate. -/
def uniformImmediate : Instr → Option (Bool × BitVec 8 × BitVec 8 × (Here → Word → Word))
  | .uaddImm sw d a i => some (sw, d, a, fun h x => x + h.imm8 true i)
  | .uandImm sw d a i => some (sw, d, a, fun h x => x &&& h.imm8 true i)
  | .uorImm sw d a i => some (sw, d, a, fun h x => x ||| h.imm8 false i)
  | .ushlImm sw d a n => some (sw, d, a, fun _ x => x <<< n.toNat)
  | .ushrImm sw d a n => some (sw, d, a, fun _ x => x >>> n.toNat)
  | .usarImm sw d a n => some (sw, d, a, fun _ x => x.sshiftRight n.toNat)
  | _ => none

end Sys2Proof.Claims

open Sys2Proof Sys2Proof.Machine Sys2Proof.Claims

/-- R192 to R199: UADD, USUB, UMUL, UMULH, UMULHU, UDIV, UREM, UAND, UOR, UXOR, USHL, USHR, USAR, UMIN, UMAX, UCEQ, UCLT and
UCLTU, the immediate forms UADD, UAND, UOR, USHL, USHR and USAR, UMOVI, USEL (which chooses by the old value of D), UADDP and
UADDPI write their result, with the taints of their sources, and change nothing else of the issuer but its place in the run. -/
def Obligations.UniformArithmeticResults : Prop :=
  (∀ i s h sw d a b f, uniformBinary i = some (sw, d, a, b, f) → Issues true s h → Usable h d → Usable h a → Usable h b →
    exec i s = .next (after s (h.setU d.toNat (f (h.u a.toNat).1 (h.u b.toNat).1) ((h.u a.toNat).2 || (h.u b.toNat).2)) sw))
  ∧ (∀ i s h sw d a f, uniformImmediate i = some (sw, d, a, f) → Issues true s h → Usable h d → Usable h a →
    exec i s = .next (after s (h.setU d.toNat (f h (h.u a.toNat).1) (h.u a.toNat).2) sw))
  ∧ (∀ s h sw d i, Issues true s h → Usable h d → exec (.umovi sw d i) s = .next (after s (h.setU d.toNat (h.imm16 i) false) sw))
  ∧ (∀ s h sw d a b, Issues true s h → Usable h d → Usable h a → Usable h b →
    exec (.usel sw d a b) s = .next (after s
      (if (h.u d.toNat).1 ≠ 0 then h.setU d.toNat (h.u a.toNat).1 ((h.u d.toNat).2 || (h.u a.toNat).2)
      else h.setU d.toNat (h.u b.toNat).1 ((h.u d.toNat).2 || (h.u b.toNat).2)) sw))
  ∧ (∀ s h sw d a b, Issues true s h → UsablePair h d → UsablePair h a → Usable h b →
    exec (.uaddp sw d a b) s = .next (after s (h.setUPair d.toNat
      ((h.uPair a.toNat).1 + (h.u b.toNat).1.signExtend 64) ((h.uPair a.toNat).2 || (h.u b.toNat).2)) sw))
  ∧ ∀ s h sw d a i, Issues true s h → UsablePair h d → UsablePair h a →
    exec (.uaddpi sw d a i) s = .next (after s (h.setUPair d.toNat
      ((h.uPair a.toNat).1 + (h.imm8 true i).signExtend 64) (h.uPair a.toNat).2) sw)


namespace Sys2Proof.Claims

/-! ### Lane arithmetic -/

/-- Lane instructions with two sources: SW, D, A, B and the result (R224, R225, R229, R232 to R234). -/
def laneBinary : Instr → Option (Bool × BitVec 8 × BitVec 8 × BitVec 8 × (Word → Word → Word))
  | .iadd sw d a b => some (sw, d, a, b, fun x y => x + y)
  | .isub sw d a b => some (sw, d, a, b, fun x y => x - y)
  | .imul sw d a b => some (sw, d, a, b, fun x y => x * y)
  | .imulh sw d a b => some (sw, d, a, b, fun x y => BitVec.ofInt 32 (x.toInt * y.toInt / 2 ^ 32))
  | .imulhu sw d a b => some (sw, d, a, b, fun x y => BitVec.ofNat 32 (x.toNat * y.toNat / 2 ^ 32))
  | .imin sw d a b => some (sw, d, a, b, fun x y => if x.toInt ≤ y.toInt then x else y)
  | .imax sw d a b => some (sw, d, a, b, fun x y => if x.toInt ≤ y.toInt then y else x)
  | .iand sw d a b => some (sw, d, a, b, fun x y => x &&& y)
  | .ior sw d a b => some (sw, d, a, b, fun x y => x ||| y)
  | .ixor sw d a b => some (sw, d, a, b, fun x y => x ^^^ y)
  | .ishl sw d a b => some (sw, d, a, b, fun x y => x <<< (y.toNat % 256))
  | .ishr sw d a b => some (sw, d, a, b, fun x y => x >>> (y.toNat % 256))
  | .isar sw d a b => some (sw, d, a, b, fun x y => x.sshiftRight (y.toNat % 256))
  | .iceq sw d a b => some (sw, d, a, b, fun x y => if x = y then 1 else 0)
  | .iclt sw d a b => some (sw, d, a, b, fun x y => if x.toInt < y.toInt then 1 else 0)
  | .icltu sw d a b => some (sw, d, a, b, fun x y => if x.toNat < y.toNat then 1 else 0)
  | .p8add sw d a b => some (sw, d, a, b, packSat 8 fun x y => x + y)
  | .p8sub sw d a b => some (sw, d, a, b, packSat 8 fun x y => x - y)
  | .p8max sw d a b => some (sw, d, a, b, packSat 8 max)
  | .p8min sw d a b => some (sw, d, a, b, packSat 8 min)
  | .p16add sw d a b => some (sw, d, a, b, packSat 16 fun x y => x + y)
  | .p16sub sw d a b => some (sw, d, a, b, packSat 16 fun x y => x - y)
  | .p16mul sw d a b => some (sw, d, a, b, packSat 16 fun x y => x * y)
  | .fadd sw d a b => some (sw, d, a, b, fun x y => round32 ((val32 x).add (val32 y)))
  | .fsub sw d a b => some (sw, d, a, b, fun x y => round32 ((val32 x).add (val32 y).neg))
  | .fmul sw d a b => some (sw, d, a, b, fun x y => round32 ((val32 x).mul (val32 y)))
  | .fmin sw d a b => some (sw, d, a, b, fmin)
  | .fmax sw d a b => some (sw, d, a, b, fmax)
  | .fceq sw d a b => some (sw, d, a, b, fun x y => if (val32 x).cmp (val32 y) = some .eq then 1 else 0)
  | .fclt sw d a b => some (sw, d, a, b, fun x y => if (val32 x).cmp (val32 y) = some .lt then 1 else 0)
  | .fcle sw d a b => some (sw, d, a, b, fun x y =>
      if (val32 x).cmp (val32 y) = some .lt ∨ (val32 x).cmp (val32 y) = some .eq then 1 else 0)
  | .hadd2 sw d a b => some (sw, d, a, b, halfAdd fp16)
  | .badd2 sw d a b => some (sw, d, a, b, halfAdd bf16)
  | _ => none

/-- The multiply-adds, which read the old D as well (R232, R234). -/
def laneMultiplyAdd : Instr → Option (Bool × BitVec 8 × BitVec 8 × BitVec 8 × (Word → Word → Word → Word))
  | .ffma sw d a b => some (sw, d, a, b, fun z x y => round32 ((val32 z).add ((val32 x).mul (val32 y))))
  | .hfma2 sw d a b => some (sw, d, a, b, halfFma fp16)
  | .bfma2 sw d a b => some (sw, d, a, b, halfFma bf16)
  | _ => none

/-- Lane instructions with one source and an immediate (R226, R227, R230, R236). -/
def laneImmediate : Instr → Option (Bool × BitVec 8 × BitVec 8 × (Here → Word → Word))
  | .iaddImm sw d a i => some (sw, d, a, fun h x => x + h.imm8 true i)
  | .iandImm sw d a i => some (sw, d, a, fun h x => x &&& h.imm8 true i)
  | .iorImm sw d a i => some (sw, d, a, fun h x => x ||| h.imm8 false i)
  | .ishlImm sw d a n => some (sw, d, a, fun _ x => x <<< n.toNat)
  | .ishrImm sw d a n => some (sw, d, a, fun _ x => x >>> n.toNat)
  | .isarImm sw d a n => some (sw, d, a, fun _ x => x.sshiftRight n.toNat)
  | .p8shl sw d a n => some (sw, d, a, fun _ x => packShift 8 shlBits n.toNat x)
  | .p8shr sw d a n => some (sw, d, a, fun _ x => packShift 8 shrBits n.toNat x)
  | .p8sar sw d a n => some (sw, d, a, fun _ x => packShift 8 sarBits n.toNat x)
  | .p16shl sw d a n => some (sw, d, a, fun _ x => packShift 16 shlBits n.toNat x)
  | .p16shr sw d a n => some (sw, d, a, fun _ x => packShift 16 shrBits n.toNat x)
  | .p16sar sw d a n => some (sw, d, a, fun _ x => packShift 16 sarBits n.toNat x)
  | .cvt sw d a rm tgt src => some (sw, d, a, fun _ x =>
      BitVec.ofNat 32 (cvtWord rm.toNat tgt.toNat src.toNat false x.toNat))
  | .cvts sw d a rm tgt src => some (sw, d, a, fun _ x =>
      BitVec.ofNat 32 (cvtWord rm.toNat tgt.toNat src.toNat true x.toNat))
  | _ => none

/-- The special functions and their codes (R235). -/
def specialFunction : Instr → Option (Bool × BitVec 8 × BitVec 8 × Nat)
  | .exp2 sw d a => some (sw, d, a, 0)
  | .log2 sw d a => some (sw, d, a, 1)
  | .rcp sw d a => some (sw, d, a, 2)
  | .rsqrt sw d a => some (sw, d, a, 3)
  | .sin sw d a => some (sw, d, a, 4)
  | .cos sw d a => some (sw, d, a, 5)
  | _ => none

/-- The number that VRD and VWR index (R239). -/
def viNumber (h : Here) (k : BitVec 8) : Int := h.c.vi.toNat + k.toInt

/-- LPUSH (R71): lane `l` wins when it names an active lane to which no lower active lane sends. -/
def wins (h : Here) (x l : Nat) : Bool :=
  let t := (h.l x l).1.toNat
  decide (t < 32) && h.g.exec.getLsbD t && (lanesOf h.g.exec).all fun k => decide (l ≤ k) || (h.l x k).1.toNat != t

/-- The winners' values written to the lanes that they name, then the mask of the losers. -/
def pushAll (h : Here) (d a x mk : Nat) : Here :=
  let won := (lanesOf h.g.exec).filter (wins h x)
  (won.foldl (fun g l => g.setV d (h.l x l).1.toNat (h.v a l) (Cells.get false h.c.vt (keyV a l) || (h.l x l).2)) h).setM mk
    (maskOf ((lanesOf h.g.exec).filter fun l => !wins h x l))

/-! ### Masks -/

/-- Instructions on EXEC and the mask registers that leave the issuer as `f h`, where `reg`, if any, is usable (R208). -/
def maskEffect : Instr → Option (Bool × Option (BitVec 8) × (Here → Here))
  | .exrd sw r => some (sw, some r, fun h => h.setU r.toNat (h.g.exec &&& h.g.mem) false)
  | .exwr sw r => some (sw, some r, fun h => { h with g := { h.g with exec := (h.u r.toNat).1 &&& h.g.mem } })
  | .exld sw ma => some (sw, none, fun h => { h with g := { h.g with exec := h.m ma.toNat &&& h.g.mem } })
  | .exsv sw ma => some (sw, none, fun h => h.setM ma.toNat (h.g.exec &&& h.g.mem))
  | .mand sw ma mb mc => some (sw, none, fun h => h.setM ma.toNat (h.m mb.toNat &&& h.m mc.toNat))
  | .mor sw ma mb mc => some (sw, none, fun h => h.setM ma.toNat (h.m mb.toNat ||| h.m mc.toNat))
  | .mxor sw ma mb mc => some (sw, none, fun h => h.setM ma.toNat (h.m mb.toNat ^^^ h.m mc.toNat))
  | .mnot sw ma mb => some (sw, none, fun h => h.setM ma.toNat (~~~(h.m mb.toNat)))
  | .mrd sw r ma => some (sw, some r, fun h => h.setU r.toNat (h.m ma.toNat) false)
  | .mwr sw r ma => some (sw, some r, fun h => h.setM ma.toNat (h.u r.toNat).1)
  | .mpop sw r ma => some (sw, some r, fun h =>
      h.setU r.toNat (BitVec.ofNat 32 ((List.range 32).filter fun l => (h.m ma.toNat).getLsbD l).length) false)
  | _ => none

end Sys2Proof.Claims

/-- R224 to R236: IADD to ICLTU, P8ADD to P16MUL, FADD to FCLE, HADD2 and BADD2; FFMA, HFMA2, BFMA2 and ISEL, which read
the old D; the immediate forms, the packed shifts, CVT and CVTS; IMOVI; and EXP2, LOG2, RCP, RSQRT, SIN and COS, whose
result is long (R177), write the result of the sources as they stood before the instruction into every active lane. That
every special function is rounded correctly rests on log entry 29. -/
def Obligations.LaneArithmeticResults : Prop :=
  (∀ i s h sw d a b f, laneBinary i = some (sw, d, a, b, f) → Issues false s h → LaneDest h d → Usable h a → Usable h b →
    exec i s = .next (after s (h.eachLane fun k l =>
      k.setL d.toNat l (f (h.l a.toNat l).1 (h.l b.toNat l).1) ((h.l a.toNat l).2 || (h.l b.toNat l).2)) sw))
  ∧ (∀ i s h sw d a b f, laneMultiplyAdd i = some (sw, d, a, b, f) → Issues false s h → LaneDest h d → Usable h a →
    Usable h b → exec i s = .next (after s (h.eachLane fun k l =>
      k.setL d.toNat l (f (h.l d.toNat l).1 (h.l a.toNat l).1 (h.l b.toNat l).1)
        ((h.l d.toNat l).2 || (h.l a.toNat l).2 || (h.l b.toNat l).2)) sw))
  ∧ (∀ s h sw d a b, Issues false s h → LaneDest h d → Usable h a → Usable h b →
    exec (.isel sw d a b) s = .next (after s (h.eachLane fun k l =>
      if (h.l d.toNat l).1 ≠ 0 then k.setL d.toNat l (h.l a.toNat l).1 ((h.l d.toNat l).2 || (h.l a.toNat l).2)
      else k.setL d.toNat l (h.l b.toNat l).1 ((h.l d.toNat l).2 || (h.l b.toNat l).2)) sw))
  ∧ (∀ i s h sw d a f, laneImmediate i = some (sw, d, a, f) → Issues false s h → LaneDest h d → Usable h a →
    exec i s = .next (after s (h.eachLane fun k l => k.setL d.toNat l (f h (h.l a.toNat l).1) (h.l a.toNat l).2) sw))
  ∧ (∀ s h sw d i, Issues false s h → LaneDest h d →
    exec (.imovi sw d i) s = .next (after s (h.eachLane fun k l => k.setL d.toNat l (h.imm16 i) false) sw))
  ∧ ∀ i s h sw d a fn, specialFunction i = some (sw, d, a, fn) → Issues false s h → LaneDest h d → Usable h a →
    exec i s = .next (after s ((h.eachLane fun k l =>
      k.setL d.toNat l (sfnWord fn (h.l a.toNat l).1) (h.l a.toNat l).2).long
        ((lanesOf h.g.exec).map (laneKey d.toNat))) sw)

/-- R237 to R240 and R71: VRD and VWR move between a lane register and V[VI + k]; LPUSH sends to the lanes that X names and
writes the losers' mask; LPULL reads the lane that B names, where that is below 32, and 0
otherwise; that an S register in A too gives 0 there is the model's choice (log entry 35). -/
def Obligations.LaneMovesComplete : Prop :=
  (∀ s h sw d k n, Issues false s h → LaneDest h d → viNumber h k = (n : Nat) → VFree h n →
    exec (.vrd sw d k) s = .next (after s (h.eachLane fun g l =>
      g.setL d.toNat l (h.v n l) (Cells.get false h.c.vt (keyV n l))) sw))
  ∧ (∀ s h sw a k n, Issues false s h → Usable h a → viNumber h k = (n : Nat) → VFree h n →
    exec (.vwr sw a k) s = .next (after s (h.eachLane fun g l => g.setV n l (h.l a.toNat l).1 (h.l a.toNat l).2) sw))
  ∧ (∀ s h sw d a x mk, Issues false s h → VFree h d.toNat → VFree h a.toNat → Usable h x →
    exec (.lpush sw d a x mk) s = .next (after s
      (pushAll h d.toNat a.toNat x.toNat mk.toNat) sw))
  ∧ ∀ s h sw d a b, Issues false s h → LaneDest h d → Usable h a → Usable h b →
    exec (.lpull sw d a b) s = .next (after s (h.eachLane fun g l =>
      if (h.l b.toNat l).1.toNat < 32 then
        g.setL d.toNat l (h.l a.toNat (h.l b.toNat l).1.toNat).1
          ((h.l a.toNat (h.l b.toNat l).1.toNat).2 || (h.l b.toNat l).2)
      else g.setL d.toNat l 0 (h.l b.toNat l).2) sw)

/-- R208 and R209: EXRD, EXWR, EXLD, EXSV, MAND, MOR, MXOR, MNOT, MRD, MWR and MPOP; EXEC never leaves the membership. -/
def Obligations.MaskInstructionResults : Prop :=
  ∀ i s h sw r f, maskEffect i = some (sw, r, f) → Issues false s h → (∀ x, r = some x → Usable h x) →
    exec i s = .next (after s (f h) sw)

namespace Sys2Proof.Claims

/-! ### System registers -/

/-- What a coach reads in a system register (R27, R75, R122, R214 to R219, R308, R316, R359): the number, whether the
register is 64 bits wide, and its value; LANEXY into a V register is stated apart. TBASE is that of the launch. -/
def coachReads (h : Here) : List (Nat × Bool × Nat) :=
  [(0x00, false, pack [(8, h.t.core), (3, h.c.stage), (5, h.ci), (5, h.t.coaches.length - 1), (4, h.c.ctx), (2, h.c.slot),
      (5, 0)]),
    (0x01, false, pack [(2, 0), (10, h.t.tz), (10, h.t.ty), (10, h.t.tx)]),
    (0x02, false, h.uniformLane), (0x03, false, pack [(30, 0), (1, bit h.c.saved.isSome), (1, bit h.t.compat)]),
    (0x04, false, h.t.oid % 2 ^ 12),
    (0x05, false, pack [(6, h.t.grants.ocsz), (8, h.t.grants.spsz), (6, h.t.grants.lssz), (4, h.t.grants.cgsz), (1, 0),
      (7, h.t.grants.tagn)]),
    (0x06, false, mstrOf h.t.rev), (0x08, true, h.t.tags.toNat), (0x09, false, h.c.vi.toNat),
    (0x10, true, match h.t.image with | some im => im.vbase % 2 ^ 44 * 4096 | none => 0),
    (0x11, true, h.c.area.toNat * 1024 + h.c.act.toNat), (0x18, false, h.t.slice % 2 ^ 24),
    (0x20, false, h.c.etol.toNat), (0x21, false, h.c.ecap.toNat)]

/-- The coach after the read itself: a read of TAGS observes the completions that it returns (R114). -/
def coachSeen (h : Here) (n : Nat) : Here := if n = 0x08 then h.sawTags h.t.tags else h

/-- What a remote function on executor `ex` reads (R265): the overhead remote context of core n is executor 0x100 + n. -/
def remoteReads (h : Here) (ex : Nat) : List (Nat × Bool × Nat) :=
  let column := decide (0x100 ≤ ex) && decide (ex < 0x400)
  [(0x00, false, if column then (ex - 0x100) * 2 ^ 24 else 0), (0x01, false, 0), (0x02, false, 0), (0x03, false, 0),
    (0x04, false, h.t.oid % 2 ^ 12),
    (0x05, false, if column then pack [(6, h.t.grants.ocsz), (8, h.t.grants.spsz), (6, h.t.grants.lssz),
      (4, h.t.grants.cgsz), (1, 0), (7, h.t.grants.tagn)] else 0),
    (0x06, false, mstrOf 3), (0x08, true, 0), (0x09, false, 0), (0x10, true, 0), (0x11, true, 0), (0x18, false, 0),
    (0x20, false, 0), (0x21, false, 0)]

/-- The issuer after a write of `x` to a system register (R13, R14, R214 to R219, R308, R359): VI, the two action bits of
FRBUF, SLICE, ETOL and ECAP can be written; the read-only registers keep their values. -/
def coachWrites (s : State) (h : Here) (x : Nat) : List (Nat × Here) :=
  [(0x00, h), (0x01, h), (0x02, h), (0x03, h), (0x04, h), (0x05, h), (0x06, h), (0x08, h),
    (0x09, { h with c := { h.c with vi := BitVec.ofNat 8 x } }), (0x10, h),
    (0x11, { h with c := { h.c with act := BitVec.ofNat 2 x } }),
    (0x18, { h with t := { h.t with
      len := clampSlice h.t.launchSlice (x % 2 ^ 24)
      slice := s.effectiveSlice h.team h.t (clampSlice h.t.launchSlice (x % 2 ^ 24)) } }),
    (0x20, { h with c := { h.c with etol := if x < 2 ^ 31 ∧ x ≤ 0x7F800000 then BitVec.ofNat 32 x else 0 } }),
    (0x21, { h with c := { h.c with
      ecap := if x % 2 ^ 11 = 0 ∨ 1024 < x % 2 ^ 11 then 1024 else BitVec.ofNat 11 x } })]

/-- The 64-bit system registers: TAGS, TBASE and FRBUF (R215). -/
def isWide (n : Nat) : Bool := n == 0x08 || n == 0x10 || n == 0x11

/-! ### Control -/

/-- The word after the issuing one is the trailer of the run (R175). -/
def TrailerFollows (s : State) (h : Here) : Prop := ∃ w, s.fetch h (h.g.pc + 4) = .ok w ∧ isTrailer w = true

/-- The run with a run-closing effect kept for its trailer. -/
def keeps (h : Here) (k : Closer) : Here :=
  let back := if h.run.pre.isSome then 1 else 0
  h.setRun { h.run with closer := k, closerPc := h.g.pc - 4 * back, closerWord := h.run.word, closerPre := h.run.pre,
                        closerWords := h.run.words - back }

/-- The offset of a branch, in words, alone or below an IMMX (R201, R202, R241). -/
def branchTo (h : Here) (w off : Nat) : Int :=
  (h.g.pc : Int) + 4 * match h.run.pre with | some p => sext (24 + w) (p.toNat * 2 ^ w + off) | none => sext w off

/-- The active lanes that a lane-conditional branch takes (R241). -/
def takenLanes (h : Here) (d : BitVec 8) (zero : Bool) : List Nat :=
  (lanesOf h.g.exec).filter fun l => decide ((h.l d.toNat l).1 = 0) == zero

/-- The split or whole transfer of BVZ and BVNZ (R36, R241): none where no lane takes the branch. -/
def laneTransfer (h : Here) (d : BitVec 8) (off : BitVec 16) (zero : Bool) : Closer :=
  if takenLanes h d zero = [] then .none
  else if takenLanes h d zero = lanesOf h.g.exec then .jump (branchTo h 16 off.toNat) false
  else .split (maskOf (takenLanes h d zero)) (branchTo h 16 off.toNat)

/-- The transfer that a run-closing instruction keeps (none for a branch not taken, which checks nothing, R200), the
register that it needs usable, and whether a remote function may run it (R201 to R205, R211, R241, R254, R264). -/
def transferOf (h : Here) : Instr → Option (Bool × Bool × Option (BitVec 8) × Closer)
  | .bz sw d off => some (sw, true, some d,
      if (h.u d.toNat).1 = 0 then .jump (branchTo h 16 off.toNat) false else .none)
  | .bnz sw d off => some (sw, true, some d,
      if (h.u d.toNat).1 = 0 then .none else .jump (branchTo h 16 off.toNat) false)
  | .bra sw off => some (sw, true, none, .jump (branchTo h 18 off.toNat) false)
  | .call sw off => some (sw, true, none, .jump (branchTo h 18 off.toNat) true)
  | .callr sw r => some (sw, true, some r, .jump (h.u r.toNat).1.toNat true)
  | .brr sw r => some (sw, true, some r, .jump (h.u r.toNat).1.toNat false)
  | .ret sw r => some (sw, true, some r, .jump (h.u r.toNat).1.toNat false)
  | .endLanes sw => some (sw, true, none, .endLanes)
  | .trap sw r code => some (sw, true, some r, .trap code (h.u r.toNat).1)
  | .icinv sw sc => some (sw, false, none, .icinv sc.toNat)
  | .rcwait sw r k => some (sw, false, some r, .rcwait k.toNat (h.u r.toNat).1 (h.u r.toNat).2)
  | .bvz sw d off => some (sw, false, some d, laneTransfer h d off true)
  | .bvnz sw d off => some (sw, false, some d, laneTransfer h d off false)
  | _ => none

/-- The sub-group has left its run for offset `pc`, its half free for the next decision. -/
def leaves (s : State) (h : Here) (pc : Nat) (wait : BitVec 8) (parks : List Park) : State :=
  s.endRun (h.leaveRun pc wait parks)

/-- The first offset after the trailer. -/
def fall (h : Here) : Nat := h.g.pc + 4

/-- The tags that a wait names lie below TAGN (R258). -/
def TagsBelow (h : Here) (r : BitVec 8) : Prop :=
  (h.uPair r.toNat).1.toNat / 2 ^ h.t.grants.tagn % 2 ^ (64 - h.t.grants.tagn) = 0

/-- The expected count of BARARV and BARSYNC (R210). -/
def barrierCount (h : Here) (reg : BitVec 8) (ci : BitVec 1) (cnt : BitVec 5) : Nat :=
  if ci = 1 then cnt.toNat + 1 else (h.u reg.toNat).1.toNat

/-- The issuer after a BARARV whose arrival left it as `k`: a park that it now has begins with the trailer (R45). -/
def bararvMade (h k : Here) : Here :=
  if h.g.parks.length < k.g.parks.length then k.setRun { k.run with stopAt := some h.word } else k

/-- The issuer is the whole coach: one sub-group, without a park or a recording. -/
def Alone (h : Here) : Prop := h.c.subs = [h.g] ∧ h.g.parks = [] ∧ h.g.recs = []

/-- The state after a trap without lanes at the instruction being issued: the coach stops, or in compatibility mode, outside its
handler, the sub-group (R47, R48). -/
def takes (s : State) (h : Here) (t : Trap) : State :=
  if h.t.compat && !h.c.hnd then s.parkFaulting h t else s.trapNow h t

end Sys2Proof.Claims

/-- R27, R214 and R215: SRRD writes the register's value, untainted, to a register or a pair; LANEXY gives a V destination the
number of each active lane; a remote function reads by R265. SRWR writes what the register takes. -/
def Obligations.SystemRegisterMoves : Prop :=
  (∀ s h sw d n wide x, Issues true s h → h.remote = none → (n.toNat, wide, x) ∈ coachReads h →
    (n.toNat = 0x02 → 192 ≤ d.toNat) → (if wide then UsablePair h d else Usable h d) →
    exec (.srrd sw d n) s = .next (after s
      (if wide then (coachSeen h n.toNat).setUPair d.toNat (BitVec.ofNat 64 x) false
      else h.setU d.toNat (BitVec.ofNat 32 x) false) sw))
  ∧ (∀ s h sw d, Issues true s h → d.toNat < 192 → VFree h d.toNat →
    exec (.srrd sw d 0x02) s = .next (after s (h.eachLane fun k l => k.setV d.toNat l (BitVec.ofNat 32 l) false) sw))
  ∧ (∀ s h ex sw d n wide x, Issues true s h → h.remote = some ex → (n.toNat, wide, x) ∈ remoteReads h ex →
    (if wide then d.toNat % 2 = 0 else True) → 192 ≤ d.toNat → exec (.srrd sw d n) s = .next (after s
      (if wide then h.setUPair d.toNat (BitVec.ofNat 64 x) false else h.setU d.toNat (BitVec.ofNat 32 x) false) sw))
  ∧ ∀ s h sw d n k, Issues false s h → (if isWide n.toNat then UsablePair h d else Usable h d) →
    (n.toNat, k) ∈ coachWrites s h (if isWide n.toNat then (h.uPair d.toNat).1.toNat else (h.u d.toNat).1.toNat) →
    exec (.srwr sw d n) s = .next (after s k sw)

/-- R201 to R203, R205, R211, R241, R254, R258 and R267: a run-closing instruction before its trailer keeps its effect in the
run: BZ, BNZ, BRA, CALL, CALLR, BRR, RET, END, TRAP, ICINV, RCWAIT, BVZ, BVNZ, and WAITANY and WAITALL; and R212: RFE while
HND = 1. A branch that is not taken keeps no effect. What the trailer does with it is stated next. -/
def Obligations.RunClosingEffectsAreKept : Prop :=
  (∀ i s h sw ro r k, transferOf h i = some (sw, ro, r, k) → Issues ro s h → TrailerFollows s h →
    (∀ x, r = some x → Usable h x) → exec i s = .next (after s (keeps h k) sw))
  ∧ (∀ s h sw r k, Issues false s h → TrailerFollows s h → UsablePair h r → TagsBelow h r →
    exec (.waitany sw r k) s = .next (after s (keeps h (.waitAny k.toNat (h.uPair r.toNat).1 (h.uPair r.toNat).2)) sw))
  ∧ (∀ s h sw r, Issues false s h → TrailerFollows s h → UsablePair h r → TagsBelow h r →
    exec (.waitall sw r) s = .next (after s (keeps h (.waitAll (h.uPair r.toNat).1)) sw))
  ∧ ∀ s h sw, Issues false s h → TrailerFollows s h → h.c.saved.isSome = true →
    exec (.rfe sw) s = .next (after s (keeps h .rfe) sw)

/-- R206: RUNEND applies its post, then the effect that the run keeps: the fall-through, which checks nothing, also where the
trailer is the last word of its segment (R200, R182), a transfer with or without its link, a split, the park of END, the waits
of R258 and R267, and ICINV (R183): from then on the coach may execute what it had acquired (R121). -/
def Obligations.TrailerEffects : Prop :=
  ∀ s h post wait, s.here = some h → 0 < h.run.words →
    let p := h.post post
    (h.run.closer = .none → exec (.runend post wait) s = .next (leaves s p (fall h) wait []))
    ∧ (∀ target : Nat, h.run.closer = .jump target false → target < (s.segment p).2 → target % 4 = 0 →
      exec (.runend post wait) s = .next (leaves s p target wait []))
    ∧ (∀ target : Nat, h.run.closer = .jump target true → target < (s.segment p).2 → target % 4 = 0 →
      exec (.runend post wait) s = .next (leaves s (p.setS 63 (BitVec.ofNat 32 (fall h)) false) target wait []))
    ∧ (∀ taken, ∀ target : Nat, h.run.closer = .split taken target → target < (s.segment p).2 → target % 4 = 0 →
      exec (.runend post wait) s = .next (s.endRun ((p.leaveRun (fall h) wait []).split taken target (fall h))))
    ∧ (h.run.closer = .endLanes → h.g.rest = false →
      exec (.runend post wait) s = .next (leaves s p (fall h) wait [.ending h.run.no]))
    ∧ (∀ k m taint, h.run.closer = .waitAny k m taint →
      exec (.runend post wait) s = .next (leaves s p (fall h) wait [.tagAny k m taint]))
    ∧ (∀ m, h.run.closer = .waitAll m → exec (.runend post wait) s = .next (leaves s p (fall h) wait [.tagAll m]))
    ∧ (∀ k token taint, h.run.closer = .rcwait k token taint →
      exec (.runend post wait) s = .next (leaves s p (fall h) wait [.rcwait k token taint]))
    ∧ ∀ scope, h.run.closer = .icinv scope →
      exec (.runend post wait) s = .next (leaves s { p with c := { p.c with ic := p.c.acq } } (fall h) wait [])

/-- R172 and R207: an IMMX whose next word has an immediate keeps its 24 bits for that word. R108, R115, R252 and R253: FENCE
changes nothing but the issuer's place and, for R121, what its coach acquires and releases: with order acq or ar the reads
before it become acquires, and with rel or ar the writes after it releases (log entries 1 and 15); OPFENCE makes the coach's
earlier register and scratchpad writes visible to the matrix unit. R213 and R324: REPLAY while HND = 1, with the AR fence of its
issuer before it; one of an address whose walk waits for no held channel. -/
def Obligations.PrefixesFencesAndReplays : Prop :=
  (∀ s h imm w, s.here = some h → h.run.words < 23 → s.fetch h (h.g.pc + 4) = .ok w → takesImmx imm w = true →
    exec (.immx imm) s = .next (s.put { h with g := { h.g with
      pc := h.g.pc + 4, run := some { h.run with words := h.run.words + 1, pre := some imm } } }))
  ∧ (∀ s h sw kind sc, Issues true s h → exec (.fence sw kind sc) s = .next (after s
      { h with c := h.c.fenceBy kind h.spot sc.toNat } sw))
  ∧ (∀ s h sw, Issues false s h → exec (.opfence sw) s = .next (after s { h with c := { h.c with dirty := [] } } sw))
  ∧ (∀ s h sw r, Issues false s h → h.c.saved.isSome = true → Usable h r →
    let k := h.onCoach fun c => c.fence h.spot 5
    let s' := s.replayToken k.c.acq h.t.oid (h.u r.toNat).1
    exec (.replayToken sw r) s = .next (after s' (k.reread s') sw))
  ∧ ∀ s h sw r, Issues false s h → h.c.saved.isSome = true → UsablePair h r →
    (∀ ch, s.walkLeaf h.t.oid (h.uPair r.toNat).1.toNat ≠ .waits ch) →
    let k := h.onCoach fun c => c.fence h.spot 5
    let s' := s.replayPage k.c.acq h.t.oid (h.uPair r.toNat).1.toNat
    exec (.replayPage sw r) s = .next (after s' (k.reread s') sw)

/-- R259 and R268: FFRDY writes the lowest ready tag of the mask, or 64, and never parks; the coach has then observed that
tag's completion (R114). RCPROBE writes the disposition that the core holds, or PENDING with a probe of the executor unless
the token's executor has been asked already. -/
def Obligations.ReadyTagsAndProbes : Prop :=
  (∀ s h sw r k, Issues false s h → UsablePair h r → TagsBelow h r →
    let i := ((List.range 64).find? fun i => (h.t.tags &&& (h.uPair r.toNat).1).getLsbD i).getD 64
    exec (.ffrdy sw r k) s = .next (after s ((h.sawTags ((1 : DWord) <<< i)).setS k.toNat (BitVec.ofNat 32 i)
      (h.uPair r.toNat).2) sw))
  ∧ (∀ s h sw r k code fault, Issues false s h → Usable h r → s.heldDisp h.c (h.u r.toNat).1 = some (code, fault) →
    ∃ g, exec (.rcprobe sw r k) s = .next (after s g sw)
      ∧ g.c.s = (h.setDisp k.toNat code [fault] (h.u r.toNat).2).c.s
      ∧ ∀ i x, s.callOf h.c (h.u r.toNat).1 = some (i, x) → i ∉ g.c.calls)
  ∧ ∀ s h sw r k, Issues false s h → Usable h r → s.heldDisp h.c (h.u r.toNat).1 = none →
    ∃ g, exec (.rcprobe sw r k) s = .next (after
        (if ((h.u r.toNat).1, 4, 1) ∈ h.c.disps then s else s.probe h (h.u r.toNat).1) g sw)
      ∧ g.c.s = (h.setDisp k.toNat 4 [] (h.u r.toNat).2).c.s

/-- R44, R45 and R210: the arrival of BARARV and of BARSYNC, with the count in the word or in a register, where no fusion with
lanes replayed after a fault is awaited there (R48); BARSYNC parks once its trailer has issued. Of a coach that is not split:
a barrier takes the expected count with its first arrival and counts up; the arrival that completes the count flips the phase,
clears the count and releases the coaches that wait; another BARSYNC waits for the phase as it stood; and a count of 0, above
the coaches of the team, or other than the barrier's traps BARRIER-COUNT. Where lanes that a fault left over and replayed ones
are to fuse, they wait before the barrier instruction (R48). -/
def Obligations.BarrierArrivals : Prop :=
  (∀ s h sw reg ci cnt b k done, Issues false s h → h.meets = none → (ci = 0 → Usable h reg) →
    h.arriveSub b.toNat (barrierCount h reg ci cnt) false = .ok (k, done) →
    exec (.bararv sw reg ci cnt b) s =
      .next (after (if done then s.releaseBarrier h.team b.toNat else s) (bararvMade h k) sw))
  ∧ (∀ s h sw reg ci cnt b k done, Issues false s h → h.meets = none → (ci = 0 → Usable h reg) → TrailerFollows s h →
    h.arriveSub b.toNat (barrierCount h reg ci cnt) true = .ok (k, done) →
    ∃ g, exec (.barsync sw reg ci cnt b) s = .next (after (if done then s.releaseBarrier h.team b.toNat else s) g sw)
      ∧ g.run.closer = .barsync none ∧ g.g.parks = k.g.parks ∧ g.t = k.t ∧ g.c = k.c)
  ∧ (∀ h b e sync, Alone h → e ≠ 0 → e ≤ h.t.coaches.length →
    ((h.t.barrier b).count = 0 ∨ e = (h.t.barrier b).expected) →
    ∃ k, h.arriveSub b e sync = .ok (k, decide ((h.t.barrier b).count + 1 = e))
      ∧ k.t.barriers = Cells.set {} h.t.barriers b
        (if (h.t.barrier b).count + 1 = e then
          { count := 0, expected := e, phase := !(h.t.barrier b).phase, now := [],
            past := Known.join (h.t.barrier b).past (Known.join (h.t.barrier b).now h.c.acq) }
        else
          { count := (h.t.barrier b).count + 1, expected := e, phase := (h.t.barrier b).phase,
            now := Known.join (h.t.barrier b).now h.c.acq, past := (h.t.barrier b).past })
      ∧ k.g.parks = if sync && decide ((h.t.barrier b).count + 1 ≠ e) then [.bar b (h.t.barrier b).phase] else [])
  ∧ (∀ s h sw reg ci cnt b k, s.here = some h → h.meets = some k →
    exec (.bararv sw reg ci cnt b) s = .next (((s.put k).freeHalf k.t.core k.team k.ci k.c).tryEntry k.team k.ci)
      ∧ exec (.barsync sw reg ci cnt b) s = .next (((s.put k).freeHalf k.t.core k.team k.ci k.c).tryEntry k.team k.ci))
  ∧ ∀ s h sw reg ci cnt b, Issues false s h → h.meets = none → (ci = 0 → Usable h reg) → Alone h →
    (barrierCount h reg ci cnt = 0 ∨ h.t.coaches.length < barrierCount h reg ci cnt
      ∨ (0 < (h.t.barrier b.toNat).count ∧ barrierCount h reg ci cnt ≠ (h.t.barrier b.toNat).expected)) →
    exec (.bararv sw reg ci cnt b) s = .next (takes s h { cause := .barrierCount, detail := BitVec.ofNat 16 b.toNat })
      ∧ (TrailerFollows s h → exec (.barsync sw reg ci cnt b) s =
        .next (takes s h { cause := .barrierCount, detail := BitVec.ofNat 16 b.toNat }))

namespace Sys2Proof.Claims

/-! ### Loads, stores and atomics -/

/-- Registers that an access of `n` bytes uses. -/
def registersOf (n : Nat) : Nat := if n ≤ 4 then 1 else n / 4

/-- Uniform loads: SW, D, A, space code, ABS, bytes, whether the load sets the taint, and the scope at which it acquires, if
it does (R245 to R248). -/
def uniformLoad : Instr → Option (Bool × BitVec 8 × BitVec 8 × BitVec 3 × Bool × Nat × Bool × Option Nat)
  | .uldb sw d a wh ab => some (sw, d, a, wh, ab == 1, 1, false, none)
  | .uldh sw d a wh ab => some (sw, d, a, wh, ab == 1, 2, false, none)
  | .uldw sw d a wh ab => some (sw, d, a, wh, ab == 1, 4, false, none)
  | .uldd sw d a wh ab => some (sw, d, a, wh, ab == 1, 8, false, none)
  | .uldq sw d a wh ab => some (sw, d, a, wh, ab == 1, 16, false, none)
  | .uldwAcq sw d a wh sc => some (sw, d, a, wh, false, 4, false, some sc.toNat)
  | .ulddAcq sw d a wh sc => some (sw, d, a, wh, false, 8, false, some sc.toNat)
  | .uldcw sw d a wh _ => some (sw, d, a, wh, false, 4, true, none)
  | .uldcd sw d a wh _ => some (sw, d, a, wh, false, 8, true, none)
  | _ => none

/-- Uniform stores: SW, D, A, space code, ABS, bytes, and the scope at which the store releases, if it does (R245 to R247). -/
def uniformStore : Instr → Option (Bool × BitVec 8 × BitVec 8 × BitVec 3 × Bool × Nat × Option Nat)
  | .ustb sw d a wh ab => some (sw, d, a, wh, ab == 1, 1, none)
  | .usth sw d a wh ab => some (sw, d, a, wh, ab == 1, 2, none)
  | .ustw sw d a wh ab => some (sw, d, a, wh, ab == 1, 4, none)
  | .ustd sw d a wh ab => some (sw, d, a, wh, ab == 1, 8, none)
  | .ustq sw d a wh ab => some (sw, d, a, wh, ab == 1, 16, none)
  | .ustwRel sw d a wh sc => some (sw, d, a, wh, false, 4, some sc.toNat)
  | .ustdRel sw d a wh sc => some (sw, d, a, wh, false, 8, some sc.toNat)
  | _ => none

/-- Lane loads (R245 to R248). -/
def laneLoads : Instr → Option (Bool × BitVec 8 × BitVec 8 × BitVec 3 × Bool × Nat × Bool × Option Nat)
  | .ldb sw d a wh ab => some (sw, d, a, wh, ab == 1, 1, false, none)
  | .ldh sw d a wh ab => some (sw, d, a, wh, ab == 1, 2, false, none)
  | .ldw sw d a wh ab => some (sw, d, a, wh, ab == 1, 4, false, none)
  | .ldd sw d a wh ab => some (sw, d, a, wh, ab == 1, 8, false, none)
  | .ldq sw d a wh ab => some (sw, d, a, wh, ab == 1, 16, false, none)
  | .ldwAcq sw d a wh sc => some (sw, d, a, wh, false, 4, false, some sc.toNat)
  | .lddAcq sw d a wh sc => some (sw, d, a, wh, false, 8, false, some sc.toNat)
  | .ldcw sw d a wh _ => some (sw, d, a, wh, false, 4, true, none)
  | .ldcd sw d a wh _ => some (sw, d, a, wh, false, 8, true, none)
  | _ => none

/-- Lane stores (R245 to R247). -/
def laneStores : Instr → Option (Bool × BitVec 8 × BitVec 8 × BitVec 3 × Bool × Nat × Option Nat)
  | .stb sw d a wh ab => some (sw, d, a, wh, ab == 1, 1, none)
  | .sth sw d a wh ab => some (sw, d, a, wh, ab == 1, 2, none)
  | .stw sw d a wh ab => some (sw, d, a, wh, ab == 1, 4, none)
  | .std sw d a wh ab => some (sw, d, a, wh, ab == 1, 8, none)
  | .stq sw d a wh ab => some (sw, d, a, wh, ab == 1, 16, none)
  | .stwRel sw d a wh sc => some (sw, d, a, wh, false, 4, some sc.toNat)
  | .stdRel sw d a wh sc => some (sw, d, a, wh, false, 8, some sc.toNat)
  | _ => none

/-- The scope of the acquire, bit 0 of ORD, or of the release, bit 1, that the order of an atomic includes (R251). -/
def ordered (ord : BitVec 2) (k : Nat) (sc : BitVec 3) : Option Nat := if ord.getLsbD k then some sc.toNat else none

/-- Uniform atomics: SW, D, A, space code, whether D is a pair, the scopes at which the order acquires and releases (R251), the
operation code and the new word from the old one, v0 and v1 (R249). -/
def uniformAtomic :
    Instr → Option (Bool × BitVec 6 × BitVec 6 × BitVec 3 × Bool × Option Nat × Option Nat × Nat ×
      (Word → Word → Word → Word))
  | .uaadd sw d a wh ord sc => some (sw, d, a, wh, false, ordered ord 0 sc, ordered ord 1 sc, 0, fun old v _ => old + v)
  | .uamin sw d a wh ord sc => some (sw, d, a, wh, false, ordered ord 0 sc, ordered ord 1 sc, 1,
      fun old v _ => if old.toInt ≤ v.toInt then old else v)
  | .uamax sw d a wh ord sc => some (sw, d, a, wh, false, ordered ord 0 sc, ordered ord 1 sc, 2,
      fun old v _ => if old.toInt ≤ v.toInt then v else old)
  | .uaand sw d a wh ord sc => some (sw, d, a, wh, false, ordered ord 0 sc, ordered ord 1 sc, 3, fun old v _ => old &&& v)
  | .uaor sw d a wh ord sc => some (sw, d, a, wh, false, ordered ord 0 sc, ordered ord 1 sc, 4, fun old v _ => old ||| v)
  | .uaxor sw d a wh ord sc => some (sw, d, a, wh, false, ordered ord 0 sc, ordered ord 1 sc, 5, fun old v _ => old ^^^ v)
  | .uaxchg sw d a wh ord sc => some (sw, d, a, wh, false, ordered ord 0 sc, ordered ord 1 sc, 6, fun _ v _ => v)
  | .uacas sw d a wh ord sc => some (sw, d, a, wh, true, ordered ord 0 sc, ordered ord 1 sc, 7,
      fun old v0 v1 => if old = v0 then v1 else old)
  | _ => none

/-- Lane atomics (R249). -/
def laneAtomics :
    Instr → Option (Bool × BitVec 6 × BitVec 8 × BitVec 3 × Bool × Option Nat × Option Nat × Nat ×
      (Word → Word → Word → Word))
  | .aadd sw d a wh ord sc => some (sw, d, a, wh, false, ordered ord 0 sc, ordered ord 1 sc, 0, fun old v _ => old + v)
  | .amin sw d a wh ord sc => some (sw, d, a, wh, false, ordered ord 0 sc, ordered ord 1 sc, 1,
      fun old v _ => if old.toInt ≤ v.toInt then old else v)
  | .amax sw d a wh ord sc => some (sw, d, a, wh, false, ordered ord 0 sc, ordered ord 1 sc, 2,
      fun old v _ => if old.toInt ≤ v.toInt then v else old)
  | .aand sw d a wh ord sc => some (sw, d, a, wh, false, ordered ord 0 sc, ordered ord 1 sc, 3, fun old v _ => old &&& v)
  | .aor sw d a wh ord sc => some (sw, d, a, wh, false, ordered ord 0 sc, ordered ord 1 sc, 4, fun old v _ => old ||| v)
  | .axor sw d a wh ord sc => some (sw, d, a, wh, false, ordered ord 0 sc, ordered ord 1 sc, 5, fun old v _ => old ^^^ v)
  | .axchg sw d a wh ord sc => some (sw, d, a, wh, false, ordered ord 0 sc, ordered ord 1 sc, 6, fun _ v _ => v)
  | .acas sw d a wh ord sc => some (sw, d, a, wh, true, ordered ord 0 sc, ordered ord 1 sc, 7,
      fun old v0 v1 => if old = v0 then v1 else old)
  | _ => none

/-- The registers that an address uses: none with ABS, a pair for GLOBAL, else one (R242). -/
def baseCount (space : Nat) : Nat := if space = 5 then 2 else 1

/-- The base of a uniform address is usable. -/
def UniBase (h : Here) (space : Nat) (a : BitVec 8) (ab : Bool) : Prop := ab = false → UniBlock h a (baseCount space)

/-- The base of a lane address is usable. -/
def LaneBase (h : Here) (space : Nat) (a : BitVec 8) (ab : Bool) : Prop := ab = false → LaneBlock h a (baseCount space) false

/-- The one access of a uniform instruction passes R243; `c` is what it found. -/
def UniAccess (s : State) (h : Here) (space n : Nat) (acc : Access) (c : Checked) : Prop :=
  c.lane = h.uniformLane ∧ s.check h.agent space c.lane c.ea n acc = .ok c.loc c.leaf

/-- The accesses of the active lanes pass R243, in lane order. -/
def LaneAccesses (s : State) (h : Here) (space n : Nat) (acc : Access) (ea : Nat → Int) (cs : List Checked) : Prop :=
  cs.map Checked.lane = lanesOf h.g.exec
    ∧ ∀ c ∈ cs, c.ea = ea c.lane ∧ s.check h.agent space c.lane c.ea n acc = .ok c.loc c.leaf

/-- Accesses of an instruction whose channel is held: they wait, while the instruction issues (R31, R339, R341). What a load
returns and what a store writes, there and elsewhere, is `State.loadData` and `State.storeData`. -/
def lateOf (s : State) (cs : List Checked) : Nat := (cs.filter fun c => s.blocked c.loc).length

/-- The issuer after loads in a space: what was released where they are performed at once has been read, an acquire at scope `acq`
if it is one, and under revision 1 an AR fence follows (R107, R109, R122, R123). -/
def observed (s : State) (h : Here) (space : Nat) (acq : Option Nat) (n : Nat) (cs : List Checked) (g : Here) : Here :=
  (g.sawAll s n (h.order space acq) cs).fenced space

/-- The issuer after stores that took the storage from `s` to `s'`: what it wrote happens before what follows it. -/
def stored (s s' : State) (space : Nat) (g : Here) : Here := (g.onCoach fun c => c.wrote s s').fenced space

/-- The registers of a uniform load after it. -/
def uniLoaded (h : Here) (d : BitVec 8) (n : Nat) (bs : List Byte) (taint : Bool) : Here :=
  (List.range (registersOf n)).foldl (fun g i =>
    g.setU (d.toNat + i) (BitVec.ofNat 32 (leNat bs / 2 ^ (32 * i))) taint) h

/-- The registers of a lane load after it. -/
def laneLoaded (s : State) (h : Here) (d : BitVec 8) (n : Nat) (taint : Nat → Bool) (cs : List Checked) : Here :=
  cs.foldl (fun g c => (List.range (registersOf n)).foldl (fun g i =>
    g.setL (d.toNat + i) c.lane
      (BitVec.ofNat 32 (leNat (s.loadData h.agent c.loc c.leaf n) / 2 ^ (32 * i))) (taint c.lane)) g) h

/-- The bytes that a store of `n` bytes writes: the low bytes of its registers in order (R246). -/
def storedBytes (n : Nat) (regs : Nat → Word) : List Byte :=
  leBytes n (wordsNat ((List.range (registersOf n)).map regs))

/-- The state after the lanes of a store have written, in increasing lane order (R247). -/
def laneWritten (s : State) (h : Here) (d : BitVec 8) (n : Nat) (rel : Option Nat) (cs : List Checked) : State :=
  cs.foldl (fun x c => x.storeData h c.loc c.leaf (h.c.releases h.spot rel)
    (storedBytes n fun i => (h.l (d.toNat + i) c.lane).1)) s

/-- The write of an atomic of the issuer `g`, with its releases after those that stood there, or the whole atomic left to wait for
its channel. -/
def atomicPut (s : State) (g : Here) (c : Checked) (key : Nat) (o : AccessOrder) (rel : Option Nat) (op : Nat)
    (f : Word → Word → Word → Word) (old v0 v1 : Word) : State :=
  if s.blocked c.loc then s.arrive (g.waiting c.loc c.leaf 4 [key] o (g.c.releases g.spot rel) (.atomic op v0 v1))
  else (s.writeData g.agent c.loc (leBytes 4 (f old v0 v1).toNat)).post c.loc 4
    (s.postsAt c.loc 4 ++ g.c.releases g.spot rel)

/-- The steps of a lane atomic, one lane after the other (R249): storage and issuer after them. -/
def atomicRun (h : Here) (d space : Nat) (pair : Bool) (acq rel : Option Nat) (op : Nat) (f : Word → Word → Word → Word)
    (taint : Nat → Bool) : List Checked → State → Here → State × Here
  | [], s, g => (s, g)
  | c :: r, s, g =>
    let old := BitVec.ofNat 32 (leNat (s.loadData h.agent c.loc c.leaf 4))
    let k := (g.setV d c.lane old (taint c.lane)).sawAll s 4 (g.order space acq) [c]
    let x := atomicPut s k c (keyV d c.lane) (k.order space acq) rel op f old (h.v d c.lane)
      (if pair then h.v (d + 1) c.lane else 0)
    atomicRun h d space pair acq rel op f taint r x ((k.markDirty c.loc 4).onCoach fun y => y.wrote s x)

end Sys2Proof.Claims

/-- R97, R242 to R248: ULDB, ULDH, ULDW, ULDD, ULDQ, their acquire forms, ULDCW and ULDCD load once for the coach; the
result is long and carries the taint of the address, or is tainted by a load-consume. USTB, USTH, USTW, USTD, USTQ and the
release forms store once for the coach. An access whose channel a kernel holds waits, and the instruction goes on (R31, R339);
accesses are performed at issue otherwise (log entries 1 and 15). -/
def Obligations.UniformLoadsAndStoresComplete : Prop :=
  (∀ i s h sw d a wh ab n ldc acq c, uniformLoad i = some (sw, d, a, wh, ab, n, ldc, acq) → Issues true s h →
    UniBlock h d (registersOf n) → UniBase h (spaceOfWh wh.toNat) a ab →
    c.ea = (h.addrU (spaceOfWh wh.toNat) a ab).1 → UniAccess s h (spaceOfWh wh.toNat) n .load c →
    exec i s = .next (after
      ((s.arriveLoads h n (h.order (spaceOfWh wh.toNat) acq) (fun _ => h.uKeys d.toNat (registersOf n)) [c]).noteAll h.agent
        (spaceOfWh wh.toNat) [c])
      (observed s h (spaceOfWh wh.toNat) acq n [c]
        ((uniLoaded h d n (s.loadData h.agent c.loc c.leaf n) (ldc || (h.addrU (spaceOfWh wh.toNat) a ab).2)).long
          (h.uKeys d.toNat (registersOf n)) (lateOf s [c]))) sw))
  ∧ ∀ i s h sw d a wh ab n rel c, uniformStore i = some (sw, d, a, wh, ab, n, rel) → Issues true s h →
    UniBlock h d (registersOf n) → UniBase h (spaceOfWh wh.toNat) a ab →
    c.ea = (h.addrU (spaceOfWh wh.toNat) a ab).1 → UniAccess s h (spaceOfWh wh.toNat) n .store c →
    let x := s.storeData h c.loc c.leaf (h.c.releases h.spot rel) (storedBytes n fun j => (h.u (d.toNat + j)).1)
    exec i s = .next (after (x.noteAll h.agent (spaceOfWh wh.toNat) [c])
      (stored s x (spaceOfWh wh.toNat) (h.markDirty c.loc n)) sw)

/-- R97, R249 and R250: the uniform atomics read the old word, store the new one, and return the old one, long; where a kernel
holds the channel the whole atomic waits (R31). It acquires what it reads before it releases (R107, R109). -/
def Obligations.UniformAtomicsComplete : Prop :=
  ∀ i s h sw d a wh pair acq rel op f c old, uniformAtomic i = some (sw, d, a, wh, pair, acq, rel, op, f) → Issues true s h →
    (spaceOfWh wh.toNat = 5 → a.toNat % 2 = 0) →
    c.ea = (h.addrU (spaceOfWh wh.toNat) (BitVec.ofNat 8 (192 + a.toNat)) false).1 →
    UniAccess s h (spaceOfWh wh.toNat) 4 .atomic c →
    old = BitVec.ofNat 32 (leNat (s.loadData h.agent c.loc c.leaf 4)) →
    let o := h.order (spaceOfWh wh.toNat) acq
    let k := (h.setS d.toNat old (h.addrU (spaceOfWh wh.toNat) (BitVec.ofNat 8 (192 + a.toNat)) false).2).sawAll s 4 o [c]
    let x := atomicPut s k c (keyS d.toNat) o rel op f old (h.s d.toNat) (if pair then h.s (d.toNat + 1) else 0)
    exec i s = .next (after (x.noteAll h.agent (spaceOfWh wh.toNat) [c])
      ((((k.markDirty c.loc 4).onCoach fun y => y.wrote s x).long [keyS d.toNat] (lateOf s [c])).fenced
        (spaceOfWh wh.toNat)) sw)

/-- R242 to R248: LDB, LDH, LDW, LDD, LDQ, their acquire forms, LDCW and LDCD load in every active lane;
with no active lane nothing is in flight. An access whose channel a kernel holds waits (R31, R339). -/
def Obligations.LaneLoadsComplete : Prop :=
  ∀ i s h sw d a wh ab n ldc acq cs, laneLoads i = some (sw, d, a, wh, ab, n, ldc, acq) → Issues false s h →
    LaneBlock h d (registersOf n) true → LaneBase h (spaceOfWh wh.toNat) a ab →
    LaneAccesses s h (spaceOfWh wh.toNat) n .load (fun l => (h.addrL (spaceOfWh wh.toNat) a ab l).1) cs →
    let keys : Nat → List Nat := fun l => (List.range (registersOf n)).map fun j => laneKey (d.toNat + j) l
    exec i s = .next (after
      ((s.arriveLoads h n (h.order (spaceOfWh wh.toNat) acq) (fun c => keys c.lane) cs).noteAll h.agent
        (spaceOfWh wh.toNat) cs)
      (if lanesOf h.g.exec = [] then h
      else observed s h (spaceOfWh wh.toNat) acq n cs
        ((laneLoaded s h d n (fun l => ldc || (h.addrL (spaceOfWh wh.toNat) a ab l).2) cs).long
          ((lanesOf h.g.exec).flatMap keys) (lateOf s cs))) sw)

/-- R242 to R247: STB, STH, STW, STD, STQ and the release forms store in every active lane, in increasing lane order;
a store whose channel a kernel holds waits, and the instruction goes on (R31, R339). -/
def Obligations.LaneStoresComplete : Prop :=
  ∀ i s h sw d a wh ab n rel cs, laneStores i = some (sw, d, a, wh, ab, n, rel) → Issues false s h →
    LaneBlock h d (registersOf n) false → LaneBase h (spaceOfWh wh.toNat) a ab →
    LaneAccesses s h (spaceOfWh wh.toNat) n .store (fun l => (h.addrL (spaceOfWh wh.toNat) a ab l).1) cs →
    let x := laneWritten s h d n rel cs
    exec i s = .next (after (x.noteAll h.agent (spaceOfWh wh.toNat) cs)
      (if cs = [] then h else stored s x (spaceOfWh wh.toNat) (cs.foldl (fun g c => g.markDirty c.loc n) h)) sw)

/-- R249 and R250: the lane atomics take one indivisible step per active lane, in lane order, each on the storage that the
one before it left; every lane gets the old word, and the results are long. A step whose channel a kernel holds waits (R31). -/
def Obligations.LaneAtomicsComplete : Prop :=
  ∀ i s h sw d a wh pair acq rel op f cs, laneAtomics i = some (sw, d, a, wh, pair, acq, rel, op, f) → Issues false s h →
    VsFree h d.toNat (if pair then 2 else 1) → LaneBase h (spaceOfWh wh.toNat) a false →
    LaneAccesses s h (spaceOfWh wh.toNat) 4 .atomic (fun l => (h.addrL (spaceOfWh wh.toNat) a false l).1) cs →
    let r := atomicRun h d.toNat (spaceOfWh wh.toNat) pair acq rel op f
      (fun l => (h.addrL (spaceOfWh wh.toNat) a false l).2) cs s h
    exec i s = .next (after (r.1.noteAll h.agent (spaceOfWh wh.toNat) cs)
      (if lanesOf h.g.exec = [] then r.2
      else (r.2.long ((lanesOf h.g.exec).map (keyV d.toNat)) (lateOf s cs)).fenced (spaceOfWh wh.toNat)) sw)

namespace Sys2Proof.Claims

/-! ### Engine requests -/

/-- A request's tag is below TAGN and holds no request (R94). -/
def TagFree (h : Here) (t : Nat) : Prop := t < h.t.grants.tagn ∧ h.t.tags.getLsbD t = true

/-- The two answers of R255 to a request on a tag: admitted, it is held, its tag is cleared and its status is 0; refused,
only its status is written, with the hint. -/
def RequestAnswered (i : Instr) (s : State) (h : Here) (sw : Bool) (b : BitVec 8) (r : Request) (transit : Nat)
    (needs : List Need) : Prop :=
  (∀ s', s.tryAdmit r.oid r.cls transit r.pages needs = .ok s' →
    exec i s = .next (after { s' with requests := Cells.put s'.requests s'.fresh r, fresh := s'.fresh + 1 }
      { (h.setStatus b 7 0) with t := { h.t with tags := h.t.tags &&& ~~~((1 : DWord) <<< r.tag) } } sw))
  ∧ ∀ k, s.tryAdmit r.oid r.cls transit r.pages needs = .error k →
    exec i s = .next (after (s.count (0x300 + r.cls)) (h.setStatus b 7 (2 ^ 31 + k)) sw)

/-- The fields of word 5 of a COPY block: latency class, scope, destination and source identifiers (R256). -/
def copyClass (h : Here) (b : BitVec 8) : Nat := fld (h.arg b 5).toNat 8 3
def copyScope (h : Here) (b : BitVec 8) : Nat := fld (h.arg b 5).toNat 11 3
def copyDst (h : Here) (b : BitVec 8) : List DWord := h.c.tid (fld (h.arg b 5).toNat 16 8)
def copySrc (h : Here) (b : BitVec 8) : List DWord := h.c.tid (fld (h.arg b 5).toNat 24 8)

/-- Bytes of a destination element and of a source element: 1 with XF = none (R257). -/
def copyDstBytes (h : Here) (b : BitVec 8) (xf : BitVec 3) : Nat := if xf = 0 then 1 else fmtBytes (tidFmt (copyDst h b))
def copySrcBytes (h : Here) (b : BitVec 8) (xf : BitVec 3) : Nat := if xf = 0 then 1 else fmtBytes (tidFmt (copySrc h b))

/-- Bytes of the source range of a COPY (R257). -/
def copySrcLen (h : Here) (b : BitVec 8) (xf : BitVec 3) : Nat :=
  (h.arg b 4).toNat / copyDstBytes h b xf * copySrcBytes h b xf

/-- The arguments of a COPY pass R255 and R256. -/
def CopyArgs (h : Here) (b : BitVec 8) (sl dl xf : BitVec 3) : Prop :=
  (h.arg b 4).toNat ≠ 0 ∧ (h.arg b 4).toNat ≤ 2 ^ 24 ∧ copyScope h b ≠ 7
    ∧ inLayer sl.toNat (h.arg64 b 0) = true ∧ inLayer dl.toNat (h.arg64 b 2) = true
    ∧ (xf ≠ 0 → xfFmt (tidFmt (copySrc h b)) = true ∧ xfFmt (tidFmt (copyDst h b)) = true
      ∧ tidOk (copySrc h b) = true ∧ tidOk (copyDst h b) = true)
    ∧ h.arg64 b 0 % copyDstBytes h b xf = 0 ∧ h.arg64 b 2 % copyDstBytes h b xf = 0
    ∧ (h.arg b 4).toNat % copyDstBytes h b xf = 0

/-- The request of a COPY whose ranges lie at `src` and `dst`. -/
def copyRequest (s : State) (h : Here) (b : BitVec 8) (sl dl xf : BitVec 3) (tag : BitVec 6) (src dst : List Piece) :
    Request :=
  { team := h.team, coach := h.ci, oid := h.t.oid, tag := tag.toNat, cls := copyClass h b, scope := copyScope h b,
    known := h.c.acq, deadline := s.slot + 16 * 4 ^ copyClass h b,
    work := .copy xf.toNat (tidFmt (copySrc h b)) (tidFmt (copyDst h b)) (h.arg b 6) (h.arg b 4).toNat src dst,
    pages := s.snapshot h.t.oid sl.toNat (h.arg64 b 0) (copySrcLen h b xf)
      ++ s.snapshot h.t.oid dl.toNat (h.arg64 b 2) (h.arg b 4).toNat,
    old := s.issueBytes h.t.oid src,
    parts := if xf ≠ 0 ∧ dl = 4 then (channelBytes dst).map Prod.fst else [] }

/-- The fields of word 6 of a GSJOB block, the bytes of an index and of an element (R260). -/
def gsClass (h : Here) (b : BitVec 8) : Nat := fld (h.arg b 6).toNat 8 3
def gsScope (h : Here) (b : BitVec 8) : Nat := fld (h.arg b 6).toNat 11 3
def gsIndexBytes (iw : BitVec 2) : Nat := if iw = 0 then 2 else 4
def gsBytes (es : BitVec 3) : Nat := 2 ^ es.toNat

/-- The arguments of a GSJOB pass R255 and R260; no swap that has begun holds its table back (R95), and no walk of it waits for a
channel (R339). -/
def GsArgs (s : State) (h : Here) (b : BitVec 8) (iw : BitVec 2) (es : BitVec 3) : Prop :=
  (h.arg b 4).toNat ≠ 0 ∧ (h.arg b 4).toNat ≤ 65536 ∧ gsScope h b ≠ 7
    ∧ s.movingIn h.t.oid (h.arg64 b 0) ((h.arg b 5).toNat * gsBytes es) = false
    ∧ walkWaits (s.walksOf h.t.oid (h.arg64 b 0) ((h.arg b 5).toNat * gsBytes es)) = []
    ∧ s.anyHost h.t.oid (h.arg64 b 0) ((h.arg b 5).toNat * gsBytes es) = false
    ∧ h.arg64 b 0 % gsBytes es = 0 ∧ (h.arg b 2).toNat % gsIndexBytes iw = 0 ∧ (h.arg b 3).toNat % gsBytes es = 0

/-- The ranges of a GSJOB pass R243: the table, the index list, and the dense data. -/
def GsRanges (s : State) (h : Here) (b : BitVec 8) (scatter : Bool) (iw : BitVec 2) (es dl : BitVec 3)
    (table index dense : List Piece) : Prop :=
  s.wholeRange h.agent 4 (if scatter then .store else .load) (h.arg64 b 0) ((h.arg b 5).toNat * gsBytes es) = .ok table
    ∧ s.wholeRange h.agent dl.toNat .load (h.arg b 2).toNat ((h.arg b 4).toNat * gsIndexBytes iw) = .ok index
    ∧ s.wholeRange h.agent dl.toNat (if scatter then .load else .store) (h.arg b 3).toNat ((h.arg b 4).toNat * gsBytes es)
      = .ok dense

/-- The request of a GSJOB. -/
def gsRequest (s : State) (h : Here) (b : BitVec 8) (scatter : Bool) (iw : BitVec 2) (es : BitVec 3) (tag : BitVec 6)
    (table index dense : List Piece) : Request :=
  { team := h.team, coach := h.ci, oid := h.t.oid, tag := tag.toNat, cls := gsClass h b, scope := gsScope h b,
    known := h.c.acq, deadline := s.slot + 16 * 4 ^ gsClass h b,
    work := .gather scatter (gsIndexBytes iw) (gsBytes es) (h.arg b 4).toNat (h.arg b 5).toNat table index dense,
    pages := s.snapshot h.t.oid 4 (h.arg64 b 0) ((h.arg b 5).toNat * gsBytes es),
    old := s.issueBytes h.t.oid index ++ if scatter then s.issueBytes h.t.oid dense else [] }

/-- The identifiers, the columns, a line and the bytes of B of an MVSTACK block (R280, R288). -/
def mvA (h : Here) (b : BitVec 8) : List DWord := h.c.tid (fld (h.arg b 0).toNat 24 8)
def mvB (h : Here) (b : BitVec 8) : List DWord := h.c.tid (fld (h.arg b 0).toNat 16 8)
def mvColumns (h : Here) (b : BitVec 8) : Nat := tidDim (mvB h b) 1
def mvRows (h : Here) (b : BitVec 8) : Nat := tidDim (mvA h b) 0
def mvLine (h : Here) (b : BitVec 8) : Nat := lineBytes (mvB h b) (mvRows h b)
def mvBytes (h : Here) (b : BitVec 8) : Nat := (mvColumns h b - 1) * tidStr (mvB h b) 1 + mvLine h b

/-- The walks of the lines of B of an MVSTACK. -/
def mvWalks (s : State) (h : Here) (b : BitVec 8) : List Walk :=
  (List.range (mvColumns h b)).flatMap fun i =>
    s.walksOf h.t.oid (h.arg64 b 3 + i * tidStr (mvB h b) 1) (mvLine h b)

/-- The arguments of an MVSTACK pass R255 and R280; no swap that has begun holds a line of B back (R95), and no walk of it waits
for a channel (R339). -/
def MvArgs (s : State) (h : Here) (b : BitVec 8) : Prop :=
  tidFmt (mvA h b) ∈ [4, 5, 6] ∧ tidFmt (mvB h b) ∈ [4, 5, 7, 8, 9] ∧ tidRank (mvA h b) = 1 ∧ tidRank (mvB h b) = 2
    ∧ mvRows h b = tidDim (mvB h b) 0 ∧ fld (h.arg b 1).toNat 11 3 ≠ 7
    ∧ (∀ i, i < mvColumns h b → s.movingIn h.t.oid (h.arg64 b 3 + i * tidStr (mvB h b) 1) (mvLine h b) = false)
    ∧ walkWaits (mvWalks s h b) = [] ∧ outsideStack (mvWalks s h b) = false ∧ tidOk (mvA h b) = true ∧ tidOk (mvB h b) = true

/-- The ranges of an MVSTACK pass R243: A and its scales, B and its scales, and the result. -/
def MvRanges (s : State) (h : Here) (b : BitVec 8) (va sa vb sb vy : List Piece) : Prop :=
  s.wholeRange h.agent 0 .load (h.arg b 2).toNat (lineBytes (mvA h b) (mvRows h b)) = .ok va
    ∧ s.scaleRange h.agent .load (mvA h b) = .ok sa
    ∧ s.tensorRange h.agent 4 .load (h.arg64 b 3) (mvB h b) (mvRows h b) = .ok vb
    ∧ s.scaleRange h.agent .load (mvB h b) = .ok sb
    ∧ s.wholeRange h.agent 0 .store (h.arg b 5).toNat (4 * mvColumns h b) = .ok vy

/-- The request of an MVSTACK. -/
def mvRequest (s : State) (h : Here) (b : BitVec 8) (va sa vb sb vy : List Piece) : Request :=
  { team := h.team, coach := h.ci, oid := h.t.oid, tag := fld (h.arg b 1).toNat 0 6, cls := fld (h.arg b 1).toNat 8 3,
    scope := fld (h.arg b 1).toNat 11 3, known := h.c.acq, deadline := s.slot + 16 * 4 ^ fld (h.arg b 1).toNat 8 3,
    work := .mvstack (mvA h b) (mvB h b) va vb vy (sa, sb),
    pages := s.snapshot h.t.oid 4 (h.arg64 b 3) (mvBytes h b) ++ s.scalePages h.t.oid (mvA h b)
      ++ s.scalePages h.t.oid (mvB h b),
    old := s.issueBytes h.t.oid (va ++ vb) }

/-- The stack that holds B. -/
def mvStack (vb : List Piece) : Nat := (vb.findSome? fun p => match p.loc with | .sto a => stackOf a | _ => none).getD 0

/-- The fields of word 2 of an RCALL block (R262). -/
def callClass (h : Here) (b : BitVec 8) : Nat := fld (h.arg b 2).toNat 29 3
def callLayer (h : Here) (b : BitVec 8) : Nat := fld (h.arg b 2).toNat 26 3
def callEntry (h : Here) (b : BitVec 8) : Nat := fld (h.arg b 2).toNat 0 26

/-- The arguments of an RCALL pass R262; no swap that has begun holds its target back (R95), and no walk of it waits for a channel
(R339). -/
def CallArgs (s : State) (h : Here) (b : BitVec 8) : Prop :=
  callLayer h b ∈ [1, 3, 4] ∧ callEntry h b < h.t.codeLen ∧ callEntry h b % 4 = 0
    ∧ (callLayer h b = 4 → s.movingIn h.t.oid (h.arg64 b 0) 1 = false ∧ walkWaits (s.walksOf h.t.oid (h.arg64 b 0) 1) = []
      ∧ s.anyHost h.t.oid (h.arg64 b 0) 1 = false) ∧ h.c.calls.length < 8

/-- The call that an executor takes (R263, R353), before it has its token. -/
def callMade (s : State) (h : Here) (b : BitVec 8) (narg : BitVec 5) (nret : BitVec 4) (ex : Nat) : Call :=
  { token := 0, ex := ex, team := h.team, coach := h.ci, oid := h.t.oid, deadline := s.slot + 16 * 4 ^ callClass h b,
    nret := nret.toNat, known := h.c.acq, payload := (List.range narg.toNat).map fun i => h.arg b (4 + i), entry := callEntry h b,
    caller := { h.t with coaches := [], scratch := [], lanes := [], acc := [], envs := [], rdvs := [] } }

/-- The token of the next call of an executor (R263). -/
def nextToken (s : State) (ex : Nat) : Word :=
  BitVec.ofNat 32 (pack [(1, 0), (11, ex), (20, (Cells.get {} s.executors ex).seq % 2 ^ 20)])

/-! ### Matrix jobs -/

/-- The rendezvous that an arrival finds open or opens, with the arrival in it (R281). -/
def meeting (h : Here) (fresh : Rendezvous) (arr : Arrival) (unseen : List Nat) : Rendezvous :=
  let r := (h.t.rdvs.find? fun r => r.pm = fresh.pm).getD fresh
  { r with arrived := if r.arrived.any fun a => a.coach = h.ci then r.arrived else r.arrived ++ [arr],
           unseen := r.unseen ++ unseen }

/-- What a collective instruction does at a rendezvous whose block agrees (R281, R282): the last participant starts the
job and ends the others' parks; any other parks after its trailer. -/
def Meets (i : Instr) (s : State) (h : Here) (sw : Bool) (fresh : Rendezvous) (arr : Arrival) (unseen : List Nat)
    (vf vr : Option (Nat × Nat)) : Prop :=
  let r := meeting h fresh arr unseen
  let s1 := if (h.t.rdvs.find? fun x => x.pm = fresh.pm).isSome then s else { s with fresh := s.fresh + 1 }
  let g := h.joined r.id vf vr
  let others := h.t.rdvs.filter fun x => x.id ≠ r.id
  r.loop = fresh.loop → r.block = fresh.block →
    (r.arrived.length = maskCount r.pm →
      exec i s = .next (after
        { s1 with
          jobs := s.jobs ++ [r.job h.team h.t (((Cells.find s.nodes h.t.node).map Node.deadline).getD 0)]
          teams := Cells.modify s.teams h.team fun t => { t with coaches := t.coaches.map fun c => c.unmeet r.id } }
        { g with t := { h.t with rdvs := others } } sw))
    ∧ (r.arrived.length ≠ maskCount r.pm →
      exec i s = .next (after s1
        { g.setRun { h.run with after := h.run.after ++ [.rendezvous r.id] } with
          t := { h.t with rdvs := others ++ [r] } } sw))

/-- The coach is whole and its EXEC is full (R281). -/
def Whole (h : Here) : Prop := h.c.subs.length = 1 ∧ h.g.exec = 0xFFFFFFFF

/-- The identifiers of a matrix block (R279). -/
def matA (h : Here) (b : BitVec 8) : List DWord := h.c.tid (fld (h.arg b 0).toNat 24 8)
def matB (h : Here) (b : BitVec 8) : List DWord := h.c.tid (fld (h.arg b 0).toNat 16 8)

/-- The elements along K that an MLOOP reads (R285). -/
def loopK (h : Here) (b : BitVec 8) : Nat := min (tidDim (matA h b) 0) ((h.arg b 2).toNat * stepK (tidFmt (matA h b)))

/-- The checks that MMA and MLOOP share hold (R276, R280). -/
def CollectiveArgs (h : Here) (b : BitVec 8) : Prop :=
  (h.arg b 1).getLsbD h.ci = true ∧ (h.arg b 1).toNat < 2 ^ h.t.coaches.length
    ∧ maskCount (h.arg b 1) ∈ [1, 2, 4, 8, 16, 32] ∧ badPair (matA h b) (matB h b) = false
    ∧ tidDim (matA h b) 1 ≤ 128 ∧ tidDim (matB h b) 1 ≤ 128 ∧ tidDim (matA h b) 0 = tidDim (matB h b) 0
    ∧ tidOk (matA h b) = true ∧ tidOk (matB h b) = true

/-- Registers of a participant's operand and result fragments (R283, R284). -/
def fragment (h : Here) (b : BitVec 8) : Nat := 128 / maskCount (h.arg b 1)
def resultRegs (h : Here) (b : BitVec 8) : Nat := 512 / maskCount (h.arg b 1)
def resultBase (h : Here) (b : BitVec 8) : Nat := fld (h.arg b 2).toNat 0 8

/-- The job of a coach alone, its node's deadline with it (R282). -/
def ownJob (s : State) (h : Here) (work : JobWork) (pages : List (Nat × Nat)) (late : Option (Nat × Nat × Nat × Nat)) :
    Job :=
  { id := s.fresh, team := h.team, core := h.t.core, oid := h.t.oid, coaches := [h.ci], work := work, pages := pages,
    deadline := ((Cells.find s.nodes h.t.node).map Node.deadline).getD 0, late := late }

/-- The state after a job of the issuer's own has started; the job awaits an MWAIT (R282). -/
def started (s : State) (h : Here) (work : JobWork) (pages : List (Nat × Nat))
    (late : Option (Nat × Nat × Nat × Nat)) (sw : Bool) : State :=
  after { s with jobs := s.jobs ++ [ownJob s h work pages late], fresh := s.fresh + 1 }
    { h with c := { h.c with jobs := h.c.jobs ++ [s.fresh] } } sw

/-- The arguments of an MDRAIN (R280). -/
def drainOut (h : Here) (b : BitVec 8) : List DWord := h.c.tid (fld (h.arg b 0).toNat 16 8)
def drainLayer (h : Here) (b : BitVec 8) : Nat := fld (h.arg b 1).toNat 29 3
def maxLayer (h : Here) (b : BitVec 8) : Nat := fld (h.arg b 1).toNat 26 3
def DrainArgs (h : Here) (b : BitVec 8) (tm : BitVec 1) : Prop :=
  drainFmt (tidFmt (drainOut h b)) = true ∧ tidBlk (drainOut h b) = 0 ∧ tidRank (drainOut h b) = 2
    ∧ tidDim (drainOut h b) 1 ≤ 128 ∧ tidDim (drainOut h b) 0 ≤ 128 ∧ drainLayer h b < 5 ∧ maxLayer h b < 5
    ∧ fld (h.arg b 1).toNat 11 3 ≠ 7 ∧ tidOk (drainOut h b) = true ∧ (tm = 1 → h.arg64 b 4 % 4 = 0)

/-- The pages of an MDRAIN's output and of its maximum (R95). -/
def drainPages (s : State) (h : Here) (b : BitVec 8) (tm : BitVec 1) : List (Nat × Nat) :=
  s.snapshot h.t.oid (drainLayer h b) (h.arg64 b 2)
      ((tidDim (drainOut h b) 1 - 1) * tidStr (drainOut h b) 1 + lineBytes (drainOut h b) (tidDim (drainOut h b) 0))
    ++ if tm = 1 then s.snapshot h.t.oid (maxLayer h b) (h.arg64 b 4) 4 else []

/-- The arguments of a QUANT2 (R280, R287). -/
def quantIn (h : Here) (b : BitVec 8) : List DWord := h.c.tid (fld (h.arg b 0).toNat 24 8)
def quantRow (h : Here) (b : BitVec 8) : List DWord := h.c.tid (fld (h.arg b 0).toNat 16 8)
def quantCol (h : Here) (b : BitVec 8) : List DWord := h.c.tid (fld (h.arg b 0).toNat 8 8)
def QuantArgs (h : Here) (b : BitVec 8) : Prop :=
  tidFmt (quantIn h b) ∈ [4, 5, 6] ∧ tidFmt (quantRow h b) = tidFmt (quantCol h b) ∧ tidFmt (quantRow h b) ∈ [7, 8, 1]
    ∧ (∀ t, t = quantRow h b ∨ t = quantCol h b → tidDim t 0 = tidDim (quantIn h b) 0
      ∧ tidDim t 1 = tidDim (quantIn h b) 1 ∧ tidRank t = 2 ∧ tidBlock t = 32 ∧ tfld t 1 56 3 = 0 ∧ tidOk t = true)
    ∧ tidRank (quantIn h b) = 2 ∧ tidDim (quantIn h b) 0 ≤ 128 ∧ tidDim (quantIn h b) 1 ≤ 128
    ∧ tidBax (quantRow h b) = 0 ∧ tidBax (quantCol h b) = 1 ∧ tidOk (quantIn h b) = true

end Sys2Proof.Claims

/-- R94, R255 to R257, R260, R280, R288: a COPY, a GSJOB and an MVSTACK whose checks pass are admitted or refused as
R255 says. Where the reservations are placed is the model's choice (log entry 19), and so are a bound of 0, the order of
the ranges of a scatter and the address of a failing range (log entries 37, 45 and 53). -/
def Obligations.EngineRequestsAnswered : Prop :=
  (∀ s h sw b sl dl xf tag src dst, Issues false s h → TagFree h tag.toNat → CopyArgs h b sl dl xf →
    s.wholeRange h.agent sl.toNat .load (h.arg64 b 0) (copySrcLen h b xf) = .ok src →
    s.wholeRange h.agent dl.toNat .store (h.arg64 b 2) (h.arg b 4).toNat = .ok dst →
    RequestAnswered (.copy sw b sl dl xf tag) s h sw b (copyRequest s h b sl dl xf tag src dst)
      (pathTransit (Config.towerOf h.t.core) (src ++ dst))
      (byteNeeds src dst ++ if xf ≠ 0 ∧ dl = 4 then drayNeeds dst else []))
  ∧ (∀ s h sw b dir iw es dl tag table index dense, Issues false s h → TagFree h tag.toNat → GsArgs s h b iw es →
    GsRanges s h b (dir = 1) iw es dl table index dense →
    RequestAnswered (.gsjob sw b dir iw es dl tag) s h sw b (gsRequest s h b (dir = 1) iw es tag table index dense)
      (gsTransit (Config.towerOf h.t.core) (s.tableStack h.t.oid (h.arg64 b 0)) (index ++ dense))
      [.spread (8 + s.tableStack h.t.oid (h.arg64 b 0)) (h.arg b 4).toNat,
        .spread (s.tableStack h.t.oid (h.arg64 b 0)) ((h.arg b 4).toNat * gsBytes es)])
  ∧ ∀ s h sw b va sa vb sb vy, Issues false s h → TagFree h (fld (h.arg b 1).toNat 0 6) → MvArgs s h b →
    MvRanges s h b va sa vb sb vy →
    RequestAnswered (.mvstack sw b) s h sw b (mvRequest s h b va sa vb sb vy)
      (pathTransit (Config.towerOf h.t.core) (vb ++ sa ++ sb))
      [.spread (mvStack vb) (lineBytes (mvA h b) (mvRows h b) + 4 * mvColumns h b
        + (mvColumns h b * lineBytes (mvB h b) (mvRows h b) + 3) / 4)]

/-- R255, R262, R263 and R353: an RCALL whose checks pass is admitted (it is queued at its executor under the token that
the status shows) or refused, with the hint in the status. Where the reservations are placed, and the layout of a token,
are log entries 19 and 28; the target is checked as a load of one byte (log entry 45). -/
def Obligations.RemoteCallsAnswered : Prop :=
  ∀ s h sw b narg nret sc ps loc ex, Issues false s h → CallArgs s h b →
    s.wholeRange h.agent (callLayer h b) .load (h.arg64 b 0) 1 = .ok ps → pieceLoc ps 0 = some loc →
    ex = executorOf (callLayer h b) h.t.core loc →
    let ask := s.tryAdmit h.t.oid (callClass h b) (callTransit (Config.towerOf h.t.core) ex) []
      (callNeeds ex (callClass h b) narg.toNat nret.toNat)
    (∀ s', ask = .ok s' → exec (.rcall sw b narg nret sc) s = .next (after
      { s' with
        calls := Cells.put s'.calls s'.fresh { callMade s' h b narg nret ex with token := nextToken s' ex }
        executors := Cells.put s'.executors ex
          { Cells.get {} s'.executors ex with
            queue := (Cells.get {} s'.executors ex).queue ++ [s'.fresh]
            seq := ((Cells.get {} s'.executors ex).seq + 1) % 2 ^ 20
            recent := ((nextToken s' ex, none) :: (Cells.get {} s'.executors ex).recent).take 4096 }
        fresh := s'.fresh + 1 }
      { (h.setStatus b 3 (nextToken s' ex).toNat) with
        c := { (h.setStatus b 3 (nextToken s' ex).toNat).c with calls := h.c.calls ++ [s'.fresh] } } sw))
    ∧ ∀ k, ask = .error k → exec (.rcall sw b narg nret sc) s = .next (after (s.count (0x300 + callClass h b))
      (h.setStatus b 3 (2 ^ 31 + k)) sw)

/-- R276 to R285: an MMA and an MLOOP whose checks pass join their rendezvous. That a second arrival of a coach adds no
participant is the model's choice (log entry 45), and so is whose identifiers govern the job (log entry 53). -/
def Obligations.CollectiveJobsMeet : Prop :=
  (∀ s h sw b f rb za rm sa sb, Issues false s h → h.t.accu = true → Whole h → CollectiveArgs h b →
    f.toNat % fragment h b = 0 → f.toNat < 192 → f.toNat + fragment h b ≤ h.c.allot → VsFree h f.toNat (fragment h b) →
    tidDim (matA h b) 0 ≤ stepK (tidFmt (matA h b)) →
    (rb = 1 → resultBase h b + resultRegs h b ≤ h.c.allot ∧ VsFree h (resultBase h b) (resultRegs h b)
      ∧ (f.toNat + fragment h b ≤ resultBase h b ∨ resultBase h b + resultRegs h b ≤ f.toNat)) →
    s.scaleRange h.agent .load (matA h b) = .ok sa → s.scaleRange h.agent .load (matB h b) = .ok sb →
    Meets (.mma sw b f rb za rm) s h sw
      { id := s.fresh, pm := h.arg b 1, loop := false, opts := pack [(1, rb.toNat), (1, za.toNat), (2, rm.toNat)],
        block := [h.arg b 0, h.arg b 1], arrived := [], a := matA h b, b := matB h b, ra := [], rb := [], sa := sa,
        sb := sb }
      { coach := h.ci, vf := f.toNat, vr := resultBase h b, pc := h.g.pc, word := h.run.word }
      (h.unseenV f.toNat (fragment h b) ++ h.unseenScratch) (some (f.toNat, fragment h b))
      (if rb = 1 then some (resultBase h b, resultRegs h b) else none))
  ∧ ∀ s h sw b za rm ra rb sa sb, Issues false s h → h.t.accu = true → Whole h → CollectiveArgs h b →
    (h.arg b 2).toNat ≠ 0 → (h.arg b 2).toNat ≤ 65536 →
    ((h.arg b 2).toNat - 1) * stepK (tidFmt (matA h b)) < tidDim (matA h b) 0 →
    s.tensorRange h.agent 0 .load (h.arg b 3).toNat (matA h b) (loopK h b) = .ok ra →
    s.tensorRange h.agent 0 .load (h.arg b 4).toNat (matB h b) (loopK h b) = .ok rb →
    s.scaleLines h.agent .load (matA h b) (loopK h b) = .ok sa →
    s.scaleLines h.agent .load (matB h b) (loopK h b) = .ok sb →
    Meets (.mloop sw b za rm) s h sw
      { id := s.fresh, pm := h.arg b 1, loop := true, opts := pack [(1, 0), (1, za.toNat), (2, rm.toNat)],
        block := (List.range 5).map (h.arg b), arrived := [], a := matA h b, b := matB h b, ra := ra, rb := rb, sa := sa,
        sb := sb }
      { coach := h.ci, vf := 0, vr := 0, pc := h.g.pc, word := h.run.word } h.unseenScratch none none

/-- R280, R282, R286 and R287: an MDRAIN and a QUANT2 whose checks pass start their job, an MDRAIN without its
translations where a page of its output awaits a swap (R95; log entry 12); MWAIT matches every job not matched yet, and
parks after its trailer where there is one. Each job is performed in one step, at its completion (log entry 12). -/
def Obligations.DrainsQuantizesAndWaits : Prop :=
  (∀ s h sw b tm sat rm dst max, Issues false s h → h.t.accu = true → DrainArgs h b tm →
    s.tensorRange h.agent (drainLayer h b) .store (h.arg64 b 2) (drainOut h b) (tidDim (drainOut h b) 0) = .ok dst →
    (if tm = 1 then s.wholeRange h.agent (maxLayer h b) .atomic (h.arg64 b 4) 4 = .ok max else max = []) →
    let wait := s.swapPending h.t.oid (drainPages s h b tm)
    exec (.mdrain sw b tm sat rm) s = .next (started s h
      (.mdrain (drainOut h b) (fld (h.arg b 0).toNat 0 3) (tm == 1) (sat == 1) rm.toNat dst max)
      (if wait then [] else drainPages s h b tm)
      (if wait then some (drainLayer h b, h.arg64 b 2, maxLayer h b, h.arg64 b 4) else none) sw))
  ∧ (∀ s h sw b src ss ro co rs cs, Issues false s h → h.t.accu = true → QuantArgs h b →
    s.tensorRange h.agent 0 .load (h.arg b 1).toNat (quantIn h b) (tidDim (quantIn h b) 0) = .ok src →
    s.scaleRange h.agent .load (quantIn h b) = .ok ss →
    s.tensorRange h.agent 0 .store (h.arg b 2).toNat (quantRow h b) (tidDim (quantRow h b) 0) = .ok ro →
    s.tensorRange h.agent 0 .store (h.arg b 3).toNat (quantCol h b) (tidDim (quantCol h b) 0) = .ok co →
    s.scaleRange h.agent .store (quantRow h b) = .ok rs → s.scaleRange h.agent .store (quantCol h b) = .ok cs →
    exec (.quant2 sw b) s = .next (started s h (.quant2 (quantIn h b) (quantRow h b) (quantCol h b)
      (src ++ ss.map fun p => { p with off := p.off + 2 ^ 60 }) ro co rs cs) [] none sw))
  ∧ ∀ s h sw, Issues false s h → exec (.mwait sw) s = .next (after s
      (if h.c.jobs = [] then h
      else { h.setRun { h.run with after := h.run.after ++ [.mwait h.c.jobs] } with c := { h.c with jobs := [] } }) sw)

namespace Sys2Proof.Claims

/-! ### Planes -/

/-- The descriptors pass the checks of R67, and no register of theirs is on the scoreboard (R181). -/
def PlanesReady (h : Here) (ps : List Plane) (fold : Bool) : Prop :=
  (∀ p ∈ ps, p.ok h.c.allot = true ∧ ∀ r < p.sheets * p.nr, h.c.boarded (p.base + r) = false)
    ∧ (∀ p ∈ ps, ∀ q ∈ ps, p.agree q = true) ∧ (fold = true → ∀ p ∈ ps, ∀ q ∈ ps, p.fold = q.fold)

/-- Element arithmetic (R272): exact, then saturated or rounded; maximum and minimum as R65. -/
def planeArith : Instr → Option (Bool × BitVec 3 × BitVec 3 × BitVec 3 × (Elem → Nat → Nat → Nat))
  | .padd sw d a b => some (sw, d, a, b, fun k x y => match k with
      | .int w => wrapInt w (satInt w (sext w x + sext w y))
      | .float f => roundF f 0 false ((fval f x).add (fval f y)))
  | .psub sw d a b => some (sw, d, a, b, fun k x y => match k with
      | .int w => wrapInt w (satInt w (sext w x - sext w y))
      | .float f => roundF f 0 false ((fval f x).add (fval f y).neg))
  | .pmul sw d a b => some (sw, d, a, b, fun k x y => match k with
      | .int w => wrapInt w (satInt w (sext w x * sext w y))
      | .float f => roundF f 0 false ((fval f x).mul (fval f y)))
  | .pmax sw d a b => some (sw, d, a, b, fun k x y => match k with
      | .int w => if sext w x ≤ sext w y then y else x
      | .float f => pickF f true x y)
  | .pmin sw d a b => some (sw, d, a, b, fun k x y => match k with
      | .int w => if sext w x ≤ sext w y then x else y
      | .float f => pickF f false x y)
  | _ => none

/-- A line of a plane: column `j`, or row `i`. -/
def column (h : Here) (q : Plane) (m z j : Nat) : List Nat := (List.range q.rows).map fun x => h.elem q m z x j
def row (h : Here) (q : Plane) (m z i : Nat) : List Nat := (List.range q.cols).map fun x => h.elem q m z i x

/-- The result of PFOLD at an element: the edge toward the direction holds the reduced lines (R65). -/
def folded (h : Here) (q : Plane) (op dir m z i j : Nat) : Option Nat :=
  if dir = 0 then (if i = 0 then some (foldLine q.elem op (column h q m z j)) else none)
  else if dir = 1 then (if i + 1 = q.rows then some (foldLine q.elem op (column h q m z j)) else none)
  else if dir = 2 then (if j = 0 then some (foldLine q.elem op (row h q m z i)) else none)
  else if j + 1 = q.cols then some (foldLine q.elem op (row h q m z i)) else none

/-! ### Envelopes -/

/-- The envelope register `e` in place of register `i`. -/
def withEnv (h : Here) (i : BitVec 4) (e : Env) : Here := { h with t := { h.t with envs := Cells.set {} h.t.envs i.toNat e } }

/-- Operations of the envelope unit on registers (R365, R367 to R369, R374): SW, destination and result. -/
def envelopeResult (h : Here) : Instr → Option (Bool × BitVec 4 × Env)
  | .envclr sw d _ 0 => some (sw, d, {})
  | .envsum sw a d b => some (sw, d, combine (h.env a) (h.env b) false (sumLines (h.env a).lines (h.env b).lines))
  | .envmax sw a d b => some (sw, d, combine (h.env a) (h.env b) true fun _ _ => (h.env a).lines ++ (h.env b).lines)
  | .envconv sw a d b =>
    let x := h.env a
    let y := h.env b
    let lo := ((boundOf x.lo).add (boundOf y.lo)).round 3
    let hi := ((boundOf x.hi).add (boundOf y.hi)).round 2
    let sl := (slopeRange x).1.max (slopeRange y).1
    let sh := (slopeRange x).2.min (slopeRange y).2
    some (sw, d, if x.void || y.void then voidEnv
      else if x.lines = [] ∨ y.lines = [] then bottomEnv lo hi false
      else if sh.lt sl then bottomEnv lo hi true else envOn lo hi (convLines x y sl sh))
  | .envleg sw a d => some (sw, d, conjugate (h.env a))
  | .envsimp sw a d =>
    let e := h.env a
    some (sw, d, if e.void || e.lines = [] then e
      else { e with lines := simplify h.c.etol (boundOf e.lo) (boundOf e.hi) e.lines e.lines e.lines, empty := false })
  | _ => none

/-- The base of an envelope image may be used, and is its address (R362, R372). -/
def EnvBase (h : Here) (space : Nat) (r : BitVec 8) (ea : Nat) : Prop :=
  r.toNat < 248 ∧ UniBlock h r (if space = 5 then 2 else 1)
    ∧ ea = (if space = 5 then (h.uPair r.toNat).1.toNat else (h.u r.toNat).1.toNat) ∧ ea % 16 = 0

/-- The function that an image holds (R371, R373). -/
def imageEnv (w : List Word) (ls : List Line) : Env :=
  if fld (w.getD 0 0).toNat 31 1 = 1 then voidEnv
  else { envOn (w.getD 2 0) (w.getD 3 0) ls with empty := fld (w.getD 0 0).toNat 30 1 == 1 }

/-- The units of an image stored in increasing order (R373). -/
def imageStored (s : State) (h : Here) (ws : List Word) (cs : List Checked) : State :=
  (cs.zipIdx).foldl (fun s p => s.storeData h p.1.loc p.1.leaf (h.c.releases h.spot none)
    (wordBytes [ws.getD (2 * p.2) 0, ws.getD (2 * p.2 + 1) 0])) s

/-- An even V pair that may be used (R290). -/
def VPair (h : Here) (f : BitVec 8) : Prop := f.toNat % 2 = 0 ∧ f.toNat < 192 ∧ VsFree h f.toNat 2

end Sys2Proof.Claims

/-- R53, R54 and R61: the place of an element names the element back: no two elements of a plane share a place. -/
def Obligations.PlanePlacesNameTheirElements : Prop :=
  ∀ p allot n d i j, Plane.ok p allot = true → (∃ x, p = planeOf x) → d < p.depth → i < p.rows → j < p.cols →
    (if p.gh * p.gw ≤ 32 then n < 32 / (p.gh * p.gw) else n = 0) →
    (p.at_ n d i j).1 < 32 ∧ p.base ≤ (p.at_ n d i j).2.1 ∧ (p.at_ n d i j).2.1 < p.base + p.sheets * p.nr
    ∧ p.from_ (p.at_ n d i j).1 ((p.at_ n d i j).2.1 - p.base) ((p.at_ n d i j).2.2 / p.elem.width) = some (n, d, i, j)

/-- R63 to R68, R271: PSHIFT, PROT, PSPREAD, PFOLD and PREFOLD write the active lanes of the destination plane from the
source plane as it stood. -/
def Obligations.PlaneMovesComplete : Prop :=
  (∀ s h sw d a sk dir fl n, Issues false s h → PlanesReady h [h.plane d, h.plane a] true →
    exec (.pshift sw d a sk dir fl n) s = .next (after s (h.writePlane (h.plane d)
      (h.planeTaint (h.plane a) || (fl == 1 && Cells.get false h.c.st sk.toNat)) fun m z i j =>
        let f := moveFrom dir.toNat n.toNat i j
        if 0 ≤ f.1 ∧ f.1 < (h.plane a).rows ∧ 0 ≤ f.2 ∧ f.2 < (h.plane a).cols then
          some (h.elem (h.plane a) m z f.1.toNat f.2.toNat)
        else some (if fl = 1 then fld (h.s sk.toNat).toNat 0 (h.plane d).elem.width else 0)) sw))
  ∧ (∀ s h sw d a dir n, Issues false s h → PlanesReady h [h.plane d, h.plane a] true →
    exec (.prot sw d a dir n) s = .next (after s (h.writePlane (h.plane d) (h.planeTaint (h.plane a)) fun m z i j =>
        let f := moveFrom dir.toNat n.toNat i j
        some (h.elem (h.plane a) m z (f.1 % (h.plane a).rows).toNat (f.2 % (h.plane a).cols).toNat)) sw))
  ∧ (∀ s h sw d a axis r, Issues false s h → PlanesReady h [h.plane d, h.plane a] true →
    r.toNat < (if axis = 0 then (h.plane a).rows else (h.plane a).cols) →
    exec (.pspread sw d a axis r) s = .next (after s (h.writePlane (h.plane d) (h.planeTaint (h.plane a)) fun m z i j =>
        some (if axis = 0 then h.elem (h.plane a) m z r.toNat j else h.elem (h.plane a) m z i r.toNat)) sw))
  ∧ (∀ s h sw d a op dir, Issues false s h → PlanesReady h [h.plane d, h.plane a] true →
    exec (.pfold sw d a op dir) s = .next (after s (h.writePlane (h.plane d) (h.planeTaint (h.plane a))
      (folded h (h.plane a) op.toNat dir.toNat)) sw))
  ∧ ∀ s h sw d a, Issues false s h → PlanesReady h [h.plane d, h.plane a] false →
    exec (.prefold sw d a) s = .next (after s (h.writePlane (h.plane d) (h.planeTaint (h.plane a)) fun m z i j =>
        some (h.elem (h.plane a) m z i j)) sw)

/-- R272: PADD, PSUB, PMUL, PMAX and PMIN. -/
def Obligations.PlaneArithmeticResults : Prop :=
  ∀ i s h sw d a b f, planeArith i = some (sw, d, a, b, f) → Issues false s h →
    PlanesReady h [h.plane d, h.plane a, h.plane b] true →
    exec i s = .next (after s (h.writePlane (h.plane d) (h.planeTaint (h.plane a) || h.planeTaint (h.plane b)) fun m z i j =>
        some (f (h.plane a).elem (h.elem (h.plane a) m z i j) (h.elem (h.plane b) m z i j))) sw)

/-- R135, R274 and R289: TIDSET, TIDGET, PDSET and PDGET move identifiers and plane descriptors. -/
def Obligations.DescriptorMovesComplete : Prop :=
  (∀ s h sw v x wd, Issues false s h → UsablePair h v → Usable h x →
    exec (.tidset sw v x wd) s = .next (after s { h with c := { h.c with
      tids := Cells.set 0 h.c.tids (16 * ((h.u x.toNat).1.toNat % 256) + wd.toNat)
        ((h.uPair v.toNat).1 &&& BitVec.ofNat 64 (tidMask wd.toNat)) } } sw))
  ∧ (∀ s h sw d x wd, Issues false s h → UsablePair h d → Usable h x →
    exec (.tidget sw d x wd) s = .next (after s
      ((h.setUPair d.toNat (Cells.get 0 h.c.tids (16 * ((h.u x.toNat).1.toNat % 256) + wd.toNat)) (h.u x.toNat).2).long
        (h.uKeys d.toNat 2)) sw))
  ∧ (∀ s h sw d x, Issues false s h → x.toNat % 2 = 0 → 192 ≤ x.toNat → x.toNat ≤ 246 →
    exec (.pdset sw d x) s = .next (after s { h with c := { h.c with
      pd := Cells.set 0 h.c.pd d.toNat (BitVec.ofNat 64 ((h.uPair x.toNat).1.toNat / 2 ^ 17 * 2 ^ 17)) } } sw))
  ∧ ∀ s h sw a x, Issues false s h → VPair h x →
    exec (.pdget sw a x) s = .next (after s (h.eachLane fun g l =>
      (g.setV x.toNat l (BitVec.ofNat 32 (Cells.get 0 h.c.pd a.toNat).toNat) false).setV (x.toNat + 1) l
        (BitVec.ofNat 32 ((Cells.get 0 h.c.pd a.toNat).toNat / 2 ^ 32)) false) sw)

/-- R356 to R370 and R374: ENVCLR, ENVSUM, ENVMAX, ENVCONV, ENVLEG and ENVSIMP write their result, if it holds at most CAP
lines; ENVCLR with a domain, ENVINS and ENVEVAL. -/
def Obligations.EnvelopeResults : Prop :=
  (∀ i s h sw d e, envelopeResult h i = some (sw, d, e) → Issues false s h → h.t.envu = true →
    e.lines.length ≤ h.c.ecap.toNat → exec i s = .next (after s (withEnv h d e) sw))
  ∧ (∀ s h sw d r, Issues false s h → h.t.envu = true → r.toNat < 248 → UsablePair h r →
    okDomain (h.u r.toNat).1 (h.u (r.toNat + 1)).1 = true →
    exec (.envclr sw d r 1) s = .next (after s (withEnv h d { lo := (h.u r.toNat).1, hi := (h.u (r.toNat + 1)).1 }) sw))
  ∧ (∀ s h sw d a new e, Issues false s h → h.t.envu = true → VPair h a →
    new = ((lanesOf h.g.exec).filter fun l => finite32 (h.v a.toNat l) && finite32 (h.v (a.toNat + 1) l)).map
      (fun l => (h.v a.toNat l, h.v (a.toNat + 1) l)) →
    e = (if (h.env d).void then { h.env d with empty := false }
      else envOn (h.env d).lo (h.env d).hi ((h.env d).lines ++ new)) →
    (h.g.exec = 0 ∨ e.lines.length ≤ h.c.ecap.toNat) →
    exec (.envins sw d a) s = .next (after s (if h.g.exec = 0 then h else withEnv h d e) sw))
  ∧ ∀ s h sw d x a, Issues false s h → h.t.envu = true → d.toNat < 192 → VFree h d.toNat → Usable h x →
    exec (.enveval sw d x a) s = .next (after s (if lanesOf h.g.exec = [] then h else (h.eachLane fun g l =>
      g.setV d.toNat l (evalEnv (h.env a) (h.l x.toNat l).1) (h.l x.toNat l).2).long
        ((lanesOf h.g.exec).map (keyV d.toNat))) sw)

/-- R362, R371 to R373: ENVLD and ENVST. Each unit is accessed in the step of the instruction (log entry 1); an ENVLD waits for
the channels of its image that a kernel holds (log entry 54), and a unit of an ENVST waits in such a channel as any store. -/
def Obligations.EnvelopeImagesComplete : Prop :=
  (∀ s h sw wh d r ea head w body ls, Issues false s h → h.t.envu = true → EnvBase h (spaceOfWh wh.toNat) r ea →
    s.envUnits h (spaceOfWh wh.toNat) .load ea 2 = .ok head → w = s.unitWords h head → badHeader w = false →
    s.envUnits h (spaceOfWh wh.toNat) .load (ea + 16) (fld (w.getD 0 0).toNat 0 11) = .ok body →
    ls = pairsOf (s.unitWords h body) → (∀ l ∈ ls, finite32 l.1 = true ∧ finite32 l.2 = true) →
    (imageEnv w ls).lines.length ≤ h.c.ecap.toNat →
    exec (.envld sw wh d r) s = .next (after (s.noteAll h.agent (spaceOfWh wh.toNat) (head ++ body))
      (observed s h (spaceOfWh wh.toNat) none 8 (head ++ body) (withEnv h d (imageEnv w ls))) sw))
  ∧ ∀ s h sw wh d r ea cs, Issues false s h → h.t.envu = true → EnvBase h (spaceOfWh wh.toNat) r ea →
    s.envUnits h (spaceOfWh wh.toNat) .store ea (2 + (h.env d).lines.length) = .ok cs →
    let x := imageStored s h (envImage (h.env d)) cs
    exec (.envst sw wh d r) s = .next (after (x.noteAll h.agent (spaceOfWh wh.toNat) cs)
      (stored s x (spaceOfWh wh.toNat) (cs.foldl (fun g c => g.markDirty c.loc 8) h)) sw)

/-- R141, R142 and R290: SMXACC takes the step of R141 over n rows' registers in each active lane, SMXFIN finishes. The
new maximum carries the taint of the old one and of X, the new sum also that of the old sum (R112). An infinite
difference and the sign of a zero maximum are log entries 43 and 53. -/
def Obligations.SoftmaxComplete : Prop :=
  (∀ s h sw p a nm1, Issues false s h → VPair h p → a.toNat < 192 → VsFree h a.toNat (nm1.toNat + 1) →
    exec (.smxacc sw p a nm1) s = .next (after s (h.eachLane fun g l =>
      let r := smxStep (h.v p.toNat l) (h.v (p.toNat + 1) l) ((List.range (nm1.toNat + 1)).map fun i => h.v (a.toNat + i) l)
      let taint := h.vTaint p.toNat 1 l || h.vTaint a.toNat (nm1.toNat + 1) l
      (g.setV p.toNat l r.1 taint).setV (p.toNat + 1) l r.2 (taint || h.vTaint (p.toNat + 1) 1 l)) sw))
  ∧ ∀ s h sw d p, Issues false s h → VPair h d → VPair h p →
    exec (.smxfin sw d p) s = .next (after s (h.eachLane fun g l =>
      let r := smxFin (h.v p.toNat l) (h.v (p.toNat + 1) l)
      (g.setV d.toNat l r.1 (h.vTaint p.toNat 2 l)).setV (d.toNat + 1) l r.2 (h.vTaint p.toNat 2 l)) sw)

namespace Sys2Proof.Claims

/-! ### Dray kernels -/

/-- Dray `ch` issues the word of its address thread (`addr`) or of its arithmetic thread, and may run: no window is open, and no
new clock ratio has suspended its kernel (R331, R341, R346). -/
def DrayIssues (s : State) (ch : Nat) (addr : Bool) (d : Dray) : Prop :=
  s.drayHere = some (ch, addr, d) ∧ s.drayRuns ch d = true

/-- The dray in place of the one on channel `ch`. -/
def withDray (s : State) (ch : Nat) (d : Dray) : State := { s with drays := Cells.put s.drays ch d }

/-- The dray one word on. -/
def aStep (d : Dray) : Dray := { d with pcA := d.pcA + 1 }
def xStep (d : Dray) : Dray := { d with pcX := d.pcX + 1 }

/-- The row command of an address word, where its handle and its columns exist (R334). -/
def commandOf (y : Dray) : Instr → Option RowCmd
  | .drayOpen r => if (y.J r).toNat < y.rows.length then some (.open (y.J r).toNat) else none
  | .drayRead r c n =>
    if (y.J r).toNat < y.rows.length ∧ (y.J c).toNat + (n.toNat + 1) ≤ 64 then
      some (.read (y.J r).toNat (y.J c).toNat (n.toNat + 1)) else none
  | .drayWback k r c f =>
    if (y.J r).toNat < y.rows.length ∧ (y.J c).toNat + (if f = 1 then 2 else 1) ≤ 64 then
      some (.wback (y.J r).toNat (y.J c).toNat k.toNat (f == 1)) else none
  | .drayClose r => if (y.J r).toNat < y.rows.length then some (.close (y.J r).toNat) else none
  | _ => none

/-- The dray after an address word other than a command (R334): the J registers wrap modulo 2^32, and a taken JLOOP stays
within the program. -/
def addressAfter (y : Dray) : Instr → Option Dray
  | .aend => some { y with endA := true }
  | .jmovi d v => some (aStep (y.setJ d (v.zeroExtend 32)))
  | .jaddi d a v => some (aStep (y.setJ d (y.J a + v.signExtend 32)))
  | .jadd d a b => some (aStep (y.setJ d (y.J a + y.J b)))
  | .jloop d o =>
    if y.J d = 1 then some (aStep (y.setJ d 0))
    else if 0 ≤ (y.pcA : Int) + o.toInt ∧ (y.pcA : Int) + o.toInt < y.progA.length then
      some { (y.setJ d (y.J d - 1)) with pcA := ((y.pcA : Int) + o.toInt).toNat }
    else none
  | _ => none

/-- Operand b of an arithmetic word in lane `i`: H[b], or F[b] in every lane with BF = 1 (R336). -/
def laneB (y : Dray) (b : BitVec 4) (f : BitVec 1) (i : Nat) : Word := if f = 1 then Cells.get 0 y.f b.toNat else y.H b i

/-- The dray with H[d] written in its sixteen lanes. -/
def setH (y : Dray) (d : BitVec 4) (f : Nat → Word) : Dray := xStep { y with h := setLanes y.h d.toNat f }

/-- A lane of BA[k] with H[a] added (R337). -/
def accLane (y : Dray) (k a : BitVec 4) (i : Nat) : Word :=
  round32 ((val32 (Cells.get 0 y.ba (16 * k.toNat + i))).add (val32 (y.H a i)))

/-- The dray after a word of the arithmetic thread, where it does not stall (R336, R337). -/
def arithmeticAfter (y : Dray) : Instr → Option Dray
  | .xend => some { y with endX := true }
  | .xpop d f =>
    if f = 0 then
      match y.dataq with
      | e :: rest => some (setH { y with dataq := rest } d fun i => round32 (fval bf16 (entryElem e 2 i)))
      | [] => none
    else
      match y.dataq with
      | e :: g :: rest => some (setH { y with dataq := rest } d fun i =>
          BitVec.ofNat 32 (if i < 8 then entryElem e 4 i else entryElem g 4 (i - 8)))
      | _ => none
  | .xadd d a b f => some (setH y d fun i => round32 ((val32 (y.H a i)).add (val32 (laneB y b f i))))
  | .xmul d a b f => some (setH y d fun i => round32 ((val32 (y.H a i)).mul (val32 (laneB y b f i))))
  | .xfma d a b f => some (setH y d fun i =>
      round32 ((val32 (y.H d i)).add ((val32 (y.H a i)).mul (val32 (laneB y b f i)))))
  | .xmax d a b f => some (setH y d fun i => BitVec.ofNat 32 (pickF fp32 true (y.H a i).toNat (laneB y b f i).toNat))
  | .xmin d a b f => some (setH y d fun i => BitVec.ofNat 32 (pickF fp32 false (y.H a i).toNat (laneB y b f i).toNat))
  | .xset k a => if Cells.get 0 y.rel k.toNat = 0 then some (xStep { y with ba := setLanes y.ba k.toNat (y.H a) }) else none
  | .xacc k a =>
    if Cells.get 0 y.rel k.toNat = 0 then
      some (xStep { y with ba := setLanes y.ba k.toNat (accLane y k a) })
    else none
  | .xrel k => some (xStep { y with rel := Cells.set 0 y.rel k.toNat (Cells.get 0 y.rel k.toNat + 1) })
  | .xcmovi d v => some (xStep { y with c := Cells.set 0 y.c d.toNat (v.zeroExtend 16) })
  | .xloop d o =>
    if Cells.get 0 y.c d.toNat = 1 then some (xStep { y with c := Cells.set 0 y.c d.toNat 0 })
    else if 0 ≤ (y.pcX : Int) + o.toInt ∧ (y.pcX : Int) + o.toInt < y.progX.length then
      some { y with c := Cells.set 0 y.c d.toNat (Cells.get 0 y.c d.toNat - 1), pcX := ((y.pcX : Int) + o.toInt).toNat }
    else none
  | _ => none

/-! ### Celud -/

/-- A Celud thread issues and may run, its node not stopped (R378, R379). -/
def CeludIssues (s : State) (h : CelHere) : Prop :=
  s.celudHere = some h ∧ h.active = true ∧ s.nodeStopped h.t.node = false

/-- The state in which the thread has written `x` to register `d` and stands at the next word; a literal takes one more
(R381). -/
def celudWrote (s : State) (h : CelHere) (lit : Option (BitVec 64)) (d : BitVec 12) (x : DWord) : State :=
  s.putThread h { h.th with regs := Cells.set 0 h.th.regs d.toNat x, pc := h.th.pc + if lit.isSome then 2 else 1 }

/-- Celud words on two 32-bit sources, the last perhaps a literal (R224, R225, R232 to R234, R382). -/
def celudBinary : Instr → Option (Option (BitVec 64) × BitVec 12 × BitVec 12 × BitVec 12 × (Word → Word → Word))
  | .celudAdd l d a b => some (l, d, a, b, fun x y => x + y)
  | .celudSub l d a b => some (l, d, a, b, fun x y => x - y)
  | .celudMul l d a b => some (l, d, a, b, fun x y => x * y)
  | .celudMulh l d a b => some (l, d, a, b, fun x y => BitVec.ofInt 32 (x.toInt * y.toInt / 2 ^ 32))
  | .celudMin l d a b => some (l, d, a, b, fun x y => if x.toInt ≤ y.toInt then x else y)
  | .celudMax l d a b => some (l, d, a, b, fun x y => if x.toInt ≤ y.toInt then y else x)
  | .celudAnd l d a b => some (l, d, a, b, fun x y => x &&& y)
  | .celudOr l d a b => some (l, d, a, b, fun x y => x ||| y)
  | .celudXor l d a b => some (l, d, a, b, fun x y => x ^^^ y)
  | .celudShl l d a b => some (l, d, a, b, fun x y => x <<< (y.toNat % 256))
  | .celudShr l d a b => some (l, d, a, b, fun x y => x >>> (y.toNat % 256))
  | .celudSar l d a b => some (l, d, a, b, fun x y => x.sshiftRight (y.toNat % 256))
  | .celudCeq l d a b => some (l, d, a, b, fun x y => if x = y then 1 else 0)
  | .celudClt l d a b => some (l, d, a, b, fun x y => if x.toInt < y.toInt then 1 else 0)
  | .celudCltu l d a b => some (l, d, a, b, fun x y => if x.toNat < y.toNat then 1 else 0)
  | .celudFadd l d a b => some (l, d, a, b, fun x y => round32 ((val32 x).add (val32 y)))
  | .celudFsub l d a b => some (l, d, a, b, fun x y => round32 ((val32 x).add (val32 y).neg))
  | .celudFmul l d a b => some (l, d, a, b, fun x y => round32 ((val32 x).mul (val32 y)))
  | .celudFmin l d a b => some (l, d, a, b, fmin)
  | .celudFmax l d a b => some (l, d, a, b, fmax)
  | .celudFceq l d a b => some (l, d, a, b, fun x y => if (val32 x).cmp (val32 y) = some .eq then 1 else 0)
  | .celudFclt l d a b => some (l, d, a, b, fun x y => if (val32 x).cmp (val32 y) = some .lt then 1 else 0)
  | .celudFcle l d a b => some (l, d, a, b, fun x y =>
      if (val32 x).cmp (val32 y) = some .lt ∨ (val32 x).cmp (val32 y) = some .eq then 1 else 0)
  | .celudHadd2 l d a b => some (l, d, a, b, halfAdd fp16)
  | .celudBadd2 l d a b => some (l, d, a, b, halfAdd bf16)
  | _ => none

/-- Celud words that read the old destination as well (R232, R234, R382). -/
def celudTernary : Instr → Option (Option (BitVec 64) × BitVec 12 × BitVec 12 × BitVec 12 × (Word → Word → Word → Word))
  | .celudFfma l d a b => some (l, d, a, b, fun z x y => round32 ((val32 z).add ((val32 x).mul (val32 y))))
  | .celudHfma2 l d a b => some (l, d, a, b, halfFma fp16)
  | .celudBfma2 l d a b => some (l, d, a, b, halfFma bf16)
  | .celudDot2 l d a b => some (l, d, a, b, dot2)
  | _ => none

/-- The last source of a word of any type: of a literal the low 32 bits, all 64 where the destination is of type i64 (R381). -/
def celudSource (h : CelHere) (d : BitVec 12) (l : Option (BitVec 64)) (a : BitVec 12) : DWord :=
  match l with
  | none => h.r a
  | some v => if Cells.get 0 h.p.types d.toNat = 1 then v else BitVec.ofNat 64 (v.toNat % 2 ^ 32)

/-- Celud words whose result is another function of the thread (R235, R236, R382). -/
def celudValue (h : CelHere) : Instr → Option (Option (BitVec 64) × BitVec 12 × DWord)
  | .celudTid d => some (none, d, BitVec.ofNat 64 h.n)
  | .celudNthr d => some (none, d, BitVec.ofNat 64 h.p.threads.length)
  | .celudMov l d a => some (l, d, celudSource h d l a)
  | .celudSel l d a b c => some (l, d, if h.r32 c ≠ 0 then h.r a else celudSource h d l b)
  | .celudAdd64 l d a b => some (l, d, h.r a + l.getD (h.r b))
  | .celudSfn l d a fn => some (l, d, (sfnWord fn.toNat (h.last32 l a)).zeroExtend 64)
  | .celudCvt l d a i8 sat => some (l, d, BitVec.ofNat 64
      (cvtWord (fld i8.toNat 6 2) (fld i8.toNat 3 3) (fld i8.toNat 0 3) sat (h.last32 l a).toNat))
  | _ => none

/-- The fields of a Celud load: literal, destination, address register, space code, size code, and the scope at which it acquires,
if it does. -/
def celudLoadOf : Instr → Option (Option (BitVec 64) × BitVec 12 × BitVec 12 × BitVec 3 × BitVec 2 × Option Nat)
  | .celudLd sc ord _ l d a sp sz _ => some (l, d, a, sp, sz, ordered ord 0 sc)
  | .celudLdc _ _ l d a sp sz _ => some (l, d, a, sp, sz, none)
  | _ => none

/-- The thread's coach after an access in a space, under revision 1 with an AR fence (R122, R123). -/
def celudCoach (s : State) (h : CelHere) (sp : BitVec 3) (f : Coach → Coach) : State :=
  s.modCoach h.team h.ci fun c => h.fenced sp (f c)

/-- The word that an atomic stores (R249, R250, R382). -/
def atomWord (op : Nat) (old d v : Word) : Word :=
  if op = 0 then old + v else if op = 1 then (if old.toInt ≤ v.toInt then old else v)
  else if op = 2 then (if old.toInt ≤ v.toInt then v else old) else if op = 3 then old &&& v else if op = 4 then old ||| v
  else if op = 5 then old ^^^ v else if op = 6 then v else if old = d then v else old

/-- The threads with the issuer's replaced. -/
def threadsWith (h : CelHere) (th : Thread) : List Thread := h.p.threads.set h.n th

/-- The state in which the program's threads are these. -/
def withThreads (s : State) (h : CelHere) (l : List Thread) : State := s.setCelud h.team { h.p with threads := l }

/-- After a thread has come to a bar or has ended (R379): all pass where every thread of the team waits at the same bar, at
which their coaches synchronise (R111); where they disagree, also about jumps over a bar (R382), one of four outcomes is open
(log entry 21), of which the device takes one; else the thread waits. -/
def BarOutcome (s : State) (h : CelHere) (l : List Thread) (t : State) : Prop :=
  if disagree l = true ∨ missedJump l h.n = true then
    t = s.setCelud h.team { h.p with threads := l, broken := true }
    ∨ t = s.passBars h.team { h.p with threads := l, broken := true }
    ∨ (∃ k, t = s.setCelud h.team { h.p with threads := l.modify k passBar, broken := true })
    ∨ t = (s.setCelud h.team { h.p with threads := l, broken := true }).stopNode h.t.node 5
  else if ∀ th ∈ l, th.bar.isSome = true then t = s.passBars h.team { h.p with threads := l }
  else t = withThreads s h l

end Sys2Proof.Claims

/-- R331 to R334 and R340: the words of a dray's address thread: AEND, JMOVI, JADDI, JADD and JLOOP; OPEN, READ, WBACK
and CLOSE enqueue their command while the row queue holds fewer than 16, and stall when it is full. A row boundary that
the dray has reached is counted with the word. What a boundary counts for is log entry 23. -/
def Obligations.DrayAddressWords : Prop :=
  (∀ i s ch d d', DrayIssues s ch true d → addressAfter d i = some d' → exec i s = .next (withDray s ch d'.reach))
  ∧ (∀ i s ch d c, DrayIssues s ch true d → commandOf d i = some c → d.rowq.length < 16 →
    exec i s = .next (withDray s ch (aStep { d with rowq := d.rowq ++ [c] }).reach))
  ∧ ∀ i s ch d c, DrayIssues s ch true d → commandOf d i = some c → 16 ≤ d.rowq.length →
    exec i s = .next (withDray s ch d.reach)

/-- R336 and R337: the words of a dray's arithmetic thread, XEND, XPOP, XADD, XMUL, XFMA, XMAX, XMIN, XSET, XACC, XREL,
XCMOVI and XLOOP; XPOP stalls on a data queue that holds too few entries, XSET and XACC while BAk is to be written back. -/
def Obligations.DrayArithmeticWords : Prop :=
  (∀ i s ch d d', DrayIssues s ch false d → arithmeticAfter d i = some d' → exec i s = .next (withDray s ch d'.reach))
  ∧ (∀ s ch d r f, DrayIssues s ch false d → d.dataq.length < (if f = 0 then 1 else 2) →
    exec (.xpop r f) s = .next (withDray s ch d.reach))
  ∧ ∀ s ch d k a, DrayIssues s ch false d → Cells.get 0 d.rel k.toNat ≠ 0 →
    exec (.xset k a) s = .next (withDray s ch d.reach) ∧ exec (.xacc k a) s = .next (withDray s ch d.reach)

/-- R335: a loop that leaves its program and a command whose handle or columns do not exist fault their thread, which
ends. -/
def Obligations.DrayThreadFaults : Prop :=
  (∀ s ch d r o, DrayIssues s ch true d → addressAfter d (.jloop r o) = none →
    exec (.jloop r o) s = .next (withDray s ch (Dray.reach { d with faulted := true, endA := true })))
  ∧ (∀ s ch d i, DrayIssues s ch true d → commandOf d i = none →
    (∃ r, i = .drayOpen r ∨ i = .drayClose r ∨ (∃ c n, i = .drayRead r c n) ∨ ∃ k c f, i = .drayWback k r c f) →
    exec i s = .next (withDray s ch (Dray.reach { d with faulted := true, endA := true })))
  ∧ ∀ s ch d r o, DrayIssues s ch false d → arithmeticAfter d (.xloop r o) = none →
    exec (.xloop r o) s = .next (withDray s ch (Dray.reach { d with faulted := true, endX := true }))

/-- R224, R225, R232 to R236, R380 to R382: the Celud words on registers. The native words of the translation are not
what runs: a thread performs the effect that R382 gives (log entry 21). -/
def Obligations.CeludRegisterWords : Prop :=
  (∀ i s h l d a b f, celudBinary i = some (l, d, a, b, f) → CeludIssues s h →
    exec i s = .next (celudWrote s h l d ((f (h.r32 a) (h.last32 l b)).zeroExtend 64)))
  ∧ (∀ i s h l d a b f, celudTernary i = some (l, d, a, b, f) → CeludIssues s h →
    exec i s = .next (celudWrote s h l d ((f (h.r32 d) (h.r32 a) (h.last32 l b)).zeroExtend 64)))
  ∧ (∀ i s h l d x, celudValue h i = some (l, d, x) → CeludIssues s h → exec i s = .next (celudWrote s h l d x))
  ∧ ∀ s h d ty, CeludIssues s h → exec (.celudDecl d ty) s = .next (s.putThread h { h.th with pc := h.th.pc + 1 })

/-- R246, R248 to R250, R252, R382 and R383: ld, ldc, st, atom and fence, where the access passes its checks. An access is
performed in the step in which it issues (log entry 1); one whose channel a kernel holds waits (log entry 54). Acquires,
releases and fences are those of R251 and R252. -/
def Obligations.CeludMemoryWords : Prop :=
  (∀ i s h l d a sp sz acq c, celudLoadOf i = some (l, d, a, sp, sz, acq) → CeludIssues s h →
    s.celudCheck h sp (h.addr sp l a) (2 ^ sz.toNat) .load = .ok c →
    let t := celudCoach s h sp fun x => x.saw h.spot acq (s.postsAt c.loc (2 ^ sz.toNat))
    exec i s = .next ((celudWrote t h l d (BitVec.ofNat 64 (leNat (s.readData h.agent c.loc c.leaf (2 ^ sz.toNat))))).noteAll
      h.agent (sp.toNat + 1) [c]))
  ∧ (∀ s h sc ord rev l a b sp sz hint c, CeludIssues s h →
    s.celudCheck h sp (h.addr sp l a) (2 ^ sz.toNat) .store = .ok c →
    let x := (s.writeData h.agent c.loc (leBytes (2 ^ sz.toNat) (h.r b).toNat)).post c.loc (2 ^ sz.toNat)
      (h.coach.releases h.spot (ordered ord 1 sc))
    exec (.celudSt sc ord rev l a b sp sz hint) s = .next
      (((celudCoach x h sp fun y => y.wrote s x).putThread h
        { h.th with pc := h.th.pc + if l.isSome then 2 else 1 }).noteAll h.agent (sp.toNat + 1) [c]))
  ∧ (∀ s h sc ord rev l d a b sp hint op c old, CeludIssues s h →
    s.celudCheck h sp (h.addr sp l a) 4 .atomic = .ok c →
    old = BitVec.ofNat 32 (leNat (s.readData h.agent c.loc c.leaf 4)) →
    let k := h.coach.saw h.spot (ordered ord 0 sc) (s.postsAt c.loc 4)
    let x := (s.writeData h.agent c.loc (leBytes 4 (atomWord op.toNat old (h.r32 d) (h.r32 b)).toNat)).post c.loc 4
      (s.postsAt c.loc 4 ++ k.releases h.spot (ordered ord 1 sc))
    exec (.celudAtom sc ord rev l d a b sp hint op) s = .next
      ((celudWrote (celudCoach x h sp fun _ => k.wrote s x) h l d
        (old.zeroExtend 64)).noteAll h.agent (sp.toNat + 1) [c]))
  ∧ ∀ s h sc kind, CeludIssues s h →
    exec (.celudFence sc kind) s = .next ((s.modCoach h.team h.ci fun c => c.fenceBy kind h.spot sc.toNat).putThread h
      { h.th with pc := h.th.pc + 1 })

/-- R241, R379 and R382: jmp, which notes a jump over a bar, brz, brnz, bar and end. What follows where threads disagree
at a bar is open (log entry 21). -/
def Obligations.CeludControlWords : Prop :=
  (∀ s h x, CeludIssues s h → exec (.celudJmp x) s = .next (s.putThread h { h.th with
    pc := x.toNat
    trail := if barsBefore h.p.words h.th.pc = barsBefore h.p.words x.toNat then h.th.trail else h.th.trail ++ [h.th.pc] }))
  ∧ (∀ s h a x, CeludIssues s h → exec (.celudBrz a x) s = .next (s.putThread h
      { h.th with pc := if h.r32 a = 0 then x.toNat else h.th.pc + 2 }))
  ∧ (∀ s h a x, CeludIssues s h → exec (.celudBrnz a x) s = .next (s.putThread h
      { h.th with pc := if h.r32 a = 0 then h.th.pc + 2 else x.toNat }))
  ∧ (∀ s h, CeludIssues s h → ∃ t, exec .celudBar s = .next t
      ∧ BarOutcome s h (threadsWith h { h.th with bar := some h.th.pc }) t)
  ∧ ∀ s h, CeludIssues s h → ∃ t, BarOutcome s h (threadsWith h { h.th with ended := true }) t
      ∧ exec .celudEnd s = .next { t with teams := Cells.modify t.teams h.team (Team.endCoaches ·
        { h.p with threads := threadsWith h { h.th with ended := true } }) }

namespace Sys2Proof.Claims

/-! ### Events of issue and of engines -/

/-- The state in which every park and WAIT of the coaches of a half that can end has ended (R32), the results of jobs that a
program spoiled are undefined (R116), and a team that then stands at barriers only has stalled (R46). -/
def settledHalf (s : State) (half : Nat) : State :=
  let x := (s.spoilDone.coachesOn half).foldl
    (fun s q => s.settle (.coach q.1 q.2.1) (q.2.2.2.subs.map SubGroup.id)) s.spoilDone
  (x.coachesOn half).foldl (fun s q => s.checkStall q.1) x

/-- The other ready coaches are passed over, and the selected one fuses what may fuse (R32, R37). -/
def decided (s : State) (half team ci : Nat) : State :=
  ((s.readyOn half).foldl (fun s y => if y.1 = team && y.2.1 = ci then s else s.modCoach y.1 y.2.1 Coach.passOver) s).modCoach
    team ci fun c => Coach.fuseAll c.subs.length c

/-- A pending stop of a coach may enter its handler (R312, R319; in compatibility mode R48). -/
def MayEnter (s : State) (team ci : Nat) (f : Stopped) : Prop :=
  ∃ t c rest, s.coach team ci = some (t, c) ∧ c.stops = f :: rest ∧ t.state = .resident ∧ s.inRun team ci = false
    ∧ c.returned = true ∧ (f.whole = true ∨ c.convergedAll = true) ∧ c.saved = none ∧ c.parked = none

/-- A sub-group is parked by an END of run `run` and by nothing else but the wait of R48, the long results of that run have
returned, and no access of its agent waits for a channel (R42, R180). -/
def EndsLanes (s : State) (ctx : Ctx) (sub run : Nat) (h : Here) : Prop :=
  s.hereAt ctx sub = some h ∧ (h.g.parks.findSome? fun p => match p with | .ending r => some r | _ => none) = some run
    ∧ h.c.backUpTo run = true ∧ h.g.onlyEnds = true ∧ s.accessWaits ctx = false

/-- A request stands, is not stopped, and no kernel holds a channel of what it reads or writes (R310, R339): the ranges `part`. -/
def RequestFree (s : State) (id : Nat) (r : Request) (part : List Piece × List Piece) : Prop :=
  Cells.find s.requests id = some r ∧ s.requestRuns id r = true ∧ s.heldChannels (part.1 ++ part.2) = []

/-- The elements of a copy (R93, R257). -/
def copyElements (xf df len : Nat) : Nat := len / if xf = 0 then 1 else fmtBytes df

/-- The result that MATRIX_JOB_COMPLETION leaves (R181, R282), the job's writes noted for those that will match it (R116). -/
def jobPerformed (s : State) (j : Job) : State :=
  State.dropJobs { s.performJob j with
    jobs := (s.performJob j).jobs.map fun (x : Job) =>
      if x.id = j.id then { x with done := true, known := Known.wrote x.known s (s.performJob j) } else x
    teams := Cells.modify (s.performJob j).teams j.team fun t => { t with coaches := t.coaches.map (Coach.jobDone · j.id) } }

/-- The team without a rendezvous: nobody holds fragments, results or a job of it any more (R281). -/
def withoutRendezvous (t : Team) (rdv : Nat) : Team :=
  { t with rdvs := t.rdvs.filter fun x => x.id ≠ rdv,
           coaches := t.coaches.map fun c =>
             { c with jobs := c.jobs.filter (· ≠ rdv), frags := c.frags.filter fun f => f.1 ≠ rdv,
                      board := c.board.filter fun f => f.1 ≠ rdv } }

/-- An executor is idle, the accesses of its last function performed, and admits call `k` next (R353): an invocation of a
batch after those before it, and while nothing holds its argument record back (R355). -/
def StartsNext (s : State) (ex k : Nat) (rest : List Nat) (e : Executor) (c : Call) : Prop :=
  Cells.find s.executors ex = some e ∧ e.running = none ∧ e.queue = k :: rest ∧ Cells.find s.calls k = some c
    ∧ s.batchTurn c = true ∧ s.argumentHeld c = false ∧ s.accessWaits (.remote ex) = false

/-- The executor runs call `k`. -/
def runsCall (s : State) (ex k : Nat) (rest : List Nat) (e : Executor) : State :=
  { s with executors := Cells.put s.executors ex { e with queue := rest, running := some k } }

/-- Every access of the function of a call has been performed (R118). -/
def Performed (s : State) (c : Call) : Prop := s.executorWaits c.ex = false

/-- The call of coach `x`, which has not consumed it yet (`waits`), or has. -/
def CalledBy (s : State) (call : Nat) (c : Call) (x : Coach) (waits : Bool) : Prop :=
  Cells.find s.calls call = some c ∧ (∃ t, s.coach c.team c.coach = some (t, x)) ∧ x.calls.contains call = waits

/-- The address of argument or result record `i` of a batch whose area word `w` of its node names (R355). -/
def batchRecord (s : State) (node w i : Nat) : Nat := (s.nodeWord node w) % 2 ^ 56 + 64 * i

/-- The coach's record of a token gets its final disposition, if the coach still keeps the token (R267, R268). -/
def noted (s : State) (c : Call) (code : Nat) (fault : Word) : State :=
  s.modCoach c.team c.coach fun x =>
    { x with disps := x.disps.map fun d => if d.1 = c.token then (c.token, code, fault) else d }

end Sys2Proof.Claims

/-- R31, R32, R37, R38, R42, R116, R177, R312 and R319: ISSUE_DECISION, COACH_OVERDUE, SUBGROUP_OVERDUE,
LONG_RESULT_RETURN, HANDLER_ENTRY and MEMBER_LANES_END. All fusible pairs fuse before the selection (log entry 27), the
entry into a handler is a move of its own where something stood in its way (log entry 10), and what END leaves of the
parents is log entry 34. -/
def Obligations.IssueEventsComplete : Prop :=
  (∀ s half, s.mode = .running → (Cells.get {} s.halves half).inRun = none →
    selectCoach (Cells.get {} s.halves half).last ((settledHalf s half).readyOn half) = none →
    exec (.issueDecision half) s = .next ((settledHalf s half).setHalf half { inRun := none, last := none }))
  ∧ (∀ s half team ci c t c' g, s.mode = .running → (Cells.get {} s.halves half).inRun = none →
    selectCoach (Cells.get {} s.halves half).last ((settledHalf s half).readyOn half) = some (team, ci, c) →
    (decided (settledHalf s half) half team ci).coach team ci = some (t, c') → selectSub c'.subs = some g →
    exec (.issueDecision half) s = .next
      (((decided (settledHalf s half) half team ci).modCoach team ci fun c => c.startRun g).setHalf half
        { inRun := some (team, ci, g.id), last := some (team, ci) }))
  ∧ (∀ s team ci, s.mode = .running → exec (.coachOverdue team ci) s = .next (s.modCoach team ci fun c =>
      { c with overdue := c.overdue || decide (56 ≤ c.waitCount) }))
  ∧ (∀ s team ci sub, s.mode = .running → exec (.subgroupOverdue team ci sub) s = .next (s.modCoach team ci fun c =>
      { c with subs := c.subs.map fun (g : SubGroup) =>
        if g.id = sub then { g with overdue := g.overdue || decide (16 ≤ g.pass) } else g }))
  ∧ (∀ s ctx ix x, s.mode = .running →
      x = s.modCtx ctx (fun c => { c with longs := c.longs.modify ix fun r =>
        if r.left = 0 then { r with back := true } else r }) →
      exec (.longResultReturn ctx ix) s = .next (match ctx with | .coach team ci => x.tryEntry team ci | _ => x))
  ∧ (∀ s team ci f, s.mode = .running → MayEnter s team ci f →
      exec (.handlerEntry team ci) s = .next (s.enterHandler team ci f))
  ∧ (∀ s x team ci sub run h, s.mode = .running → x = s.spoilDone.settle (.coach team ci) [sub] → EndsLanes x (.coach team ci) sub run h →
      h.t.state = .resident → x.coachIdle h.team h.t h.ci = true → ((h.c.observe run).endLanes h.g).subs = [] →
      exec (.memberLanesEnd (.coach team ci) sub) s = .next
        (((x.modCoach h.team h.ci fun _ => (h.c.observe run).endLanes h.g).endCoach h.team h.ci).checkStall h.team))
  ∧ (∀ s x team ci sub run h, s.mode = .running → x = s.spoilDone.settle (.coach team ci) [sub] → EndsLanes x (.coach team ci) sub run h →
      h.t.state = .resident → x.coachIdle h.team h.t h.ci = true → ((h.c.observe run).endLanes h.g).subs ≠ [] →
      exec (.memberLanesEnd (.coach team ci) sub) s = .next
        ((((x.modCoach h.team h.ci fun _ => (h.c.observe run).endLanes h.g).arriveAfterEnd h.team h.ci).tryEntry
          h.team h.ci).checkStall h.team))
  ∧ ∀ s x ex sub run h k c, s.mode = .running → x = s.spoilDone.settle (.remote ex) [sub] → EndsLanes x (.remote ex) sub run h →
      h.remote = some ex → x.running ex = some (k, c) → exec (.memberLanesEnd (.remote ex) sub) s = .next
        (x.endCall ex 0 ((List.range c.nret).map fun i => Cells.get 0 h.c.s i))

/-- R50, R92 to R94, R257, R261, R281, R282, R288, R344, R350 to R352 and R379: OVERRUN (which may stop a Celud node
whose threads disagree at any moment, with either code: log entry 21), COPY_COMPLETION, DRAY_REQUEST_COMPLETION,
GSJOB_COMPLETION, MVSTACK_COMPLETION, MATRIX_JOB_COMPLETION and MATRIX_RENDEZVOUS. A completion performs what a stop has
not performed already (R306). That a completion performs its work in one step, and how much of it a stop performed
before, is log entry 12; when a rendezvous is given up is the model's choice (log entry 44). -/
def Obligations.CompletionEventsComplete : Prop :=
  (∀ s node n, s.mode = .running → Cells.find s.nodes node = some n → n.admitted.isSome = true → n.eng < 2 →
    s.brokenNode node = false → n.bounded = true → n.deadline ≤ s.slot → n.stop = none → s.nodeDone node n = none →
    exec (.overrun node) s = .next (s.stopNode node 4))
  ∧ (∀ s node n, s.mode = .running → Cells.find s.nodes node = some n → n.admitted.isSome = true → n.eng < 2 →
    s.brokenNode node = true →
    exec (.overrun node) s = .next (s.stopNode node 4) ∨ exec (.overrun node) s = .next (s.stopNode node 5))
  ∧ (∀ s id r xf sf df c len src dst, s.mode = .running → RequestFree s id r r.whole → r.work = .copy xf sf df c len src dst →
    r.parts = [] → exec (.copyCompletion id) s = .next ((s.performCopy r xf sf df c src dst
      (fun ch => !(xf ≠ 0 && (channelBytes dst).length ≠ 0) || ch.isNone) r.at_ (copyElements xf df len)).finishRequest s id r))
  ∧ (∀ s id chan r xf sf df c len src dst x, s.mode = .running → RequestFree s id r (r.work.partIn chan) →
    r.work = .copy xf sf df c len src dst → r.parts.contains chan = true →
    x = (s.performCopy r xf sf df c src dst (fun ch => ch = some chan) 0 (copyElements xf df len)).spoil r.oid
      (r.work.partIn chan).2 →
    let q : Request := { r with parts := r.parts.filter (· ≠ chan), known := Known.wrote r.known s x }
    exec (.drayRequestCompletion id chan) s = .next { x with requests := Cells.put x.requests id q })
  ∧ (∀ s id r sc iw es n b ta ix de, s.mode = .running → RequestFree s id r r.whole → r.work = .gather sc iw es n b ta ix de →
    exec (.gsjobCompletion id) s = .next
      ((s.gatherBlocks r sc iw es b ta ix de r.old (r.old.drop (n * iw)) (n / 256 + 1) r.at_ n).finishRequest s id r))
  ∧ (∀ s id r a b va vb vy sc, s.mode = .running → RequestFree s id r r.whole → r.work = .mvstack a b va vb vy sc →
    exec (.mvstackCompletion id) s = .next (((List.range (tidDim b 1 - r.at_)).foldl (fun x n =>
      x.writePieces r.oid vy (4 * (r.at_ + n)) (leBytes 4 (s.mvElement r a b va vb sc.1 sc.2 (r.at_ + n)).toNat))
        s).finishRequest s id r))
  ∧ (∀ s x core i j, s.mode = .running → x = s.spoilDone → x.nextJob core = some i → x.lateDrain i = some j →
    x.jobHeld j = [] → exec (.matrixJobCompletion core) s = .next (jobPerformed x j))
  ∧ ∀ s team rdv t r, s.mode = .running → Cells.find s.teams team = some t → t.state = .resident →
    t.rdvs.find? (fun r => r.id = rdv) = some r →
    (∀ a ∈ r.arrived, ∃ c, t.coaches[a.coach]? = some c ∧ ∃ g ∈ c.subs, Park.rendezvous rdv ∈ g.parks) →
    exec (.matrixRendezvous team rdv) s = .next (r.arrived.foldl (fun x a =>
      match x.coach team a.coach with
      | none => x
      | some (u, c) => match c.subs.find? fun g => g.parks.contains (.rendezvous rdv) with
        | none => x
        | some g => x.stopWith
            { tick := x.tick, team := team, t := u, ci := a.coach, c := c,
              g := { g with parks := g.parks.filter (· ≠ .rendezvous rdv), pc := g.fall } }
            { trap := { cause := .matrixRendezvous, w6 := r.pm &&& ~~~(maskOf (r.arrived.map Arrival.coach)) }, pc := a.pc,
              word := a.word, pre := none, resume := g.fall, exec := g.exec, mem := g.mem, run := g.lastRun, sub := g.id })
      { s with teams := Cells.put s.teams team (withoutRendezvous t rdv) })

/-- R263 to R269, R304, R305, R353 to R355 and R395: REMOTE_FUNCTION_START of a call and of an invocation of a batch,
whose argument record may be unreadable (log entry 45); REPLY to a caller that waits, to one that has lost the call or
consumed it, to no caller, of an invocation, and of a peer to the relay (whose answer is open, log entry 24); CALL_LOST
of a caller and of the relay; and PROBE_ANSWER. When each may happen is log entries 2 and 39. -/
def Obligations.RemoteCallEventsComplete : Prop :=
  (∀ s ex k rest e c, s.mode = .running → StartsNext s ex k rest e c → c.batch = none →
    exec (.remoteFunctionStart ex) s = .next ((runsCall s ex k rest e).modCall k fun x =>
      { x with started := true, startedAt := s.slot, fn := some { functionStart x.entry c.payload with acq := x.known } }))
  ∧ (∀ s ex k rest e c node i b, s.mode = .running → StartsNext s ex k rest e c → c.batch = some (node, i) →
    s.gBytes c.oid (batchRecord s node 6 i) 64 = some b →
    exec (.remoteFunctionStart ex) s = .next ((runsCall s ex k rest e).modCall k fun x =>
      { x with started := true, startedAt := s.slot
               fn := some { functionStart x.entry (bytesWords b ++ [BitVec.ofNat 32 i]) with acq := x.known } }))
  ∧ (∀ s ex k rest e c node i a reason, s.mode = .running → StartsNext s ex k rest e c → c.batch = some (node, i) →
    s.gBytes c.oid (batchRecord s node 6 i) 64 = none → s.gFails c.oid (batchRecord s node 6 i) 64 = some (a, reason) →
    exec (.remoteFunctionStart ex) s = .next (((runsCall s ex k rest e).modCall k fun x =>
      { x with started := true, startedAt := s.slot }).endCall ex 2
        [0x20, BitVec.ofNat 32 (pack [(8, 0x20), (4, reason), (4, 5), (16, 0)]), BitVec.ofNat 32 c.entry, 0, 0,
          BitVec.ofNat 32 a, BitVec.ofNat 32 (a / 2 ^ 32 % 2 ^ 24), 0]))
  ∧ (∀ s call c x r, s.mode = .running → CalledBy s call c x true → Performed s c → c.relay = none → c.batch = none →
    c.result = some r →
    (c.lost = false → exec (.reply call) s = .next (s.modCall call fun y => { y with delivered := true }))
    ∧ (c.lost = true → exec (.reply call) s = .next
      ((noted s c r.1 (if r.1 = 2 then r.2.headD 0 else 0)).modCall call fun y => { y with result := none })))
  ∧ (∀ s call c x r, s.mode = .running → CalledBy s call c x false → Performed s c → c.relay = none → c.batch = none →
    c.result = some r →
    let t := noted s c r.1 (if r.1 = 2 then r.2.headD 0 else 0)
    exec (.reply call) s = .next (if c.probing then t else { t with calls := Cells.drop t.calls call }))
  ∧ (∀ s call c r, s.mode = .running → Cells.find s.calls call = some c → s.coach c.team c.coach = none → Performed s c →
    c.relay = none → c.batch = none → c.result = some r → exec (.reply call) s = .next { s with calls := Cells.drop s.calls call })
  ∧ (∀ s call c r node i x, s.mode = .running → Cells.find s.calls call = some c → Performed s c → c.relay = none →
    c.batch = some (node, i) → c.result = some r → s.moving c.oid = false →
    s.gHeld c.oid (batchRecord s node 7 i) = false →
    x = s.gStore c.oid (batchRecord s node 7 i) (wordBytes (resultRecord s.tick r)) →
    exec (.reply call) s = .next { x with
      calls := Cells.drop x.calls call
      nodes := Cells.modify x.nodes node fun n =>
        { n with batch := n.batch - 1, late := n.late || c.ranLong n.dur x.slot } })
  ∧ (∀ s call c n, s.mode = .running → Cells.find s.calls call = some c → c.relay = some n →
    exec (.reply call) s = .next { s with
      calls := Cells.drop s.calls call
      relayed := Cells.modify s.relayed n fun r => { r with disp := some s.peerAnswer } })
  ∧ (∀ s call c x, s.mode = .running → CalledBy s call c x true → c.relay = none → c.delivered = false → c.lost = false →
    c.deadline ≤ s.slot → exec (.callLost call) s = .next
      (((s.modCall call fun y => { y with lost := true }).modCoach c.team c.coach fun x => x.loseToken c.token).count
        (if c.excused then 0x310 else 0x311)))
  ∧ (∀ s call c n x, s.mode = .running → Cells.find s.calls call = some c → c.relay = some n → c.lost = false →
    c.deadline ≤ s.slot → x = s.modCall call (fun y => { y with lost := true }) →
    exec (.callLost call) s = .next (State.count
      { x with relayed := Cells.modify x.relayed n fun r => { r with disp := some (3, 0) } }
      (if c.excused then 0x310 else 0x311)))
  ∧ (∀ s call c x a t u, s.mode = .running → Cells.find s.calls call = some c → (∃ y, s.coach c.team c.coach = some (y, x)) →
    c.probing = true → a = (Cells.get {} s.executors c.ex).answer c.token →
    t = s.modCall call (fun y => { y with probing := false }) → u = (if a.1 = 4 then t else noted t c a.1 a.2) →
    exec (.probeAnswer call) s = .next
      (if u.callIdle call = true ∧ x.calls.contains call = false then { u with calls := Cells.drop u.calls call } else u))
  ∧ ∀ s call c, s.mode = .running → Cells.find s.calls call = some c → s.coach c.team c.coach = none → c.probing = true →
    exec (.probeAnswer call) s = .next { s with
      calls := Cells.drop (s.modCall call fun y => { y with probing := false }).calls call }

/-- R95 and R119: SWAP_REQUEST records a page that is to move, SWAP_BEGIN holds its translations back and shoots down every
TLB entry for it, once no snapshot stands in it and no access of it is still to be performed, and HELD_TRANSLATION_RELEASE moves
the data, with what names its place, and installs the new leaf. -/
def Obligations.SwapEventsComplete : Prop :=
  (∀ s oid va pa e lvl at_, s.mode = .running → s.walk oid va = .leaf e lvl at_ → pa % pageSize lvl = 0 →
    backed pa (pageSize lvl) = true → pa < 2 ^ 52 → stackOf pa ≠ stackOf (fld e 16 36 * 2 ^ 16) →
    (∀ w ∈ s.swaps, w.oid = oid → pagesMeet (w.va, w.size) (va / pageSize lvl * pageSize lvl, pageSize lvl) = false) →
    exec (.swapRequest oid va pa) s = .next { s with
      swaps := s.swaps ++ [{ id := s.fresh, oid := oid, va := va / pageSize lvl * pageSize lvl, size := pageSize lvl,
                             leafAt := at_, old := fld e 16 36 * 2 ^ 16, new := pa }]
      fresh := s.fresh + 1 })
  ∧ (∀ s k w, s.mode = .running → s.swaps.find? (fun w => w.id = k && !w.begun) = some w →
    s.snapshotHeld w.oid (w.va, w.size) = false → s.pageWaits w = false →
    exec (.swapBegin k) s = .next { (s.shootdown w.oid w.va w.size) with
      swaps := s.swaps.map fun (x : Swap) => if x.id = k then { x with begun := true } else x })
  ∧ ∀ s k w x e, s.mode = .running → s.swaps.find? (fun w => w.id = k && w.begun) = some w →
    s.channelHeld w.leafAt = false → x = s.pageMoved w.old w.new w.size → e = leNat (x.readStoN w.oid w.leafAt 8) →
    exec (.heldTranslationRelease k) s = .next
      { x.writeLocs w.oid (.sto w.leafAt) (leBytes 8 (fld e 52 12 * 2 ^ 52 + w.new / 2 ^ 16 * 2 ^ 16 + fld e 0 16)) with
        swaps := s.swaps.filter fun y => y.id ≠ k }

namespace Sys2Proof.Claims

/-! ### Events of queues, nodes and teams -/

/-- The host reaches a queue that exists (R291, R389). -/
def HostReaches (s : State) (q : Nat) : Prop := s.mode = .running ∧ s.ucie.any id = true ∧ q < 64

/-- The queue in place of queue `q`. -/
def withQueue (s : State) (q : Nat) (x : Queue) : State := { s with queues := Cells.set {} s.queues q x }

/-- A write of QTAIL (R293, R294): the tail moves by less than 2^31 and never more than a ring ahead of PROG; else ERR. The last
storage write before it is noted, for the records that the new value covers. -/
def tailWritten (x : Queue) (v : Word) (writes : Nat) : Queue :=
  if v = x.tail then x
  else if (v - x.tail).toNat < 2 ^ 31 ∧ (v - x.tail).toNat + (x.tail - x.prog).toNat ≤ 2 ^ x.lgsz then
    { x with tail := v, covers := x.covers ++ [(v, writes)] }
  else { x with err := true }

/-- Bit `k` of a register value. -/
def bitOf (v : Word) (k : Nat) : Bool := v.getLsbD k

/-- An aligned access of 1, 2, 4 or 8 bytes. -/
def Aligned (off size : Nat) : Prop := size ∈ [1, 2, 4, 8] ∧ off % size = 0

/-- A write of QCFG to a queue that is not switched out (R291, R292): ERR is cleared by a 1, EN is written, and LGSZ while
the queue is disabled, a value outside 4 to 16 as 4. -/
def cfgWritten (x : Queue) (v : Word) : Queue :=
  { x with err := x.err && !bitOf v 30, en := bitOf v 31, state := if bitOf v 31 then 1 else 0,
           lgsz := if x.en then x.lgsz
             else if v.toNat / 2 ^ 20 % 32 < 4 ∨ 16 < v.toNat / 2 ^ 20 % 32 then 4 else v.toNat / 2 ^ 20 % 32 }

/-- The address of the next record. -/
def recordAt (s : State) (q : Nat) : Nat :=
  (s.queue q).base * 128 + 128 * ((s.queue q).fetched.toNat % 2 ^ (s.queue q).lgsz)

/-- A record of queue `q` may be fetched (R297, R311), and no kernel holds its channel (R339). -/
def Fetches (s : State) (q : Nat) : Prop :=
  s.gWaits (s.queue q).oid (recordAt s q) 128 .load = [] ∧ q < 64 ∧ (s.queue q).state = 1 ∧ (s.queue q).fetched ≠ (s.queue q).tail ∧ s.mayFetch q = true ∧ s.resumed q = true
    ∧ s.poolSize < 8192 ∧ s.moving (s.queue q).oid = false

/-- The node whose words the next record holds; a byte written after the QTAIL value that covers the record is undefined (R7,
R292, R293, R295). -/
def recordNode (s : State) (q : Nat) : Node :=
  { q := q, count := (s.queue q).fetched, entry := recordAt s q, oid := (s.queue q).oid,
    words := s.recordWords (s.queue q).oid (s.coveredAt (s.queue q) (s.queue q).fetched) (recordAt s q), fetchedAt := s.fresh }

/-- The queue after the fetch: the next count, and the QTAIL values that still cover a record. -/
def queueFetched (x : Queue) : Queue :=
  { x with fetched := x.fetched + 1,
           covers := x.covers.filter fun p => decide ((p.1 - x.fetched - 2).toNat < 2 ^ 31) }

/-- A node with a predecessor that has faulted completes with PRED-FAULT (R299). -/
def afterPreds (x : Queue) (n : Node) : Node :=
  if n.stop = none ∧ x.predFaulted n = true then { n with stop := some 2 } else n

/-- A node is the candidate that the device tries, over a link that is up (R298, R389), and what its admission reads waits for
nothing (R95, R339); it does not return with its queue. -/
def Tried (s : State) (node : Nat) (n : Node) : Prop :=
  s.mode = .running ∧ Cells.find s.nodes node = some n ∧ s.mayRejoin n = false ∧ s.ucie.any id = true
    ∧ s.isCandidate n = true ∧ s.moving n.oid = false ∧ s.admitWaits n = []

/-- An admitted node of a resumed queue is admitted again, over a link that is up (R311, R389). -/
def Rejoins (s : State) (node : Nat) (n : Node) : Prop :=
  s.mode = .running ∧ s.ucie.any id = true ∧ Cells.find s.nodes node = some n ∧ s.mayRejoin n = true

/-- The node under a number replaced. -/
def withNode (s : State) (node : Nat) (n : Node) : State := { s with nodes := Cells.put s.nodes node n }

/-- A node that has been refused, with its hint (R298, R303). -/
def refusedNode (s : State) (n : Node) (hint : Nat) (final : Bool) : Node :=
  { n with refusals := n.refusals + 1, retry := s.slot + hint,
           stop := if final = true ∧ hint = 0x7FFFFFFF then some 3 else none }

/-- A node whose next group of teams has been launched (R24, R78). -/
def launchedNode (n : Node) (o : Object) : Node :=
  { n with unlaunched := n.unlaunched.filter fun u => !(groupOf o.cgsz n.unlaunched).contains u }

/-- The node may complete with `code`, and its status word can be written (R50, R95, R299, R311, R339). -/
def Completes (s : State) (node code : Nat) (n : Node) : Prop :=
  s.mode = .running ∧ Cells.find s.nodes node = some n ∧ s.nodeDone node n = some code
    ∧ ((s.queue n.q).state < 2 ∨ code = 6) ∧ s.moving n.oid = false ∧ s.gHeld n.oid (n.entry + 120) = false

/-- The queue of a node that has completed: the entry is recorded, and PROG advances unless the queue is switched out. -/
def queueAfter (s : State) (n : Node) (code : Nat) : Queue :=
  let x := { s.queue n.q with done := Cells.put (s.queue n.q).done n.count.toNat code }
  if 2 ≤ (s.queue n.q).state then x else (Queue.advance 65537 x).forget

/-- The effect of an acknowledgement (R306, R310): the work of the class stops, and the team is saved once every engine that holds
work of it has acknowledged. -/
def acknowledged (s : State) (team : Nat) (t : Team) (ev all : Bool) (acked : List EngineClass) (e : EngineClass) : State :=
  let x := s.stopWork team t ev e
  let u := (Cells.find x.teams team).getD t
  if x.allAcked team u all (acked ++ [e]) = true then x.saveTeam team u ev
  else x.setTeam team { u with state := .stopping ev all (acked ++ [e]) }

/-- A saved team may become resident again on a core, in the contexts `ks` (R309, R311, R326). -/
def Returns (s : State) (team core : Nat) (t : Team) (ev : Bool) (ks : List Nat) : Prop :=
  s.mode = .running ∧ Cells.find s.teams team = some t ∧ t.state = .saved ev
    ∧ (∃ n, Cells.find s.nodes t.node = some n ∧ n.out = false ∧ n.stop = none) ∧ s.mayReturn team t core = true
    ∧ s.contexts core (match t.coaches.filter fun c => !c.ended with | c :: _ => c.allot | [] => 16)
        (t.coaches.filter fun c => !c.ended).length = some ks

/-- The queue as its switch-out held it, live again (R292, R311). -/
def queueBack (x : Queue) : Queue :=
  (Queue.advance 65537 { x with en := x.pending.1, lgsz := x.pending.2, state := bit x.pending.1, later := none }).forget

end Sys2Proof.Claims

/-- R13, R291 to R294, R390, R392 and R397: QTAIL_WRITE, QUEUE_ENABLE, QUEUE_DISABLE, QCFG_ERR_CLEAR and
QUEUE_OID_PMAX_SET; and REGISTER_WRITE in each window over each link; a window that a link does not reach, and in
recovery the queue window, ignore it. The QCFG writes are those to a queue that is not switched out. A narrow write is
merged (log entry 49), and the links and recovery are read by log entry 31. -/
def Obligations.QueueRegisterWritesComplete : Prop :=
  (∀ s q v, HostReaches s q → exec (.qtailWrite q v) s = .next
    (withQueue s q (tailWritten (s.queue q) v s.mem.writes)))
  ∧ (∀ s q v, HostReaches s q → (s.queue q).state < 2 → (s.queue q).later = none → (s.queue q).en = false →
    bitOf v 31 = true → exec (.queueEnable q v) s = .next (withQueue s q (cfgWritten (s.queue q) v)))
  ∧ (∀ s q v, HostReaches s q → (s.queue q).state < 2 → (s.queue q).later = none → (s.queue q).en = true →
    bitOf v 31 = false → exec (.queueDisable q v) s = .next (withQueue s q (cfgWritten (s.queue q) v)))
  ∧ (∀ s q v, HostReaches s q → (s.queue q).state < 2 → bitOf v 30 = true →
    exec (.qcfgErrClear q v) s = .next (withQueue s q (cfgWritten (s.queue q) v)))
  ∧ (∀ s q oid pmax, s.mode = .running → q < 64 → oid < 4096 → pmax < 8 →
    exec (.queueOidPmaxSet q oid pmax) s = .next (withQueue s q { s.queue q with oid := oid, pmax := pmax }))
  ∧ (∀ s off size v, s.mode = .running → s.ucie.any id = true → Aligned off size → off < 0x1000 →
    exec (.registerWrite .main off size v) s = .next
      (withQueue s (off / 64) ((s.queue (off / 64)).write (off % 64) size v.toNat s.mem.writes)))
  ∧ (∀ s off size v, s.mode = .running ∨ s.mode = .recovery → s.ucie.any id = true → Aligned off size →
    0x10000 ≤ off → off < 0x20000 →
    exec (.registerWrite .main off size v) s = .next (s.writeMailbox (off - 0x10000) size v.toNat))
  ∧ (∀ s off size v, s.mode = .running ∨ s.mode = .recovery → s.ucie.any id = true → Aligned off size →
    0x1000 ≤ off → off < 0x2000 →
    exec (.registerWrite .sideband off size v) s = .next (s.writeMgmt false (off - 0x1000) size v.toNat))
  ∧ (∀ s off size v, s.mode = .running → Aligned off size → 0x1000 ≤ off → off < 0x2000 →
    exec (.registerWrite .firmware off size v) s = .next (s.writeMgmt true (off - 0x1000) size v.toNat))
  ∧ (∀ s off size v, (0x1000 ≤ off ∧ off < 0x10000) ∨ 0x20000 ≤ off → exec (.registerWrite .main off size v) s = .next s)
  ∧ (∀ s link off size v, link ≠ .main → off < 0x1000 ∨ 0x2000 ≤ off →
    exec (.registerWrite link off size v) s = .next s)
  ∧ ∀ s off size v, s.mode = .recovery → off < 0x1000 → exec (.registerWrite .main off size v) s = .next s

/-- R295 to R299, R303, R311, R377, R383 and R384: RECORD_FETCH, DZITUM_TRANSLATION (of an object with no kept translation; of
an invalid one), NODE_ADMISSION (of a candidate; of a node that returns with its queue), TEAM_LAUNCH and NODE_COMPLETION,
which writes 2^63 + code · 2^48 + the slot into the record's status word, removes the node's drays, leaves those of other
nodes as they are, and lets kernels that wait for a channel start. The bases of a relocation are log entry 17, the placing of
reservations and teams log entries 19 and 20, what a translation must hold log entry 21, and what counts as late log entry 39.
-/
def Obligations.NodeEventsComplete : Prop :=
  (∀ s q place s' n, s.mode = .running → Fetches s q →
    s.loadNode (recordNode s q) (s.queue q).lgsz place = .ok (s', n) →
    exec (.recordFetch { q := q, place := place }) s = .next
      { withQueue s' q (queueFetched (s.queue q)) with
        nodes := Cells.put s'.nodes s.fresh (afterPreds (s.queue q) n), fresh := s.fresh + 1,
        turn := if s.turn.1 = q ∧ s.turn.2 < 64 then (q, s.turn.2 + 1) else (q, 1) })
  ∧ (∀ s node tr n o o', s.mode = .running → Cells.find s.nodes node = some n → n.translating = true →
    n.object = some o → celudValid o.words = true → s.keptTranslation n.oid (n.fld 3 0 56) o = none → o.mayBe tr = true →
    o.translated tr = some o' →
    exec (.dzitumTranslation node tr.code tr.toKeep) s = .next { s with
      nodes := Cells.put s.nodes node { n with translating := false, object := some o' }
      translations := (n.oid, n.fld 3 0 56, o, tr)
        :: s.translations.filter fun e => !(e.1 = n.oid && e.2.1 = n.fld 3 0 56 && e.2.2.1 = o) })
  ∧ (∀ s node code keep n o, s.mode = .running → Cells.find s.nodes node = some n → n.translating = true →
    n.object = some o → celudValid o.words = false →
    exec (.dzitumTranslation node code keep) s = .next (withNode s node { n with translating := false, stop := some (n.stop.getD 1) }))
  ∧ (∀ s node n s' n', Tried s node n → s.tryNode node n = .admitted s' n' →
    exec (.nodeAdmission node) s = .next (withNode s' node n').startAll)
  ∧ (∀ s node n, Tried s node n → s.tryNode node n = .invalid → exec (.nodeAdmission node) s = .next (s.stopNode node 1))
  ∧ (∀ s node n s', Rejoins s node n → s.placeNode s.slot n (s.needAgain n) = some s' →
    exec (.nodeAdmission node) s = .next (withNode s' node
      { n with out := false, bounded := true, deadline := s.slot + 16 * 4 ^ n.cls, retry := 0 }).startAll)
  ∧ (∀ s node n, Rejoins s node n → s.placeNode s.slot n (s.needAgain n) = none →
    exec (.nodeAdmission node) s = .next
      ((withNode s node { n with retry := s.slot + s.nodeHint n (s.needAgain n) }).count (0x300 + n.cls)))
  ∧ (∀ s node n hint final, Tried s node n → s.tryNode node n = .refused hint final →
    exec (.nodeAdmission node) s = .next (State.count { s with nodes := Cells.put s.nodes node (refusedNode s n hint final) }
      (0x300 + n.cls)))
  ∧ (∀ s node cores areas n o s', s.mode = .running → Cells.find s.nodes node = some n → n.object = some o →
    n.admitted.isSome = true → n.stop = none → n.out = false → groupOf o.cgsz n.unlaunched ≠ [] →
    areas.length = (groupOf o.cgsz n.unlaunched).length * o.nc → cores.eraseDups.length = cores.length →
    (o.cgsz = 0 ∨ ∀ c ∈ cores, Config.clusterOf c = Config.clusterOf (cores.headD 0)) →
    s.launchGroup node n o (groupOf o.cgsz n.unlaunched) cores areas = some s' →
    exec (.teamLaunch node cores areas) s = .next { s' with nodes := Cells.put s'.nodes node (launchedNode n o) })
  ∧ ∀ s node code n, Completes s node code n → ∃ t, exec (.nodeCompletion node) s = .next t
      ∧ t.mem = (s.gStore n.oid (n.entry + 120) (leBytes 8 (2 ^ 63 + code * 2 ^ 48 + s.slot % 2 ^ 48))).mem
      ∧ t.queues = Cells.set {} s.queues n.q (queueAfter s n code)
      ∧ (∀ k, (Cells.find t.nodes k).isSome = (Cells.find (Cells.drop s.nodes node) k).isSome)
      ∧ t.teams = s.teams.filter (fun p => p.2.node ≠ node)
      ∧ (∀ ch d, Cells.find (s.drays.filter fun p => p.2.node ≠ node) ch = some d → Cells.find t.drays ch = some d)
      ∧ (∀ p ∈ t.drays, (p ∈ s.drays ∧ p.2.node ≠ node)
        ∨ ∃ q ∈ Cells.drop s.nodes node, ∃ d ∈ q.2.start, p = (d.1, { d.2 with saved := false }))
      ∧ (∀ p ∈ t.nodes, code ≠ 0 → p.2.q = n.q → p.2.admitted = none → p.2.predCounts.contains n.count = true →
        p.2.stop.isSome = true)

/-- R306 to R311 and R326: SLICE_EXPIRY, STOP_ORDER, EVICTION, ENGINE_ACKNOWLEDGEMENT (of a team; of the drays of a
kernel node), TEAM_RESUME, QUEUE_SWITCH_OUT and QUEUE_RESUME. What an engine performs before it acknowledges is free
(log entry 12), when another team waits for a core is log entry 12, and where reservations are placed log entry 19. -/
def Obligations.TeamEventsComplete : Prop :=
  (∀ s team t, s.mode = .running → Cells.find s.teams team = some t → t.state = .resident → t.slice ≠ 0 →
    t.sinceIn + t.slice ≤ s.slot → s.wanted team t = true →
    exec (.sliceExpiry team) s = .next (s.stopTeam team false false))
  ∧ (∀ s team t, s.mode = .running → Cells.find s.teams team = some t → t.state = .resident →
    exec (.stopOrder team) s = .next (s.stopTeam team false true))
  ∧ (∀ s team t, s.mode = .running → Cells.find s.teams team = some t → t.state = .resident →
    exec (.eviction team) s = .next ((State.stopRequests
      { s with nodes := Cells.modify s.nodes t.node fun n => { n with bounded := false } } team true t.stopped).stopTeam
        team true true))
  ∧ (∀ s team t ev all acked e, s.mode = .running → Cells.find s.teams team = some t → t.state = .stopping ev all acked →
    acked.contains e = false → s.holdsWork team t all e = true → s.stoppedAt team t all acked e = true →
    exec (.engineAcknowledgement team e) s = .next (acknowledged s team t ev all acked e))
  ∧ (∀ s node n, s.mode = .running → Cells.find s.teams node = none → Cells.find s.nodes node = some n →
    n.out = true ∨ n.stop = some 6 → n.eng = 1 → exec (.engineAcknowledgement node .drays) s = .next (s.saveDrays node))
  ∧ (∀ s team core t ks, Returns s team core t false ks →
    exec (.teamResume team core) s = .next (s.restoreTeam team t core ks))
  ∧ (∀ s team core t ks x y, Returns s team core t true ks → s.ucie.any id = true → s.renewNode t core = .ok x →
    x.readmitAll core t.stopped = .ok y → exec (.teamResume team core) s = .next (y.restoreTeam team t core ks))
  ∧ (∀ s team core t ks c, Returns s team core t true ks → s.ucie.any id = true →
    (s.renewNode t core = .error c ∨ ∃ x, s.renewNode t core = .ok x ∧ x.readmitAll core t.stopped = .error c) →
    exec (.teamResume team core) s = .next (s.count (0x300 + c)))
  ∧ (∀ s q x, s.mode = .running → q < 64 → (s.queue q).state < 2 →
    x = (withQueue s q { s.queue q with state := 2 }).modNodesOf q (fun n => { n with out := true, bounded := false }) →
    exec (.queueSwitchOut q) s = .next
      (((x.teams.filter fun p => x.queueOf p.2.node = q).foldl (fun s p => s.evictTeam p.1) (x.stopGathers q)).finishSwitchOut q))
  ∧ ∀ s q, s.mode = .running → (s.queue q).state = 3 →
    exec (.queueResume q) s = .next ((withQueue s q (queueBack (s.queue q))).modNodesOf q fun n =>
      if n.stop.isSome = true then { n with out := false } else n)

namespace Sys2Proof.Claims

/-! ### Events of drays, windows, firmware and boot -/

/-- An active dray whose next command `c` is carried out: no window, suspension or stop is due at the boundary that it has
reached (R338, R340, R341, R346), and the command has its data-queue room or its release (R332, R334). -/
def Commands (s : State) (ch : Nat) (d : Dray) (c : RowCmd) (rest : List RowCmd) : Prop :=
  s.mode = .running ∧ Cells.find s.drays ch = some d ∧ d.active = true ∧ d.rowq = c :: rest ∧ s.windowDue ch d.reach = false
    ∧ d.reach.headWaits = false ∧ (d.reach.counted && s.draining ch) = false
    ∧ (d.reach.counted && s.drayNodeFaulted d.node) = false

/-- The dray with its head command taken; the next boundary is to be counted anew (R340). -/
def taken (d : Dray) (rest : List RowCmd) : Dray := { d.reach with rowq := rest, counted := false }

/-- A row of a bank is released: the packets that wait for it are applied (R345), and the boundary that the dray may have reached
then is counted (R340). -/
def released (s : State) (ch : Nat) (d : Dray) (bank : Nat) : State :=
  let x := s.flush ch d fun p => p.bank = bank
  { x with drays := Cells.modify x.drays ch Dray.reach }

/-- The kernel leaves the dray of channel `ch`: its packets are applied, and what waits for the channel is served (R338, R345). -/
def left (s : State) (ch : Nat) (d : Dray) : State :=
  (s.flush ch { d with stopped := true, opened := [], rowq := [], dataq := [], endA := true, endX := true } fun _ => true).serveFree

/-- The packet of a reduction is well formed (R345): a sector of HBM, a format and an operation of R93. -/
def PacketOk (pa fmt op : Nat) (elems : List Byte) : Prop :=
  pa < 2 ^ 39 ∧ pa % 32 = 0 ∧ elems.length ≤ 32 ∧ xfFmt fmt = true ∧ fmt ≤ 10 ∧ 4 ≤ op ∧ op ≤ 6

/-- The count of a lifetime counter after an event. -/
def counted (s : State) (k : Nat) : Cells Nat := Cells.set 0 s.life k (min (Cells.get 0 s.life k + 1) (2 ^ 64 - 1))

/-- A reduction packet that arrives (R345, R394): reserved on the fabric links and handled by the dray of its sector, or refused
with a hint and counted, with no other effect, where the dray keeps 64 packets already or the links have no room. While the stack
awaits its ratio the packet stalls (R346). It names no class; the model takes the widest, and when a full buffer has a place again
is open (log entry 24). -/
def packetTaken (s : State) (p : Packet) : State :=
  if s.draining (channelOf p.sector) = true then s.markWaiting [channelOf p.sector] false
  else if ∃ d, s.keepsPacket p = some d ∧ 64 ≤ d.packets.length then
    { s with life := counted s 0x307, peerHint := some (Config.choose s.tick 4 % 524288 + 1) }
  else match s.tryAdmit p.oid 7 16 [] [.spread 0x19 p.elems.length] with
    | .error k => { s with life := counted s 0x307, peerHint := some k }
    | .ok s => State.arrivePacket { s with peerHint := none } p

/-- An access of the aperture that reaches the device (R391). -/
def ApertureOn (s : State) (off size : Nat) : Prop :=
  s.mode = .running ∧ s.ucie.any id = true ∧ s.mgmt.apEn = true ∧ off < 2 ^ 36 ∧ size ∈ [1, 2, 4, 8] ∧ off % size = 0

/-- Bytes of an element of the source and of the destination of a fabric copy (R394). -/
def fabSrc (xf sf : Nat) : Nat := if xf = 0 then 1 else fmtBytes sf
def fabDst (xf df : Nat) : Nat := if xf = 0 then 1 else fmtBytes df
def fabLen (xf sf df : Nat) (bytes : List Byte) : Nat := bytes.length / fabSrc xf sf * fabDst xf df

/-- The arguments of a fabric copy and of a fabric call are valid (R92, R256, R262, R394). -/
def FabCopyOk (va xf sf df cls : Nat) (bytes : List Byte) : Prop :=
  0 < fabLen xf sf df bytes ∧ fabLen xf sf df bytes ≤ 2 ^ 24 ∧ xf ≤ 6 ∧ cls ≤ 7
    ∧ (xf ≠ 0 → xfFmt sf = true ∧ xfFmt df = true ∧ sf ≤ 10 ∧ df ≤ 10) ∧ va % fabDst xf df = 0
def FabCallOk (s : State) (oid len entry layer target nret cls : Nat) (payload : List Word) : Prop :=
  payload.length ≤ 16 ∧ nret ≤ 8 ∧ cls ≤ 7 ∧ entry < len ∧ entry % 4 = 0
    ∧ (layer = 3 ∨ layer = 4 ∧ s.anyHost oid target 1 = false ∧ s.movingIn oid target 1 = false)

/-- This part refuses a request of a peer, whose arguments are valid, with hint `k` (R394). -/
def fabRefused (s : State) (req : FabricReq) (c k : Nat) : Prop :=
  match req with
  | .copy oid va xf sf df _ cls bytes => FabCopyOk va xf sf df cls bytes ∧ c = cls ∧ ∃ dst,
      s.wholeRange (peerAgent oid) 4 .store va (fabLen xf sf df bytes) = .ok dst ∧ s.heldChannels dst = []
        ∧ s.tryAdmit oid cls 16 (s.pagesOf oid va (fabLen xf sf df bytes))
          (byteNeeds [] dst ++ [.spread 0x19 bytes.length] ++ if xf = 0 then [] else drayNeeds dst) = .error k
  | .reduce .. => False
  | .call oid _ len entry layer target nret cls payload =>
      FabCallOk s oid len entry layer target nret cls payload ∧ c = cls ∧ ∃ ps loc,
      s.wholeRange (peerAgent oid) layer .load target 1 = .ok ps ∧ pieceLoc ps 0 = some loc
        ∧ s.tryAdmit oid cls 32 [] (callNeeds (executorOf layer 0 loc) cls payload.length nret
          ++ [.spread 0x19 (4 * payload.length), .spread 0x18 (4 * nret)]) = .error k

/-- The bytes that the relay reads for a request, and the number of its call: that of its port and of its entry (R263, R395). -/
def relayLen (req : FabricReq) : Nat := if fabricIsCall req then 0 else (fabricShape req).2.2.1
def relayNumber (s : State) (req : FabricReq) : Nat := if fabricIsCall req then 0x400 + Config.choose s.tick 2 % 1024 else 0

/-- The relay may send a request: its class exists, its entry in the table is free, and the source of its bytes, `ps`, can be
read. -/
def Relays (s : State) (src : Nat) (req : FabricReq) (ps : List Piece) : Prop :=
  s.mode = .running ∧ s.fabricOn = true ∧ (fabricShape req).2.1 ≤ 7
    ∧ (fabricIsCall req = true → ∀ p ∈ s.calls, p.2.relay ≠ some (relayNumber s req))
    ∧ s.wholeRange (peerAgent (fabricShape req).1) 4 .load src (relayLen req) = .ok ps ∧ s.heldChannels ps = []

/-- This part's admission of an outbound request (R302, R395, R405): the bytes that it reads, and the fabric links. -/
def relayAsks (s : State) (src : Nat) (req : FabricReq) (ps : List Piece) : Except Nat State :=
  s.tryAdmit (fabricShape req).1 (fabricShape req).2.1 (if fabricIsCall req then 32 else 16)
    (s.pagesOf (fabricShape req).1 src (relayLen req))
    (byteNeeds ps [] ++ [.spread 0x18 (fabricShape req).2.2.1]
      ++ if (fabricShape req).2.2.2 = 0 then [] else [.spread 0x19 (fabricShape req).2.2.2])

/-- The hint with which the peer refuses, or 0 where it admits: what the peer does is open (log entry 24). A hint is from 1 to
524,288 slots, or 0x7FFF_FFFF where the request can never be admitted (R303). -/
def peerRefusal (s : State) : Nat := if Config.choose s.tick 1 % 2 = 0 then peerHintOf (Config.choose s.tick 5) else 0

/-- The part has power and its boot has ended: it runs, or is in recovery (R397, R404). -/
def Powered (s : State) : Prop := s.mode = .running ∨ s.mode = .recovery

/-- A command is at hand in the mailbox of a part that runs (R398). -/
def CommandAtHand (k : Word) (s : State) : Prop := s.mailbox.command = k ∧ s.mailbox.status = 1 ∧ s.mode = .running

/-- The images pass the boot ROM (R397, R401). -/
def ImagesGood (f : Images) (b : List Byte) : Prop :=
  Config.sha3 f.saolefKey = Config.fusedDigest ∧ Config.mldsaVerify f.axle f.axleSig f.saolefKey = true
    ∧ f.block = some b ∧ Config.mldsaVerify f.coachwork f.coachworkSig f.saolefKey = true

end Sys2Proof.Claims

/-- R334 to R341, R345 to R347: OPEN_COMMAND, READ_COMMAND, WBACK_COMMAND, CLOSE_COMMAND, ARBITRATION_WINDOW,
WINDOW_EXPIRY, DRAY_KERNEL_END, REDUCTION_PACKET and CLOCK_RATIO_CHANGE, which orders a ratio and, once every kernel of
the stack stands at a row boundary, puts it into effect. A window serves every access that waits and lasts until they have been
served (log entry 54); how much longer is log entry 23; a packet is retried at a free time (log entry 24). -/
def Obligations.DrayEventsComplete : Prop :=
  (∀ s ch d j rest e, Commands s ch d (.open j) rest →
    e = { taken d rest with opened := Cells.put (taken d rest).opened ((taken d rest).bank j) j } →
    exec (.openCommand ch) s = .next (released (withDray s ch d.reach) ch e ((taken d rest).bank j)))
  ∧ (∀ s ch d j k n rest, Commands s ch d (.read j k n) rest → (taken d rest).isOpen j = true →
    exec (.readCommand ch) s = .next (withDray (withDray s ch d.reach) ch (Dray.reach { taken d rest with
      dataq := (taken d rest).dataq
        ++ (List.range n).map fun i => s.readStoN d.oid (sectorAddr (taken d rest) ch j (k + i)) 32
      columns := (taken d rest).columns + n })))
  ∧ (∀ s ch d j k b fp rest x, Commands s ch d (.wback j k b fp) rest → (taken d rest).isOpen j = true →
    x = (withDray s ch d.reach).writeLocs d.oid (.sto (sectorAddr (taken d rest) ch j k)) (wbackBytes (taken d rest) b fp) →
    exec (.wbackCommand ch) s = .next (withDray x ch (Dray.reach { taken d rest with
      rel := Cells.set 0 (taken d rest).rel b (Cells.get 0 (taken d rest).rel b - 1)
      columns := (taken d rest).columns + if fp then 2 else 1 })))
  ∧ (∀ s ch d j rest e, Commands s ch d (.close j) rest → (taken d rest).isOpen j = true →
    e = { taken d rest with opened := Cells.drop (taken d rest).opened ((taken d rest).bank j) } →
    exec (.closeCommand ch) s = .next (released (withDray s ch d.reach) ch e ((taken d rest).bank j)))
  ∧ (∀ s ch d, s.mode = .running → Cells.find s.drays ch = some d → d.active = true → s.windowDue ch d.reach = true →
    s.draining ch = false → exec (.arbitrationWindow ch) s = .next
      (s.flush ch { d.reach with window := true, boundaries := 0 } fun _ => true).serveFree)
  ∧ (∀ s ch d, s.mode = .running → Cells.find s.drays ch = some d → (∀ w ∈ s.arrivals, w.chan ≠ ch) →
    exec (.windowExpiry ch) s = .next (withDray s ch { d with window := false }))
  ∧ (∀ s ch d, s.mode = .running → Cells.find s.drays ch = some d → s.drayRuns ch d = true →
    (d.endA = true ∧ d.endX = true ∧ d.rowq = []) ∨ (d.atBoundary = true ∧ s.drayNodeFaulted d.node = true) →
    exec (.drayKernelEnd ch) s = .next (left s ch d))
  ∧ (∀ s oid pa fmt op elems, s.mode = .running → s.fabricOn = true → PacketOk pa fmt op elems →
    exec (.reductionPacket oid pa fmt op elems) s = .next
      (packetTaken s { oid := oid, sector := pa, fmt := fmt, op := op, elems := elems }))
  ∧ (∀ s st num den, s.mode = .running → st < 8 → 0 < den → Cells.find s.ratioNext st = none →
    exec (.clockRatioChange st num den) s = .next { s with ratioNext := Cells.put s.ratioNext st (num, den) })
  ∧ ∀ s st num den r, s.mode = .running → Cells.find s.ratioNext st = some r → s.drained st = true →
    exec (.clockRatioChange st num den) s = .next (State.serveFree { s with
      ratios := Cells.put s.ratios st r, ratioNext := Cells.drop s.ratioNext st })

/-- R79, R84, R315, R321, R322, R324, R391, R392, R397 and R403: SHOOT, REPTOK, PWRCAP_WRITE, APCTL_ERR_CLEAR, APERTURE_ACCESS
(a store; a read keeps the state; an access that is not translated sets ERR; one that a swap or a dray's kernel holds back
waits), GRANULE_ASSIGNMENT, TRANSLATION_ROOT_WRITE and HANDLER_IMAGE_LOAD. A scaled capacity holds in the slots whose
reservations fit it (log entry 19); the handler image is log entry 40. -/
def Obligations.FirmwareEventsComplete : Prop :=
  (∀ s oid vpn, s.mode = .running → oid < 2 ^ 12 → vpn < 2 ^ 40 → exec (.shoot oid vpn) s = .next
    { s.shootdown oid (vpn * 65536) 65536 with
      mgmt := { (s.shootdown oid (vpn * 65536) 65536).mgmt with shootOid := oid, shootVpn := vpn } })
  ∧ (∀ s oid token, s.mode = .running → oid < 2 ^ 12 → exec (.reptok oid token) s = .next
    { s.replayToken s.written oid token with
      mgmt := { (s.replayToken s.written oid token).mgmt with repOid := oid, repToken := token } })
  ∧ (∀ s w caps, s.mode = .running → exec (.pwrcapWrite w caps) s = .next { s with
      mgmt := { s.mgmt with powerCap := if w = 0 then 1 else min w.toNat s.powerLimit }
      capacity := (caps.filter fun p => decide (p.2 ≤ tableCap p.1)).foldl (fun c p => Cells.put c p.1 p.2) s.capacity })
  ∧ (∀ s, s.mode = .running → exec .apctlErrClear s = .next { s with mgmt := { s.mgmt with apErr := false } })
  ∧ (∀ s off size v pa leaf lvl, ApertureOn s off size →
    s.translate none s.mgmt.apOid (s.mgmt.apBase * 2 ^ 36 + off) .store = .ok pa leaf lvl → s.channelHeld pa = false →
    exec (.apertureAccess true off size v) s = .next (s.writeLocs s.mgmt.apOid (.sto pa) (leBytes size v.toNat)))
  ∧ (∀ s off size v pa leaf lvl, ApertureOn s off size →
    s.translate none s.mgmt.apOid (s.mgmt.apBase * 2 ^ 36 + off) .load = .ok pa leaf lvl → s.channelHeld pa = false →
    exec (.apertureAccess false off size v) s = .next s)
  ∧ (∀ s st off size v r, ApertureOn s off size →
    s.translate none s.mgmt.apOid (s.mgmt.apBase * 2 ^ 36 + off) (if st then .store else .load) = .fails r →
    exec (.apertureAccess st off size v) s = .next { s with mgmt := { s.mgmt with apErr := true } })
  ∧ (∀ s st off size v chans, ApertureOn s off size →
    s.translate none s.mgmt.apOid (s.mgmt.apBase * 2 ^ 36 + off) (if st then .store else .load) = .held chans →
    exec (.apertureAccess st off size v) s = .next (s.markWaiting chans))
  ∧ (∀ s st off size v pa leaf lvl, ApertureOn s off size →
    s.translate none s.mgmt.apOid (s.mgmt.apBase * 2 ^ 36 + off) (if st then .store else .load) = .ok pa leaf lvl →
    s.channelHeld pa = true → exec (.apertureAccess st off size v) s = .next (s.markWaiting [channelOf pa] (!st)))
  ∧ (∀ s g oid, s.mode = .running → g < 256 → oid < 4096 →
    exec (.granuleAssignment g oid) s = .next { s with granules := Cells.put s.granules g oid })
  ∧ (∀ s oid pa, s.mode = .running → oid < 4096 → pa % 65536 = 0 → pa < 2 ^ 52 →
    exec (.translationRootWrite oid pa) s = .next { s with roots := Cells.put s.roots oid pa })
  ∧ ∀ s oid vb len pool b, s.mode = .running → 0 < vb → vb < 2 ^ 44 → len % 4096 = 0 → 0 < len → len ≤ 2 ^ 26 →
    s.moving oid = false → s.gWaits oid (vb * 4096) len .load = [] → s.gBytes oid (vb * 4096) len = some b →
    exec (.handlerImageLoad oid vb len pool) s = .next { s with
      images := Cells.put s.images oid { vbase := vb, len := len, pool := pool % 2 ^ 56 }
      meas := Cells.put s.meas 3
        (digest ((Cells.find s.meas 3).getD (List.replicate 64 0) ++ digest b)) }

/-- R302, R304, R345, R389, R393 to R395, R401, R402 and R405: FABRIC_REQUEST (a copy, a reduction packet, a call, or a
refusal with its hint), FABRIC_RELAY_REQUEST (whether the peer admits it, and its hint, are open: log entry 24), UCIE_RETRAIN,
LANE_RETRAIN, SOFT_ERROR and DROOP_EVENT, in recovery too; a hardware fault excuses what is late because of it. When they
happen, and whether the peer answers, are free moves (log entry 2); an arriving copy is performed in the step of its arrival,
and a packet takes the reservations of class 7 (log entry 24); without a configuration block every module is enabled (log
entry 53). -/
def Obligations.FabricAndErrorEventsComplete : Prop :=
  (∀ s oid va xf sf df scalar cls bytes dst s', s.mode = .running → s.fabricOn = true → FabCopyOk va xf sf df cls bytes →
    s.wholeRange (peerAgent oid) 4 .store va (fabLen xf sf df bytes) = .ok dst → s.heldChannels dst = [] →
    s.tryAdmit oid cls 16 (s.pagesOf oid va (fabLen xf sf df bytes))
      (byteNeeds [] dst ++ [.spread 0x19 bytes.length] ++ if xf = 0 then [] else drayNeeds dst) = .ok s' →
    exec (.fabricRequest (.copy oid va xf sf df scalar cls bytes)) s = .next
      { s'.fabricCopy oid xf (fabSrc xf sf) (fabDst xf df) sf df scalar dst bytes with peerHint := none })
  ∧ (∀ s oid pa fmt op elems, s.mode = .running → s.fabricOn = true → PacketOk pa fmt op elems →
    exec (.fabricRequest (.reduce oid pa fmt op elems)) s = .next
      (packetTaken s { oid := oid, sector := pa, fmt := fmt, op := op, elems := elems }))
  ∧ (∀ s oid base len entry layer target nret cls payload ps loc s', s.mode = .running → s.fabricOn = true →
    FabCallOk s oid len entry layer target nret cls payload → s.wholeRange (peerAgent oid) layer .load target 1 = .ok ps →
    pieceLoc ps 0 = some loc →
    s.tryAdmit oid cls 32 [] (callNeeds (executorOf layer 0 loc) cls payload.length nret
      ++ [.spread 0x19 (4 * payload.length), .spread 0x18 (4 * nret)]) = .ok s' →
    exec (.fabricRequest (.call oid base len entry layer target nret cls payload)) s = .next
      (State.addCall { s' with peerHint := none }
        { token := 0, ex := executorOf layer 0 loc, team := 0, coach := 0, oid := oid,
          deadline := s'.slot + 16 * 4 ^ cls, nret := nret, payload := payload, entry := entry,
          caller := { oid := oid, code := base, codeLen := len } }).1)
  ∧ (∀ s req cls k, s.mode = .running → s.fabricOn = true → fabRefused s req cls k →
    exec (.fabricRequest req) s = .next { s with life := counted s (0x300 + cls), peerHint := some k })
  ∧ (∀ s src req ps s', Relays s src req ps → peerRefusal s = 0 → relayAsks s src req ps = .ok s' →
    exec (.fabricRelayRequest { src := src, req := req }) s = .next
      (s'.relaySend (fabricCarrying (s.readPieces (fabricShape req).1 ps 0 (relayLen req)) req) (relayNumber s req)))
  ∧ (∀ s src req ps s', Relays s src req ps → peerRefusal s ≠ 0 → relayAsks s src req ps = .ok s' →
    exec (.fabricRelayRequest { src := src, req := req }) s = .next
      { s with life := counted s (0x300 + (fabricShape req).2.1), relayHint := some (peerRefusal s) })
  ∧ (∀ s src req ps k, Relays s src req ps → relayAsks s src req ps = .error k →
    exec (.fabricRelayRequest { src := src, req := req }) s = .next
      { s with life := counted s (0x300 + (fabricShape req).2.1), relayHint := some (max k (peerRefusal s)) })
  ∧ (∀ s m tr, Powered s → m < 4 → exec (.ucieRetrain m tr) s = .next
    { State.excuse { s with life := counted s (0x200 + m) } with ucie := s.ucie.set m (tr && s.moduleEnabled m) })
  ∧ (∀ s l, Powered s → l < 36 → exec (.laneRetrain l) s = .next
    (State.excuse { s with life := counted s (0x210 + l) }))
  ∧ (∀ s r node, Powered s → r ≤ 14 →
    exec (.softError r true node) s = .next { s with life := counted s r })
  ∧ (∀ s r node n, s.mode = .running → r ≤ 14 → Cells.find s.nodes node = some n → n.admitted.isSome = true →
    exec (.softError r false node) s = .next
      (State.stopNode (State.excuse { s with life := counted s (0x20 + r) }) node 5))
  ∧ (∀ s r node, s.mode = .recovery ∨ (s.mode = .running ∧ ∀ n, Cells.find s.nodes node = some n → n.admitted = none) → r ≤ 14 →
    exec (.softError r false node) s = .next (State.excuse { s with life := counted s (0x20 + r) }))
  ∧ ∀ s mv, Powered s → mv / 5 < 64 → exec (.droopEvent mv) s = .next { s with life := counted s (0x140 + mv / 5) }

/-- R397 to R402 and R404: POWER_ON with images that verify, and with images that do not; ATTEST, GETEK, LOADKEY,
WITHDRAW; TRIP, LIFETIME_LOG_WRITE and POWER_LOSS. The cryptographic functions are opaque (log entry 18), POWER_LOSS,
TRIP and recovery are read by log entry 31, the images are inputs (log entry 42), and WITHDRAW erases the key in a
second step (log entry 46). -/
def Obligations.BootAndMailboxEventsComplete : Prop :=
  (∀ s, s.mode = .inReset ∨ s.mode = .off → ∃ t, exec .powerOn s = .next t ∧ t.mem = {} ∧ t.life = s.lifeMram
    ∧ t.teams = [] ∧ t.nodes = [] ∧ t.keys = []
    ∧ (∀ b, ImagesGood s.found b → t.mode = .running ∧ t.mgmt.powerCap = blockNat b 0x24 4
      ∧ t.meas = extend (extend (extend [] 0 s.found.axle) 1 b) 2 s.found.coachwork
      ∧ t.fabricOn = decide (blockNat b 0x20 4 % 2 = 1))
    ∧ ((∀ b, ¬ ImagesGood s.found b) → t.mode = .recovery))
  ∧ (∀ s, s.mailbox.command = 1 → s.mailbox.status = 1 → Powered s →
    exec .attest s = .next (s.answer 2 (s.report ++ signature s.report)))
  ∧ (∀ s, CommandAtHand 2 s → exec .getek s = .next
    (s.answer 2 (encapsulationBytes ++ signature encapsulationBytes)))
  ∧ (∀ s oid k, CommandAtHand 3 s → oid = leNat (s.requestBytes 0 4) → 0 < oid → oid < 0xFFF → oid ∉ s.keys →
    Config.unwrap (s.requestBytes 4 1568) (s.requestBytes 1572 72) = some k →
    exec .loadkey s = .next (State.answer
      { s with keys := oid :: s.keys, keyBits := Cells.put s.keyBits (s.keyOf oid) k } 2 []))
  ∧ (∀ s oid, CommandAtHand 3 s → oid = leNat (s.requestBytes 0 4) → 0 < oid → oid < 0xFFF → oid ∉ s.keys →
    Config.unwrap (s.requestBytes 4 1568) (s.requestBytes 1572 72) = none →
    exec .loadkey s = .next (s.answer 0x80000002 []))
  ∧ (∀ s oid, CommandAtHand 3 s → oid = leNat (s.requestBytes 0 4) → oid = 0 ∨ 0xFFF ≤ oid ∨ oid ∈ s.keys →
    exec .loadkey s = .next (s.answer 0x80000001 []))
  ∧ (∀ s oid x, CommandAtHand 4 s → oid = leNat (s.requestBytes 0 4) →
    (∀ p ∈ s.nodes, p.2.oid = oid → p.2.admitted = none) → x = s.abortCalls oid →
    exec .withdraw s = .next (State.answer { x with
      keys := x.keys.filter (· ≠ oid), epochs := Cells.set 0 x.epochs oid (Cells.get 0 x.epochs oid + 1) } 2 []))
  ∧ (∀ s, Powered s → exec .trip s = .next { s with life := counted s 0x420, mode := .recovery })
  ∧ (∀ s, Powered s → exec .lifetimeLogWrite s = .next { s with lifeMram := s.life })
  ∧ ∀ s, ∃ t, exec .powerLoss s = .next t ∧ t.mode = .off ∧ t.mem = {} ∧ t.keys = [] ∧ t.teams = [] ∧ t.queues = []
    ∧ t.life = s.lifeMram ∧ t.lifeMram = s.lifeMram ∧ t.found = s.found

namespace Sys2Proof.Claims

/-! ### Traps -/

/-- What an instruction does that traps at itself (R47, R48, R312): a coach in compatibility mode outside its handler parks
the sub-group, every other issuer stops whole. -/
def trapsAt (s : State) (h : Here) (t : Trap) : State :=
  if h.t.compat = true ∧ h.remote = none ∧ h.c.saved = none then s.parkFaulting h t else s.trapNow h t

/-- The instructions that a remote function may execute (R264): uniform arithmetic, compare, select and constants, control
transfers but RFE and REPLAY, SRRD, uniform loads and stores plain and ordered, load-consumes, atomics and FENCE. The prefix
and the trailer belong to the words of the run. -/
def remoteMay : Instr → Bool
  | .bz .. | .bnz .. | .bra .. | .call .. | .callr .. | .brr .. | .ret .. | .endLanes .. | .trap .. => true
  | .usel .. | .uaddp .. | .uaddpi .. | .umovi .. | .srrd .. | .fence .. | .immx .. | .runend .. => true
  | i => (uniformBinary i).isSome || (uniformImmediate i).isSome || (uniformLoad i).isSome || (uniformStore i).isSome
    || (uniformAtomic i).isSome

/-- The trap of a uniform access at `ea` whose check fails (R243, R317): no lane is named. -/
def accessTrap (cause : Cause) (reason space : Nat) (ea : Int) : Trap :=
  { cause := cause, reason := reason, space := space, addr := (ea % 2 ^ 56).toNat }

/-! ### Traps on operands -/

/-- The record of the lanes whose accesses fail (R243, R317), in increasing order. -/
def failingLanes (s : State) (h : Here) (space n : Nat) (acc : Access) (ea : Nat → Int) : List LaneFault :=
  (lanesOf h.g.exec).filterMap fun l => match s.check h.agent space l (ea l) n acc with
    | .fails c r => some { lane := l, cause := c, reason := r, space := space, addr := (ea l % 2 ^ 56).toNat }
    | _ => none

/-- The trap of a lane access: cause, reason and address are those of the lowest failing lane (R243, R317). -/
def laneTrap (space : Nat) (f : LaneFault) (bad : List LaneFault) : Trap :=
  { cause := f.cause, reason := f.reason, space := space, addr := f.addr, lanes := bad }

/-- Where the word, with its IMMX, began (R313). -/
def startOf (h : Here) : Nat := if h.run.pre.isSome then h.g.pc - 4 else h.g.pc

/-- The issuer without the lanes that failed, which have become a parked sub-group under a record of their own (R48). -/
def lanesSplit (h : Here) (t : Trap) : Here :=
  let bad := maskOf (t.lanes.map LaneFault.lane)
  { h with
    g := { h.g with mem := h.g.mem &&& ~~~bad, exec := h.g.exec &&& ~~~bad, rest := true }
    c := { h.c with
      subs := h.c.subs ++ [{ h.rewind.g with id := h.c.nextId, mem := bad, exec := bad, parks := [.faulted], rest := false }]
      nextId := h.c.nextId + 1
      stops := h.c.stops ++ [{ trap := t, pc := startOf h, word := h.run.word, pre := h.run.pre, resume := startOf h,
                               exec := bad, mem := bad, run := h.run.no, sub := h.c.nextId }] } }

/-! ### Handlers -/

/-- The sixteen words of a fault record (R317). -/
def recordWords (f : Stopped) (token : Word) (pool : Nat) : List Word :=
  [BitVec.ofNat 32 (f.trap.cause.code * 2 ^ 24 + f.trap.reason % 16 * 2 ^ 20 + f.trap.space % 16 * 2 ^ 16 + f.trap.detail.toNat),
    BitVec.ofNat 32 f.pc, f.word, (match f.pre with | some i => BitVec.ofNat 32 (2 ^ 31 + i.toNat) | none => 0),
    BitVec.ofNat 32 f.trap.addr, BitVec.ofNat 32 (f.trap.addr / 2 ^ 32 % 2 ^ 24), f.trap.w6,
    (if f.trap.lanes = [] then f.exec else maskOf (f.trap.lanes.map LaneFault.lane)),
    f.exec, f.mem, BitVec.ofNat 32 f.resume, token, BitVec.ofNat 32 f.run,
    BitVec.ofNat 32 pool, BitVec.ofNat 32 (pool / 2 ^ 32 % 2 ^ 24), 0]

/-- The causes, reasons and spaces of a stop are codes of R314 and R317. -/
def RecordFits (f : Stopped) : Prop := f.trap.reason < 16 ∧ f.trap.space < 16

/-- The context that an entry saves, with its taints (R112, R319). -/
def savedContext (c : Coach) (f : Stopped) (token : Word) : Saved :=
  { fault := f, token := token, s := (List.range 8).map fun i => Cells.get 0 c.s (56 + i),
    st := (List.range 8).map fun i => Cells.get false c.st (56 + i), t := c.t, tt := c.tt, tw := c.tw, vi := c.vi,
    subs := c.subs, parents := c.parents }

/-- The handler's sub-group (R319): full membership, EXEC of word 7, no parent, at offset 256 · class. -/
def handlerSub (c : Coach) (f : Stopped) : SubGroup :=
  { id := c.nextId, pc := 256 * (f.trap.cause.code / 16), mem := 0xFFFFFFFF,
    exec := if f.trap.lanes = [] then f.exec else maskOf (f.trap.lanes.map LaneFault.lane) }

/-- The coach after the return (R320): the saved registers and sub-groups are back with their taints (R112), HND is 0, the
sub-group that faulted no longer waits for its handler, and the return is an AR fence at the scope of the system (R120). -/
def returned (h : Here) (v : Saved) : Coach :=
  let c := h.c.fence h.spot 5
  { c with saved := none, parents := v.parents, t := v.t, tt := v.tt, tw := v.tw, vi := v.vi,
           s := (List.range 8).foldl (fun s i => Cells.set 0 s (56 + i) (v.s.getD i 0)) c.s,
           st := (List.range 8).foldl (fun s i => Cells.set false s (56 + i) (v.st.getD i false)) c.st,
           subs := v.subs.map fun g =>
             if g.id = v.fault.sub then { g with parks := g.parks.filter (· ≠ .faulted) }
             else { g with rest := false, parks := g.parks.filter (· ≠ .converged) } }

/-- The issuer is a handler that reaches the trailer of its RFE with action `act`, no other fault pending. -/
def Returning (s : State) (h : Here) (v : Saved) (act : BitVec 2) : Prop :=
  s.here = some h ∧ h.remote = none ∧ 0 < h.run.words ∧ h.run.closer = .rfe ∧ h.c.saved = some v ∧ h.c.stops = []
    ∧ h.c.act = act

/-- The state with the half of the issuer free and its coach as `c`. -/
def coachLeft (s : State) (h : Here) (c : Coach) : State :=
  (s.freeHalf h.t.core h.team h.ci h.c).modCoach h.team h.ci fun _ => c

/-- The record of the instruction that the trailer completes (R211, R317). -/
def trailerRecord (h : Here) (t : Trap) (resume : Nat) : Stopped :=
  { trap := t, pc := h.run.closerPc, word := h.run.closerWord, pre := h.run.closerPre, resume := resume, exec := h.g.exec,
    mem := h.g.mem, run := h.run.no, sub := h.g.id }

/-- The issuer and the record of a trap `t` at a run-closing instruction whose trailer has not issued: the instruction issues
again, in the run that it closed or, with number 0, in a run still to be numbered (R313). -/
def closerStops (s : State) (p : Here) (no : Nat) (t : Trap) : State :=
  s.stopWith
    { p with g := { p.g with
        pc := p.run.closerPc, run := some { p.run with no := no, words := p.run.closerWords, pre := none, closer := .none } } }
    (trailerRecord p t p.run.closerPc)

/-! ### Translation -/

/-- Permissions that a leaf withholds from an access, as the reason of R86, or 0. -/
def withheld (acc : Access) (e : Nat) : Nat :=
  match acc with
  | .load => if e / 2 ^ 4 % 2 = 0 then 4 else 0
  | .store => if e / 2 ^ 5 % 2 = 0 then 5 else 0
  | .atomic => if e / 2 ^ 4 % 2 = 0 then 4 else if e / 2 ^ 5 % 2 = 0 then 5 else 0
  | .fetch => if e / 2 ^ 6 % 2 = 0 then 6 else 0

/-! ### Steps -/

/-- A step has taken its move: the tick has passed, and the move is kept for an access that may wait (log entry 2). -/
def moved (s : State) (m : Move) (rest : List Move) : State := { s with tick := s.tick + 1, due := rest, now := some m }

/-- The state in which the coach's sub-group of half `half` issues (R31). -/
def issuing (s : State) (rest : List Move) (half team ci sub : Nat) : State :=
  { moved s (.word half) rest with cur := .coach team ci, curSub := sub }

/-- A word may follow in the run: it is the trailer, or no run-closing instruction has issued (R175). -/
def ClosedBy (h : Here) (w : Word) : Prop := h.run.closer = .none ∨ w.toNat / 2 ^ 31 = 1 ∧ w.toNat / 2 ^ 24 % 64 = 0x3F

/-- The state in which the function of an executor issues: its parks have ended where they can, its run has begun. -/
def remoteIssuing (s : State) (rest : List Move) (ex : Nat) : State :=
  { (moved s (.remote ex) rest).settle (.remote ex) [0] with cur := .remote ex, curSub := 0 }
def remoteRunning (s : State) (rest : List Move) (ex : Nat) (g : SubGroup) : State :=
  (remoteIssuing s rest ex).modCtx (.remote ex) fun c => c.startRun g

/-- The state in which a thread of dray `ch` issues. -/
def drayIssuing (s : State) (rest : List Move) (ch : Nat) (addr : Bool) : State :=
  { moved s (if addr then .drayA ch else .drayX ch) rest with cur := if addr then .drayA ch else .drayX ch }

/-! ### Frames -/

/-- Two coaches differ at most in V, S and T registers with their taints, in what R115, R116, R177 record of register writes,
and in the issuing sub-group. -/
def SameButRegisters (c d : Coach) : Prop :=
  d = { c with v := d.v, vt := d.vt, s := d.s, st := d.st, t := d.t, tt := d.tt, tw := d.tw, dirty := d.dirty,
               spoiled := d.spoiled }

/-- Register `k` of a coach, by the key of its table. -/
def vReg (h : Here) (k : Nat) : Word × Bool := (Cells.get 0 h.c.v k, Cells.get false h.c.vt k)
def sReg (h : Here) (k : Nat) : Word × Bool := (Cells.get 0 h.c.s k, Cells.get false h.c.st k)
def tReg (h : Here) (k : Nat) : Word × Bool × Bool :=
  (Cells.get 0 h.c.t k, Cells.get false h.c.tt k, Cells.get false h.c.tw k)

/-- Two places name the same byte: a lane slice has 8,192 bytes (R72). -/
def SameByte : Loc → Loc → Prop
  | .lane t k o, .lane u m p => t = u ∧ k * 8192 + o = m * 8192 + p
  | l, x => l = x

/-- A place outside `n` bytes from another. -/
def Outside (l x : Loc) (n : Nat) : Prop := ∀ i, i < n → ¬ SameByte l (x.plus i)

/-- A place whose sector is out of reach of a store of key `key` at `x`, or is read under that key: any other read decrypts the
sector under another key than the one it then stands under (R90, R91). -/
def KeepsSector (key reader : Nat) (l x : Loc) (n : Nat) : Prop :=
  ∀ a b, l = .sto a → x = .sto b → (∃ i, i < n ∧ (b + i) / 32 = a / 32) → reader = key

end Sys2Proof.Claims

/-- R170, R174, R175, R212 to R214, R221 and R264: the 25th word of a run, RFE and REPLAY outside a handler, RUNEND as the
first word of a run, a V register at or above the allotment, an S register as a lane destination, an unlisted system
register, and any instruction outside the subset of remote functions trap instead of taking their effect. -/
def Obligations.FormsThatTrap : Prop :=
  (∀ i s h, (encodeFields i).isSome = true → (∀ imm, i ≠ .immx imm) → (∀ p w, i ≠ .runend p w) → s.here = some h →
    h.remote = none → 24 ≤ h.run.words → exec i s = .next (s.trapNow h { cause := .illegal }))
  ∧ (∀ i s h, (encodeFields i).isSome = true → remoteMay i = false → s.here = some h → h.remote.isSome = true →
    exec i s = .next (s.trapNow h { cause := .remoteSubset }))
  ∧ (∀ i s h, (∃ sw r, (i = .rfe sw ∧ ∀ cs, s.fetch h (h.g.pc + 4) ≠ .error (.hold cs)) ∨ i = .replayToken sw r
      ∨ i = .replayPage sw r) → Issues false s h →
    h.c.saved = none → exec i s = .next (trapsAt s h { cause := .illegal }))
  ∧ (∀ s h post wait, s.here = some h → h.run.words = 0 →
    exec (.runend post wait) s = .next (s.stopWith h.rewind (h.stopped { cause := .illegal })))
  ∧ (∀ i s h sw d a b f, uniformBinary i = some (sw, d, a, b, f) → Issues true s h → h.c.board = [] →
    (∃ r ∈ [d, a, b], r.toNat < 192 ∧ h.c.allot ≤ r.toNat) → exec i s = .next (trapsAt s h { cause := .illegal }))
  ∧ (∀ i s h sw d a b f, laneBinary i = some (sw, d, a, b, f) → Issues false s h → h.c.board = [] →
    (192 ≤ d.toNat ∧ d.toNat < 248) ∨ (∃ r ∈ [d, a, b], r.toNat < 192 ∧ h.c.allot ≤ r.toNat) →
    exec i s = .next (trapsAt s h { cause := .illegal }))
  ∧ ∀ s h sw d n, Issues true s h → (∀ p ∈ coachReads h, p.1 ≠ n.toNat) →
    exec (.srrd sw d n) s = .next (trapsAt s h { cause := .illegal })

/-- R72, R86, R97 and R243: a uniform load, store or atomic whose check fails traps with the cause and reason of the check
and its address; the first check is alignment, the second the range of the space. -/
def Obligations.FailedAccessesTrap : Prop :=
  (∀ i s h sw d a wh ab n ldc acq cause reason ea, uniformLoad i = some (sw, d, a, wh, ab, n, ldc, acq) → Issues true s h →
    UniBlock h d (registersOf n) → UniBase h (spaceOfWh wh.toNat) a ab → ea = (h.addrU (spaceOfWh wh.toNat) a ab).1 →
    s.check h.agent (spaceOfWh wh.toNat) h.uniformLane ea n .load = .fails cause reason →
    exec i s = .next (trapsAt s h (accessTrap cause reason (spaceOfWh wh.toNat) ea)))
  ∧ (∀ i s h sw d a wh ab n rel cause reason ea, uniformStore i = some (sw, d, a, wh, ab, n, rel) → Issues true s h →
    UniBlock h d (registersOf n) → UniBase h (spaceOfWh wh.toNat) a ab → ea = (h.addrU (spaceOfWh wh.toNat) a ab).1 →
    s.check h.agent (spaceOfWh wh.toNat) h.uniformLane ea n .store = .fails cause reason →
    exec i s = .next (trapsAt s h (accessTrap cause reason (spaceOfWh wh.toNat) ea)))
  ∧ (∀ i s h sw d a wh pair acq rel op f cause reason ea, uniformAtomic i = some (sw, d, a, wh, pair, acq, rel, op, f) →
    Issues true s h →
    (spaceOfWh wh.toNat = 5 → a.toNat % 2 = 0) →
    ea = (h.addrU (spaceOfWh wh.toNat) (BitVec.ofNat 8 (192 + a.toNat)) false).1 →
    s.check h.agent (spaceOfWh wh.toNat) h.uniformLane ea 4 .atomic = .fails cause reason →
    exec i s = .next (trapsAt s h (accessTrap cause reason (spaceOfWh wh.toNat) ea)))
  ∧ (∀ (s : State) ag space lane (ea : Int) (n : Nat) acc, ea % n ≠ 0 → s.check ag space lane ea n acc = .fails .misaligned 0)
  ∧ (∀ (s : State) ag space lane (ea : Int) (n : Nat) acc, ea % n = 0 → ea < 0 →
    s.check ag space lane ea n acc = .fails .spaceRange 0)
  ∧ ∀ (s : State) ag lane (o : Nat) n acc r, o % n = 0 → o + n ≤ 2 ^ 56 → s.translate ag.cluster ag.oid o acc = .fails r →
    s.check ag 5 lane o n acc = .fails .pageFault r

/-- R48, R67, R94, R240, R243, R277, R281, R358 and R360: operands that trap before any effect. VRD and VWR outside the allotment;
planes that are invalid, disagree, or differ in folding; an envelope instruction of a team without the unit, or whose result
exceeds CAP; a request on a tag at or above TAGN, or busy; a matrix job without the accumulator store, or of a coach that is
not whole; a lane load whose failing lanes are all recorded, once no translation of a lane is held back: outside compatibility
mode the coach stops, inside it the other lanes go on. -/
def Obligations.OperandsThatTrap : Prop :=
  (∀ s h sw d k, Issues false s h → LaneDest h d → (viNumber h k < 0 ∨ (h.c.allot : Int) ≤ viNumber h k) →
    exec (.vrd sw d k) s = .next (trapsAt s h { cause := .regBounds, detail := BitVec.ofInt 16 (viNumber h k) }))
  ∧ (∀ s h sw a k, Issues false s h → Usable h a → (viNumber h k < 0 ∨ (h.c.allot : Int) ≤ viNumber h k) →
    exec (.vwr sw a k) s = .next (trapsAt s h { cause := .regBounds, detail := BitVec.ofInt 16 (viNumber h k) }))
  ∧ (∀ i s h sw d a b f, planeArith i = some (sw, d, a, b, f) → Issues false s h →
    let ps := [h.plane d, h.plane a, h.plane b]
    (((∃ p ∈ ps, Plane.ok p h.c.allot = false) ∨ ∃ p ∈ ps, ∃ q ∈ ps, p.agree q = false) →
      exec i s = .next (trapsAt s h { cause := .planeShape }))
    ∧ ((∀ p ∈ ps, Plane.ok p h.c.allot = true) → (∀ p ∈ ps, ∀ q ∈ ps, p.agree q = true) →
      (∃ p ∈ ps, ∃ q ∈ ps, p.fold ≠ q.fold) → exec i s = .next (trapsAt s h { cause := .foldMismatch })))
  ∧ (∀ i s h sw d e, envelopeResult h i = some (sw, d, e) → Issues false s h →
    (h.t.envu = false → exec i s = .next (trapsAt s h { cause := .illegal }))
    ∧ (h.t.envu = true → h.c.ecap.toNat < e.lines.length → exec i s = .next (trapsAt s h { cause := .breakpointOverflow })))
  ∧ (∀ s h sw b sl dl xf tag, Issues false s h →
    (h.t.grants.tagn ≤ tag.toNat → exec (.copy sw b sl dl xf tag) s = .next (trapsAt s h { cause := .tagRange }))
    ∧ (tag.toNat < h.t.grants.tagn → h.t.tags.getLsbD tag.toNat = false →
      exec (.copy sw b sl dl xf tag) s = .next (trapsAt s h { cause := .tagBusy })))
  ∧ (∀ s h sw b za rm, Issues false s h →
    (h.t.accu = false → exec (.mloop sw b za rm) s = .next (trapsAt s h { cause := .illegal }))
    ∧ (h.t.accu = true → ¬ Whole h → exec (.mloop sw b za rm) s = .next (trapsAt s h { cause := .matrixPartial })))
  ∧ ∀ i s h sw d a wh ab n ldc acq f rest, laneLoads i = some (sw, d, a, wh, ab, n, ldc, acq) → Issues false s h →
    LaneBlock h d (registersOf n) true → LaneBase h (spaceOfWh wh.toNat) a ab →
    failingLanes s h (spaceOfWh wh.toNat) n .load (fun l => (h.addrL (spaceOfWh wh.toNat) a ab l).1) = f :: rest →
    (∀ l ∈ lanesOf h.g.exec, ∀ chans,
      s.check h.agent (spaceOfWh wh.toNat) l (h.addrL (spaceOfWh wh.toNat) a ab l).1 n .load ≠ .held chans) →
    let t := laneTrap (spaceOfWh wh.toNat) f (f :: rest)
    let k := lanesSplit h t
    ((h.t.compat = false ∨ h.remote.isSome = true ∨ h.c.saved.isSome = true) → exec i s = .next (s.trapNow h t))
    ∧ ∀ cs, h.t.compat = true → h.remote = none → h.c.saved = none → k.g.mem ≠ 0 →
      LaneAccesses s k (spaceOfWh wh.toNat) n .load (fun l => (k.addrL (spaceOfWh wh.toNat) a ab l).1) cs →
      let keys : Nat → List Nat := fun l => (List.range (registersOf n)).map fun j => laneKey (d.toNat + j) l
      exec i s = .next (after
        ((s.arriveLoads k n (k.order (spaceOfWh wh.toNat) acq) (fun c => keys c.lane) cs).noteAll k.agent
          (spaceOfWh wh.toNat) cs)
        (if lanesOf k.g.exec = [] then k
        else observed s k (spaceOfWh wh.toNat) acq n cs
          ((laneLoaded s k d n (fun l => ldc || (k.addrL (spaceOfWh wh.toNat) a ab l).2) cs).long
            ((lanesOf k.g.exec).flatMap keys) (lateOf s cs))) sw)

/-- R84 to R86, R95 and R339: the leaf that a walk finds gives the place, unless a permission is withheld, or the page is held
back by a swap; a walk that fails fails with its reason, and one that reads a table in a channel that a kernel holds waits for
it. The cluster holds no older entry for the page. Which
translations the TLB keeps is log entry 14. -/
def Obligations.TranslationsFollowTheWalk : Prop :=
  (∀ (s : State) cl oid va acc e lvl at_, (∀ w ∈ s.swaps, w.begun = false) → s.cached cl oid va = none →
    s.walk oid va = .leaf e lvl at_ → withheld acc e = 0 →
    s.translate cl oid va acc = .ok (e / 2 ^ 16 % 2 ^ 36 * 2 ^ 16 + va % pageSize lvl) e lvl)
  ∧ (∀ (s : State) cl oid va acc e lvl at_, (∀ w ∈ s.swaps, w.begun = false) → s.cached cl oid va = none →
    s.walk oid va = .leaf e lvl at_ → withheld acc e ≠ 0 → s.translate cl oid va acc = .fails (withheld acc e))
  ∧ (∀ (s : State) cl oid va acc r, (∀ w ∈ s.swaps, w.begun = false) → s.cached cl oid va = none →
    s.walk oid va = .fails r → s.translate cl oid va acc = .fails r)
  ∧ (∀ (s : State) cl oid va acc ch, (∀ w ∈ s.swaps, w.begun = false) → s.cached cl oid va = none →
    s.walk oid va = .waits ch → s.translate cl oid va acc = .held [ch])
  ∧ ∀ (s : State) cl oid va acc w, w ∈ s.swaps → w.begun = true → w.oid = oid → w.va ≤ va → va < w.va + w.size →
    s.translate cl oid va acc = .held []

/-- R95, R112, R312, R315 to R317, R319, R321, R339 and R402: HANDLER_ENTRY saves S56 to S63, T, VI, their taints and the
stopped sub-groups, writes the record to the coach's frame, clears ACT, and the handler stands alone at its entry; every other
register keeps its value. While a swap or a dray's kernel holds the frame back the entry waits. Without an image, or where the
frame cannot be written, the node is stopped with UNHANDLED. When the entry is made, the choice of the frame, and that the
marks of written T registers are saved are log entries 10, 40 and 33. -/
def Obligations.HandlerEntrySaves : Prop :=
  (∀ s team ci f t c im pa leaf lvl, s.mode = .running → MayEnter s team ci f → RecordFits f → s.coach team ci = some (t, c) →
    t.image = some im →
    s.translate (some (Config.clusterOf t.core)) t.oid (c.area.toNat * 1024) .store = .ok pa leaf lvl →
    s.channelHeld pa = false →
    let token := tokenOf t.core c
    ∃ x u, exec (.handlerEntry team ci) s = .next x
      ∧ x.mem = ((s.writeLocs t.oid (.sto pa) (wordBytes (recordWords f token im.pool))).writeLocs t.oid (.sto (pa + 0x100))
          (wordBytes ((List.range 32).flatMap fun l => sideEntry f.trap l))).mem
      ∧ x.coach team ci = some (u, { c with
          saved := some (savedContext c f token), stops := c.stops.drop 1, subs := [handlerSub c f], parents := [],
          nextId := c.nextId + 1, act := 0, faults := (c.faults + 1) % 2 ^ 18 })
      ∧ x.life = Cells.set 0 s.life (0x400 + f.trap.cause.code / 16)
          (min (Cells.get 0 s.life (0x400 + f.trap.cause.code / 16) + 1) (2 ^ 64 - 1)))
  ∧ (∀ s team ci f t c chans, s.mode = .running → MayEnter s team ci f → s.coach team ci = some (t, c) → t.image.isSome = true →
    s.translate (some (Config.clusterOf t.core)) t.oid (c.area.toNat * 1024) .store = .held chans →
    exec (.handlerEntry team ci) s = .next (s.waitFor (.entry team ci) chans true))
  ∧ (∀ s team ci f t c pa leaf lvl, s.mode = .running → MayEnter s team ci f → s.coach team ci = some (t, c) →
    t.image.isSome = true → s.translate (some (Config.clusterOf t.core)) t.oid (c.area.toNat * 1024) .store = .ok pa leaf lvl →
    s.channelHeld pa = true → exec (.handlerEntry team ci) s = .next (s.waitFor (.entry team ci) [channelOf pa] false))
  ∧ (∀ s team ci f t c r, s.mode = .running → MayEnter s team ci f → s.coach team ci = some (t, c) → t.image.isSome = true →
    s.translate (some (Config.clusterOf t.core)) t.oid (c.area.toNat * 1024) .store = .fails r →
    exec (.handlerEntry team ci) s = .next (s.stopNode t.node 5))
  ∧ ∀ s team ci f t c, s.mode = .running → MayEnter s team ci f → s.coach team ci = some (t, c) →
    t.image = none → exec (.handlerEntry team ci) s = .next (s.stopNode t.node 5)

/-- R112, R320, R323 and R324: the trailer of RFE resumes the coach, parks it under the wait table (as a resumption where its
fault was replayed meanwhile, or where the table is full), or abandons the node. -/
def Obligations.ReturnFromHandlerRestores : Prop :=
  (∀ s h v post wait, Returning s h v 0 → exec (.runend post wait) s = .next
    ((coachLeft s h (returned (h.post post) v)).checkStall h.team))
  ∧ (∀ s h v post wait, Returning s h v 1 → v.replayed = false → s.waitCount (h.t.core / 48) < 1024 →
    exec (.runend post wait) s = .next
      { coachLeft s h { returned (h.post post) v with parked := some v.token } with
        waits := s.waits ++ [{ tower := h.t.core / 48, token := v.token, oid := h.t.oid, team := h.team, coach := h.ci,
                               addr := if v.fault.trap.cause = .pageFault then some v.fault.trap.addr else none }] })
  ∧ (∀ s h v post wait, Returning s h v 1 → (v.replayed = true ∨ 1024 ≤ s.waitCount (h.t.core / 48)) →
    exec (.runend post wait) s = .next ((coachLeft s h (returned (h.post post) v)).checkStall h.team))
  ∧ ∀ s h v post wait act, Returning s h v act → 2 ≤ act.toNat → exec (.runend post wait) s = .next
    ((coachLeft s h { returned (h.post post) v with parked := some v.token }).stopNode h.t.node 5)

/-- R44 to R46, R182, R206 and R211: the trailer of TRAP stops under the record of the TRAP with the word after the
trailer as its resumption point; the trailer of BARSYNC parks, or makes the arrival that waited for it, whose failure
stops at the BARSYNC; a transfer whose target lies outside
the segment, or is no multiple of 4, stops with FETCH-BOUNDS at the transfer. Which sub-group a failed arrival stops is
log entry 34. -/
def Obligations.TrailersThatStopOrWait : Prop :=
  ∀ s h post wait, s.here = some h → 0 < h.run.words →
    let p := h.post post
    (∀ code value, h.run.closer = .trap code value → exec (.runend post wait) s = .next
      (s.stopWith (p.leaveRun (fall h) wait [])
        (trailerRecord p { cause := .trap, detail := code.zeroExtend 16, w6 := value } (fall h))))
    ∧ (h.run.closer = .barsync none → exec (.runend post wait) s = .next (leaves s p (fall h) wait []))
    ∧ (∀ b e k done, h.run.closer = .barsync (some (b, e)) → p.arriveSub b e true = .ok (k, done) →
      exec (.runend post wait) s = .next (leaves (if done then s.releaseBarrier h.team b else s) k (fall h) wait []))
    ∧ (∀ b e stop, h.run.closer = .barsync (some (b, e)) → p.arriveSub b e true = .error stop →
      exec (.runend post wait) s = .next (closerStops s p h.run.no { cause := .barrierCount, detail := BitVec.ofNat 16 b }))
    ∧ ∀ target link, (h.run.closer = .jump target link ∨ ∃ taken, h.run.closer = .split taken target) →
      (target < 0 ∨ ((s.segment p).2 : Int) ≤ target ∨ target % 4 ≠ 0) → exec (.runend post wait) s = .next
        (closerStops s p 0 { cause := .fetchBounds, space := 6, addr := (target % 2 ^ 56).toNat })

/-- R31, R166, R174, R175, R182, R332, R333 and R335: a step whose due move is the next word of a half runs the instruction
that the fetched word decodes to, the word recorded with the issuer; a word that no row describes traps ILLEGAL, and where a
run-closing instruction has issued and the word is no trailer, that instruction traps ILLEGAL (R175). A step whose due move is
a dray thread, a remote function or a Celud thread runs its next word, and one whose due move is an event that event. With no
move due, time passes, and what it brings, or else the move that is offered, is the due one. Which move is due is the model's
own state (log entries 2 and 39). -/
def Obligations.StepRunsDecodedInstruction : Prop :=
  (∀ s half rest team ci sub t h w i, s.mode = .running → s.due = .word half :: rest →
    (Cells.get {} s.halves half).inRun = some (team, ci, sub) → Cells.find s.teams team = some t → t.issues = true →
    (issuing s rest half team ci sub).here = some h → (issuing s rest half team ci sub).fetch h h.g.pc = .ok w → ClosedBy h w →
    decode w = some i → step s = exec i ((issuing s rest half team ci sub).put (h.setRun { h.run with word := w })))
  ∧ (∀ s half rest team ci sub t h w, s.mode = .running → s.due = .word half :: rest →
    (Cells.get {} s.halves half).inRun = some (team, ci, sub) → Cells.find s.teams team = some t → t.issues = true →
    (issuing s rest half team ci sub).here = some h → (issuing s rest half team ci sub).fetch h h.g.pc = .ok w → ClosedBy h w →
    decode w = none → step s = native false true ((issuing s rest half team ci sub).put (h.setRun { h.run with word := w }))
      fun _ _ => .error (.trap { cause := .illegal }))
  ∧ (∀ s half rest team ci sub t h w, s.mode = .running → s.due = .word half :: rest →
    (Cells.get {} s.halves half).inRun = some (team, ci, sub) → Cells.find s.teams team = some t → t.issues = true →
    (issuing s rest half team ci sub).here = some h → (issuing s rest half team ci sub).fetch h h.g.pc = .ok w → ¬ ClosedBy h w →
    step s = .next (closerStops (issuing s rest half team ci sub) h h.run.no { cause := .illegal }))
  ∧ (∀ s rest ch d w i, s.mode = .running → s.due = .drayA ch :: rest → Cells.find s.drays ch = some d → d.endA = false →
    d.progA[d.pcA]? = some w → decodeDray w = some i → w.toNat / 2 ^ 31 % 2 = 0 →
    step s = exec i (drayIssuing s rest ch true))
  ∧ (∀ s rest ch d w i, s.mode = .running → s.due = .drayX ch :: rest → Cells.find s.drays ch = some d → d.endX = false →
    d.progX[d.pcX]? = some w → decodeDray w = some i → w.toNat / 2 ^ 31 % 2 = 1 →
    step s = exec i (drayIssuing s rest ch false))
  ∧ (∀ s rest ex h h' w i, s.mode = .running → s.due = .remote ex :: rest → (remoteIssuing s rest ex).here = some h →
    h.g.ready = true → (remoteRunning s rest ex h.g).here = some h' →
    (remoteRunning s rest ex h.g).fetch h' h'.g.pc = .ok w → ClosedBy h' w → decode w = some i →
    step s = exec i ((remoteRunning s rest ex h.g).put (h'.setRun { h'.run with word := w })))
  ∧ (∀ s rest team n i h w x, s.mode = .running → s.due = .thread team n i :: rest →
    x = { moved s (.thread team n i) rest with cur := .thread team n } → State.celudHere x = some h →
    h.p.words[h.th.pc]? = some w → decodeCelud w (h.p.words.getD (h.th.pc + 1) 0) = some i → step s = exec i x)
  ∧ (∀ s rest i, s.due = .event i :: rest → Instr.isEvent i = true → step s = exec i (moved s (.event i) rest))
  ∧ (∀ s rest team ci, s.due = .entry team ci :: rest →
    step s = exec (.handlerEntry team ci) (moved s (.entry team ci) rest))
  ∧ (∀ s rest, s.mode = .running → s.due = .serve :: rest → step s = .next (moved s .serve rest).serveFree)
  ∧ (∀ s rest node, s.due = .overrun node :: rest → step s = Sys2Proof.Machine.execOverrun node (moved s (.overrun node) rest))
  ∧ (∀ s rest call, s.due = .callLost call :: rest →
    step s = Sys2Proof.Machine.execCallLost call (moved s (.callLost call) rest))
  ∧ ∀ s x, s.due = [] → x = State.passTime { s with tick := s.tick + 1 } →
    step s = step { x with tick := s.tick, due := if x.due = [] then [Config.offer x.tick] else x.due }

/-- R166 to R187, R333 and R381: a few words written out from the tables decode to the instructions that they stand for. -/
def Obligations.DecodedWords : Prop :=
  decode 0b10000001110000000000000000000001 = some (.uadd false 192 0 1)
  ∧ decode 0b11011010110000001111111111111111 = some (.umovi true 192 0xFFFF)
  ∧ decode 0b10111111000000010000001000000000 = some (.runend 1 2)
  ∧ decode 0b10011111000101000000000000000000 = some (.endLanes false)
  ∧ decode 0b00000001000000000000000100000010 = some (.iadd false 0 1 2)
  ∧ decode 0b10000000000000000000000000000000 = none
  ∧ decodeDray 0b00000100010000000000000000000101 = some (.jmovi 1 5)
  ∧ decodeDray 0b10001000010000100011000000000000 = none
  ∧ decodeCelud 0x1000001002003000 0 = some (.celudAdd none 1 2 3)

/-- R397, R402 and the rules of reset values: the machine after reset waits for its boot ROM, lists nothing in memory,
and runs no node, team, request or call. The values that the manual does not give are the model's choice (log entry 4).
-/
def Obligations.ResetState : Prop :=
  Memory.wf State.reset ∧ State.reset.mode = .inReset ∧ State.reset.mem = {} ∧ State.reset.teams = []
  ∧ State.reset.nodes = [] ∧ State.reset.requests = [] ∧ State.reset.calls = [] ∧ State.reset.keys = []
  ∧ State.reset.queues = [] ∧ State.reset.life = [] ∧ State.reset.due = []

/-- R166 to R187: every native word has one meaning. A well-formed instruction is read back from its word with every
operand, and every word that decodes is the word of what it decodes to. -/
def Obligations.NativeWordsRoundTrip : Prop :=
  (∀ i w, Instr.wellFormed i = true → encode i = some w → decode w = some i)
  ∧ ∀ i w, decode w = some i → Instr.wellFormed i = true ∧ encode i = some w

/-- R333, R381 and R382: a dray word has one meaning; a well-formed Celud instruction is read back from its word and the word
after it, which is its literal where it has one, and the machine takes the pair for that instruction. -/
def Obligations.DrayAndCeludWordsRoundTrip : Prop :=
  (∀ i w, encodeDray i = some w → decodeDray w = some i)
  ∧ (∀ i w, decodeDray w = some i → encodeDray i = some w)
  ∧ (∀ i w lit next, Instr.wellFormed i = true → encodeCelud i = some (w, lit) → (lit = none ∨ lit = some next) →
    decodeCelud w next = some i ∧ isCelud i w next = true)
  ∧ ∀ i w next, decodeCelud w next = some i → isCelud i w next = true

/-- The canonical form of storage is an invariant: every step from every state that has it leads to a state that has it.
The form is the model's own (log entry 5). -/
def Obligations.StepKeepsMemoryForm : Prop := ∀ s s', Memory.wf s → step s = .next s' → Memory.wf s'

/-- No state stops the machine: every step from every state answers a next state. A move that cannot happen changes
nothing but the tick (log entry 11), and the one fault of exec is never asked for (log entry 38). -/
def Obligations.StepNeverStops : Prop := ∀ s, State.proceeds s

/-- R10, R90, R91, R243 and R246: a store changes its bytes only, and they read back; every other byte reads as before,
unless its sector is read under another key: a sector that stood under another is refilled under the store's (R82). Spoiled
matrix jobs and the releases that stood in the bytes (R109) apart, nothing else of the state changes. The form of storage and
what becomes of a sector under another key are log entries 5 and 6. -/
def Obligations.StoresChangeTheirBytesOnly : Prop :=
  (∀ s ag x bs l oid, Memory.wf s → Outside l x bs.length → KeepsSector (s.keyOf ag.oid) (s.keyOf oid) l x bs.length →
    (s.writeData ag x bs).readLoc oid l = s.readLoc oid l)
  ∧ (∀ s ag a bs, Memory.wf s → (s.writeData ag (.sto a) bs).readStoN ag.oid a bs.length = bs)
  ∧ (∀ (s : State) ag a bs, s.writeData ag (.sto a) bs =
    { s with mem := (s.writeData ag (.sto a) bs).mem, jobs := (s.writeData ag (.sto a) bs).jobs
             posts := (s.writeData ag (.sto a) bs).posts })
  ∧ ∀ (s : State) ag sp cs, s.noteAll ag sp cs =
    { s with tlb := (s.noteAll ag sp cs).tlb, stable := (s.noteAll ag sp cs).stable }

/-- R176, R177, R188 and R221: a write to a uniform or a lane register changes that register and its taint only: other
registers keep value and taint, and every other field of the issuer its value. -/
def Obligations.RegisterWritesChangeOneRegister : Prop :=
  (∀ (h : Here) f x taint, f < 256 → let g := h.setU f x taint
    SameButRegisters h.c g.c ∧ g = { h with c := g.c } ∧ (∀ k, (192 ≤ f ∨ k / 32 ≠ f) → vReg g k = vReg h k)
      ∧ (∀ k, (f < 192 ∨ k ≠ f - 192) → sReg g k = sReg h k) ∧ ∀ k, tReg g k = tReg h k)
  ∧ (∀ (h : Here) f l x taint, f < 256 → let g := h.setL f l x taint
    SameButRegisters h.c g.c ∧ g = { h with c := g.c } ∧ (∀ k, (192 ≤ f ∨ k ≠ 32 * f + l) → vReg g k = vReg h k)
      ∧ (∀ k, sReg g k = sReg h k) ∧ ∀ k, (f < 248 ∨ k ≠ 32 * (f - 248) + l) → tReg g k = tReg h k)
  ∧ ∀ (h : Here) n l x taint, Cells.rising h.c.v = true → Cells.rising h.c.vt = true → h.c.pending (keyV n l) = false →
    vReg (h.setV n l x taint) (32 * n + l) = (x, taint)

/-- What retiring an instruction changes of the state: of teams, only the issuer's coach, barriers, tags, rendezvous, slice
and envelopes; for a remote function only its call. Memory, scratchpads, lane slices, other teams and other coaches keep
their values. -/
def Obligations.RetiringChangesTheIssuerOnly : Prop :=
  (∀ s h sw, h.remote = none → let x := after s h sw
    x = { s with teams := x.teams } ∧ (∀ k, k ≠ h.team → Cells.find x.teams k = Cells.find s.teams k)
      ∧ ∀ t, Cells.find s.teams h.team = some t → ∃ u, Cells.find x.teams h.team = some u
        ∧ u = { t with coaches := u.coaches, barriers := h.t.barriers, tags := h.t.tags, rdvs := h.t.rdvs, len := h.t.len,
                       slice := h.t.slice, envs := h.t.envs }
        ∧ u.coaches.length = t.coaches.length ∧ ∀ j, j ≠ h.ci → u.coaches[j]? = t.coaches[j]?)
  ∧ (∀ s h sw ex, h.remote = some ex → let x := after s h sw
    x = { s with calls := x.calls } ∧ ∀ k, (∀ c, s.running ex ≠ some (k, c)) → Cells.find x.calls k = Cells.find s.calls k)
  ∧ ∀ (h : Here) sw, (h.retire sw).c = h.c ∧ (h.retire sw).t = h.t ∧ (h.retire sw).g.pc = h.g.pc + 4
    ∧ (h.retire sw).g = { h.g with pc := h.g.pc + 4, run := (h.retire sw).g.run }
    ∧ (h.retire sw).run.words = h.run.words + 1 ∧ (h.retire sw).run.sw = (h.run.sw || sw) ∧ (h.retire sw).run.pre = none
end

