-- ==== Sys2Proof/Laws/Cells.lean ====
section
/-!
SUPPORT. Laws of tables: what a table reads after a change, and that every operation keeps strictly rising keys.
-/

namespace Sys2Proof.Machine

variable {α : Type}

/-! ### Reading after a change -/

@[simp] theorem Cells.find_nil (k : Nat) : Cells.find ([] : Cells α) k = none := rfl

@[simp] theorem Cells.find_put_self (c : Cells α) (k : Nat) (x : α) : Cells.find (Cells.put c k x) k = some x := by
  induction c with
  | nil => simp [Cells.put, Cells.find]
  | cons p r ih =>
    obtain ⟨a, y⟩ := p
    simp only [Cells.put]
    split
    · simp [Cells.find]
    · split
      · simp [Cells.find]
      · simp [Cells.find, ih, Ne.symm ‹k ≠ a›]

theorem Cells.find_put_ne (c : Cells α) {k j : Nat} (x : α) (h : j ≠ k) : Cells.find (Cells.put c k x) j = Cells.find c j := by
  induction c with
  | nil => simp [Cells.put, Cells.find, h.symm]
  | cons p r ih =>
    obtain ⟨a, y⟩ := p
    simp only [Cells.put]
    split
    · simp [Cells.find, h.symm]
    · split
      · subst k; simp [Cells.find, h.symm]
      · simp [Cells.find, ih]

theorem Cells.find_drop_ne (c : Cells α) {k j : Nat} (h : j ≠ k) : Cells.find (Cells.drop c k) j = Cells.find c j := by
  induction c with
  | nil => rfl
  | cons p r ih =>
    obtain ⟨a, y⟩ := p
    simp only [Cells.drop]
    split
    · subst a; simp [Cells.find, h.symm]
    · simp [Cells.find, ih]

theorem Cells.get_set_ne [DecidableEq α] (d : α) (c : Cells α) {k j : Nat} (x : α) (h : j ≠ k) :
    Cells.get d (Cells.set d c k x) j = Cells.get d c j := by
  unfold Cells.get Cells.set
  split
  · rw [Cells.find_drop_ne c h]
  · rw [Cells.find_put_ne c x h]

@[simp] theorem Cells.find_modify_self (c : Cells α) (k : Nat) (f : α → α) :
    Cells.find (Cells.modify c k f) k = (Cells.find c k).map f := by
  unfold Cells.modify
  cases h : Cells.find c k <;> simp [h]

theorem Cells.find_modify_ne (c : Cells α) {k j : Nat} (f : α → α) (h : j ≠ k) :
    Cells.find (Cells.modify c k f) j = Cells.find c j := by
  unfold Cells.modify
  cases Cells.find c k
  · rfl
  · exact Cells.find_put_ne c _ h

/-! ### Rising keys -/

theorem Cells.rising_cons {a : Nat} {x : α} {r : Cells α} :
    Cells.rising ((a, x) :: r) = true ↔ (∀ p ∈ r, a < p.1) ∧ Cells.rising r = true := by
  induction r generalizing a x with
  | nil => simp [Cells.rising]
  | cons p r ih =>
    obtain ⟨b, y⟩ := p
    rw [Cells.rising, Bool.and_eq_true, decide_eq_true_eq]
    constructor
    · intro ⟨h1, h2⟩
      refine ⟨fun q hq => ?_, h2⟩
      rcases List.mem_cons.mp hq with rfl | hq
      · exact h1
      · exact Nat.lt_trans h1 ((ih.mp h2).1 q hq)
    · intro ⟨h1, h2⟩
      exact ⟨h1 _ (List.mem_cons_self ..), h2⟩

theorem Cells.mem_put {c : Cells α} {k : Nat} {x : α} {p : Nat × α} (h : p ∈ Cells.put c k x) : p = (k, x) ∨ p ∈ c := by
  induction c with
  | nil => simpa [Cells.put] using h
  | cons q r ih =>
    obtain ⟨a, y⟩ := q
    simp only [Cells.put] at h
    split at h
    · simpa using h
    · split at h
      · rcases List.mem_cons.mp h with h | h
        · exact .inl h
        · exact .inr (List.mem_cons_of_mem _ h)
      · rcases List.mem_cons.mp h with h | h
        · exact .inr (h ▸ List.mem_cons_self ..)
        · exact (ih h).imp_right (List.mem_cons_of_mem _)

theorem Cells.mem_drop {c : Cells α} {k : Nat} {p : Nat × α} (h : p ∈ Cells.drop c k) : p ∈ c := by
  induction c with
  | nil => simp [Cells.drop] at h
  | cons q r ih =>
    obtain ⟨a, y⟩ := q
    simp only [Cells.drop] at h
    split at h
    · exact List.mem_cons_of_mem _ h
    · rcases List.mem_cons.mp h with h | h
      · exact h ▸ List.mem_cons_self ..
      · exact List.mem_cons_of_mem _ (ih h)

theorem Cells.rising_put {c : Cells α} (k : Nat) (x : α) (h : Cells.rising c = true) : Cells.rising (Cells.put c k x) = true := by
  induction c with
  | nil => rfl
  | cons q r ih =>
    obtain ⟨a, y⟩ := q
    have hr := Cells.rising_cons.mp h
    simp only [Cells.put]
    split
    · refine Cells.rising_cons.mpr ⟨fun p hp => ?_, h⟩
      rcases List.mem_cons.mp hp with rfl | hp
      · assumption
      · exact Nat.lt_trans ‹k < a› (hr.1 p hp)
    · split
      · subst k; exact Cells.rising_cons.mpr hr
      · refine Cells.rising_cons.mpr ⟨fun p hp => ?_, ih hr.2⟩
        rcases Cells.mem_put hp with rfl | hp
        · show a < k; omega
        · exact hr.1 p hp

theorem Cells.rising_drop {c : Cells α} (k : Nat) (h : Cells.rising c = true) : Cells.rising (Cells.drop c k) = true := by
  induction c with
  | nil => rfl
  | cons q r ih =>
    obtain ⟨a, y⟩ := q
    have hr := Cells.rising_cons.mp h
    simp only [Cells.drop]
    split
    · exact hr.2
    · exact Cells.rising_cons.mpr ⟨fun p hp => hr.1 p (Cells.mem_drop hp), ih hr.2⟩

theorem Cells.rising_filter {c : Cells α} (f : Nat × α → Bool) (h : Cells.rising c = true) :
    Cells.rising (c.filter f) = true := by
  induction c with
  | nil => rfl
  | cons q r ih =>
    obtain ⟨a, y⟩ := q
    have hr := Cells.rising_cons.mp h
    rw [List.filter_cons]
    split
    · exact Cells.rising_cons.mpr ⟨fun p hp => hr.1 p (List.mem_filter.mp hp).1, ih hr.2⟩
    · exact ih hr.2

theorem Cells.find_of_lt {c : Cells α} {k : Nat} (h : ∀ p ∈ c, k < p.1) : Cells.find c k = none := by
  induction c with
  | nil => rfl
  | cons q r ih =>
    obtain ⟨a, y⟩ := q
    have h1 : k < a := h (a, y) (List.mem_cons_self ..)
    rw [Cells.find, if_neg (by omega)]
    exact ih fun p hp => h p (List.mem_cons_of_mem _ hp)

theorem Cells.find_drop_self {c : Cells α} (k : Nat) (h : Cells.rising c = true) : Cells.find (Cells.drop c k) k = none := by
  induction c with
  | nil => rfl
  | cons q r ih =>
    obtain ⟨a, y⟩ := q
    have hr := Cells.rising_cons.mp h
    simp only [Cells.drop]
    split
    · subst a; exact Cells.find_of_lt hr.1
    · rw [Cells.find, if_neg ‹_›]; exact ih hr.2

theorem Cells.get_set_self [DecidableEq α] (d : α) {c : Cells α} (k : Nat) (x : α) (h : Cells.rising c = true) :
    Cells.get d (Cells.set d c k x) k = x := by
  unfold Cells.get Cells.set
  split
  · rw [Cells.find_drop_self k h]; exact ‹x = d›.symm
  · rw [Cells.find_put_self]; rfl

/-! ### Tables with a default -/

theorem Cells.wf_rising [DecidableEq α] {d : α} {c : Cells α} (h : Cells.wf d c = true) : Cells.rising c = true :=
  (Bool.and_eq_true _ _ ▸ h : _ ∧ _).1

theorem Cells.wf_iff [DecidableEq α] {d : α} {c : Cells α} :
    Cells.wf d c = true ↔ Cells.rising c = true ∧ ∀ p ∈ c, p.2 ≠ d := by
  simp [Cells.wf, Bool.and_eq_true]

theorem Cells.wf_set [DecidableEq α] {d : α} {c : Cells α} (k : Nat) (x : α) (h : Cells.wf d c = true) :
    Cells.wf d (Cells.set d c k x) = true := by
  rw [Cells.wf_iff] at h ⊢
  unfold Cells.set
  split
  · exact ⟨Cells.rising_drop k h.1, fun p hp => h.2 p (Cells.mem_drop hp)⟩
  · refine ⟨Cells.rising_put k x h.1, fun p hp => ?_⟩
    rcases Cells.mem_put hp with rfl | hp
    · assumption
    · exact h.2 p hp

theorem Cells.wf_put [DecidableEq α] {d : α} {c : Cells α} (k : Nat) {x : α} (hx : x ≠ d) (h : Cells.wf d c = true) :
    Cells.wf d (Cells.put c k x) = true := by
  have := Cells.wf_set k x h
  rwa [Cells.set, if_neg hx] at this

theorem Cells.wf_filter [DecidableEq α] {d : α} {c : Cells α} (f : Nat × α → Bool) (h : Cells.wf d c = true) :
    Cells.wf d (c.filter f) = true := by
  rw [Cells.wf_iff] at h ⊢
  exact ⟨Cells.rising_filter f h.1, fun p hp => h.2 p (List.mem_filter.mp hp).1⟩

end Sys2Proof.Machine
end

