-- ==== Sys2Proof/Laws/Ops.lean ====
section
/-!
SUPPORT. What the shared operations can do, said once: the frame of native instructions, of run-closing instructions, of
Celud words, of dray words and of events; and when the checks of operands pass.
-/

namespace Sys2Proof.Machine

/-! ### Checks of operands -/

theorem okV_of_free {h : Here} {n : Nat} (ha : n < h.c.allot) (hb : h.c.boarded n = false) : h.okV n = .ok () := by
  simp [Here.okV, Nat.not_le.mpr ha, hb]

theorem okVs_of_free {h : Here} {base : Nat} :
    ∀ {n : Nat}, (∀ i, i < n → base + i < h.c.allot ∧ h.c.boarded (base + i) = false) → h.okVs base n = .ok ()
  | 0, _ => rfl
  | n + 1, hf => by
    have ih : h.okVs base n = .ok () := okVs_of_free fun i hi => hf i (Nat.lt_succ_of_lt hi)
    have hn := hf n (Nat.lt_succ_self n)
    simp [Here.okVs, ih, okV_of_free hn.1 hn.2]

theorem okU_of_free {h : Here} {f : BitVec 8}
    (hf : f.toNat < 192 → f.toNat < h.c.allot ∧ h.c.boarded f.toNat = false) : h.okU f = .ok () := by
  unfold Here.okU
  split
  · exact okV_of_free (hf ‹_›).1 (hf ‹_›).2
  · rfl

theorem okL_of_free {h : Here} {f : BitVec 8}
    (hf : f.toNat < 192 → f.toNat < h.c.allot ∧ h.c.boarded f.toNat = false) : h.okL f = .ok () := by
  unfold Here.okL
  split
  · exact okV_of_free (hf ‹_›).1 (hf ‹_›).2
  · rfl

theorem okUPair_of_free {h : Here} {f : BitVec 8} (he : f.toNat % 2 = 0)
    (hf : f.toNat < 192 → ∀ i, i < 2 → f.toNat + i < h.c.allot ∧ h.c.boarded (f.toNat + i) = false) :
    h.okUPair f = .ok () := by
  simp only [Here.okUPair, he, bind, Except.bind]
  by_cases hl : f.toNat < 192
  · simp [hl, okVs_of_free (hf hl)]
  · simp [hl, pure, Except.pure]

theorem okLDst_of_free {h : Here} {f : BitVec 8}
    (hf : (f.toNat < 192 ∧ f.toNat < h.c.allot ∧ h.c.boarded f.toNat = false) ∨ 248 ≤ f.toNat) : h.okLDst f = .ok () := by
  unfold Here.okLDst
  rcases hf with ⟨h1, h2, h3⟩ | hf
  · rw [if_pos h1]; exact okV_of_free h2 h3
  · rw [if_neg (by omega), if_neg (by omega)]

theorem okUBlock_of_free {h : Here} {f : BitVec 8} {n : Nat} (he : f.toNat % n = 0)
    (hf : f.toNat < 192 → f.toNat + n ≤ 192 ∧ ∀ i, i < n → f.toNat + i < h.c.allot ∧ h.c.boarded (f.toNat + i) = false) :
    h.okUBlock f n = .ok () := by
  simp only [Here.okUBlock, he, bind, Except.bind]
  by_cases hl : f.toNat < 192
  · simp [hl, Nat.not_lt.mpr (hf hl).1, okVs_of_free (hf hl).2]
  · simp [hl, pure, Except.pure]

theorem okLBlock_of_free {h : Here} {f : BitVec 8} {n : Nat} {dst : Bool} (he : f.toNat % n = 0)
    (hf : (f.toNat < 192 ∧ f.toNat + n ≤ 192 ∧ ∀ i, i < n → f.toNat + i < h.c.allot ∧ h.c.boarded (f.toNat + i) = false)
      ∨ (192 ≤ f.toNat ∧ f.toNat < 248 ∧ dst = false ∧ f.toNat + n ≤ 248) ∨ 248 ≤ f.toNat) :
    h.okLBlock f n dst = .ok () := by
  simp only [Here.okLBlock, he, bind, Except.bind]
  rcases hf with ⟨h1, h2, h3⟩ | ⟨h1, h2, h3, h4⟩ | h1
  · simp [h1, Nat.not_lt.mpr h2, okVs_of_free h3]
  · simp [Nat.not_lt.mpr h1, h2, h3, Nat.not_lt.mpr h4, pure, Except.pure]
  · simp [show ¬ f.toNat < 192 by omega, show ¬ f.toNat < 248 by omega, pure, Except.pure]

/-! ### The frame of native instructions -/

/-- Where the issuer may issue and the body takes its effect, the instruction retires. -/
theorem native_ok {sw ro : Bool} {s s' : State} {h h' : Here} {body : State → Here → Res} (hh : s.here = some h)
    (hr : h.remote.isSome = true → ro = true) (hw : h.run.words < 24) (hb : body s h = .ok (s', h')) :
    native sw ro s body = .next (s'.put (h'.retire sw)) := by
  have h1 : (h.remote.isSome && !ro) = false := by
    cases hx : h.remote.isSome
    · rfl
    · rw [hr hx]; rfl
  simp [native, hh, h1, Nat.not_le.mpr hw, hb]

theorem nativeHere_ok {sw ro : Bool} {s : State} {h h' : Here} {body : Here → Except Stop Here} (hh : s.here = some h)
    (hr : h.remote.isSome = true → ro = true) (hw : h.run.words < 24) (hb : body h = .ok h') :
    nativeHere sw ro s body = .next (s.put (h'.retire sw)) := by
  unfold nativeHere
  exact native_ok hh hr hw (by simp [hb, Except.map])

/-- An instruction whose issuer the state names never stops the machine: it retires, traps, or is held. -/
theorem native_next {sw ro : Bool} {s : State} {h : Here} {body : State → Here → Res} (hh : s.here = some h) :
    ∃ t, native sw ro s body = .next t := by
  unfold native
  rw [hh]
  simp only []
  repeat' split
  all_goals exact ⟨_, rfl⟩

/-- So does a barrier instruction, before which a sub-group may wait (R48). -/
theorem barrierOp_next {sw : Bool} {s : State} {h : Here} {body : State → Here → Res} (hh : s.here = some h) :
    ∃ t, barrierOp sw s body = .next t := by
  unfold barrierOp
  split
  · exact ⟨_, rfl⟩
  · exact native_next hh

/-- Where no sub-group waits for another, it is the instruction's own frame. -/
theorem barrierOp_native {sw : Bool} {s : State} {h : Here} {body : State → Here → Res} (hh : s.here = some h)
    (hm : h.meets = none) : barrierOp sw s body = native sw false s body := by
  simp [barrierOp, hh, hm]

/-- A run-closing instruction whose trailer follows keeps its effect in the run (R175). -/
theorem closing_ok {sw ro : Bool} {s : State} {h : Here} {f : State → Here → Except Stop Closer} {k : Closer} {w : Word}
    (hh : s.here = some h) (hr : h.remote.isSome = true → ro = true) (hw : h.run.words < 24) (hf : f s h = .ok k)
    (ht : s.fetch h (h.g.pc + 4) = .ok w) (hi : isTrailer w = true) :
    closing sw ro s f = .next (s.put (Here.retire (h.setRun { h.run with
      closer := k, closerPc := h.g.pc - 4 * (if h.run.pre.isSome then 1 else 0), closerWord := h.run.word,
      closerPre := h.run.pre, closerWords := h.run.words - (if h.run.pre.isSome then 1 else 0) }) sw)) := by
  unfold closing
  refine native_ok hh hr hw ?_
  simp [hf, ht, hi, bind, Except.bind, pure, Except.pure]

theorem closing_next {sw ro : Bool} {s : State} {h : Here} {f : State → Here → Except Stop Closer} (hh : s.here = some h) :
    ∃ t, closing sw ro s f = .next t := native_next hh

/-! ### The frames of Celud words, dray words and events -/

theorem celudOp_ok {s s' : State} {f : CelHere → Except Stop State} {r : Bool} {h : CelHere} (hh : s.celudHere = some h)
    (ha : h.active = true) (hn : s.nodeStopped h.t.node = false) (hf : f h = .ok s') : celudOp s f r = .next s' := by
  simp [celudOp, hh, ha, hn, hf]

theorem celudOp_next {s : State} {f : CelHere → Except Stop State} {r : Bool} {h : CelHere} (hh : s.celudHere = some h) :
    ∃ t, celudOp s f r = .next t := by
  unfold celudOp
  rw [hh]
  simp only []
  repeat' split
  all_goals exact ⟨_, rfl⟩

theorem drayOp_ok {addr : Bool} {s : State} {ch : Nat} {d d' : Dray} {f : Dray → DrayRes}
    (hh : s.drayHere = some (ch, addr, d)) (ha : s.drayRuns ch d = true) (hf : f d = .ok d') :
    drayOp addr s f = .next { s with drays := Cells.put s.drays ch d'.reach } := by
  simp [drayOp, hh, ha, hf]

theorem drayOp_next {addr : Bool} {s : State} {ch : Nat} {d : Dray} {f : Dray → DrayRes}
    (hh : s.drayHere = some (ch, addr, d)) : ∃ t, drayOp addr s f = .next t := by
  unfold drayOp
  rw [hh]
  simp only [ne_eq, not_true_eq_false, if_false]
  repeat' split
  all_goals exact ⟨_, rfl⟩

theorem whenRunning_running {s : State} {k : Host.Outcome State Fault Refusal} (h : s.mode = .running) :
    whenRunning s k = k := by simp [whenRunning, h]

theorem whenRunning_next {s : State} {k : Host.Outcome State Fault Refusal} (h : ∃ t, k = .next t) :
    ∃ t, whenRunning s k = .next t := by
  unfold whenRunning
  split
  · exact h
  · exact ⟨_, rfl⟩

theorem whenPowered_powered {s : State} {k : Host.Outcome State Fault Refusal} (h : s.mode = .running ∨ s.mode = .recovery) :
    whenPowered s k = k := by rcases h with h | h <;> simp [whenPowered, h]

theorem whenPowered_next {s : State} {k : Host.Outcome State Fault Refusal} (h : ∃ t, k = .next t) :
    ∃ t, whenPowered s k = .next t := by
  unfold whenPowered
  split
  · exact h
  · exact ⟨_, rfl⟩

theorem hostQueue_next {q : Nat} {s : State} {f : Queue → Queue} : ∃ t, hostQueue q s f = .next t := ⟨_, rfl⟩

end Sys2Proof.Machine
end

