-- ==== Sys2Proof/Laws/Frames.lean ====
section
/-!
SUPPORT. Every word issues through one of three frames, and every event answers: a native instruction is `native` of some
body, a dray word is `drayOp`, a Celud word is `celudOp`.
-/

namespace Sys2Proof

/-- The native instructions that a remote function may execute (R264), besides the prefix and the trailer. -/
def Instr.remoteRuns : Instr → Bool
  | .uadd .. => true
  | .usub .. => true
  | .umul .. => true
  | .umulh .. => true
  | .umulhu .. => true
  | .udiv .. => true
  | .urem .. => true
  | .uand .. => true
  | .uor .. => true
  | .uxor .. => true
  | .ushl .. => true
  | .ushr .. => true
  | .usar .. => true
  | .umin .. => true
  | .umax .. => true
  | .uceq .. => true
  | .uclt .. => true
  | .ucltu .. => true
  | .usel .. => true
  | .uaddp .. => true
  | .uaddImm .. => true
  | .uandImm .. => true
  | .uorImm .. => true
  | .ushlImm .. => true
  | .ushrImm .. => true
  | .usarImm .. => true
  | .uaddpi .. => true
  | .umovi .. => true
  | .bz .. => true
  | .bnz .. => true
  | .srrd .. => true
  | .bra .. => true
  | .call .. => true
  | .callr .. => true
  | .brr .. => true
  | .ret .. => true
  | .endLanes .. => true
  | .trap .. => true
  | .fence .. => true
  | .uldb .. => true
  | .uldh .. => true
  | .uldw .. => true
  | .uldd .. => true
  | .uldq .. => true
  | .ustb .. => true
  | .usth .. => true
  | .ustw .. => true
  | .ustd .. => true
  | .ustq .. => true
  | .uldwAcq .. => true
  | .ulddAcq .. => true
  | .ustwRel .. => true
  | .ustdRel .. => true
  | .uldcw .. => true
  | .uldcd .. => true
  | .uaadd .. => true
  | .uamin .. => true
  | .uamax .. => true
  | .uaand .. => true
  | .uaor .. => true
  | .uaxor .. => true
  | .uaxchg .. => true
  | .uacas .. => true
  | _ => false

/-- The words of the arithmetic thread of a dray kernel (R333). -/
def Instr.drayArithmetic : Instr → Bool
  | .xend .. => true
  | .xpop .. => true
  | .xadd .. => true
  | .xmul .. => true
  | .xfma .. => true
  | .xmax .. => true
  | .xmin .. => true
  | .xset .. => true
  | .xacc .. => true
  | .xrel .. => true
  | .xcmovi .. => true
  | .xloop .. => true
  | _ => false

end Sys2Proof

namespace Sys2Proof.Machine

/-- A native instruction other than the prefix and the trailer runs in the frame of native instructions, or in that of
barriers. -/
theorem exec_native {i : Instr} (s : State) (hn : (encodeFields i).isSome = true) (hi : ∀ imm, i ≠ .immx imm)
    (hr : ∀ p w, i ≠ .runend p w) : ∃ sw body,
    exec i s = native sw i.remoteRuns s body ∨ exec i s = barrierOp sw s body := by
  cases i
  case uadd sw d a b => exact ⟨_, _, .inl (by unfold execUadd uniBin nativeHere; rfl : execUadd sw d a b s = _)⟩
  case usub sw d a b => exact ⟨_, _, .inl (by unfold execUsub uniBin nativeHere; rfl : execUsub sw d a b s = _)⟩
  case umul sw d a b => exact ⟨_, _, .inl (by unfold execUmul uniBin nativeHere; rfl : execUmul sw d a b s = _)⟩
  case umulh sw d a b => exact ⟨_, _, .inl (by unfold execUmulh uniBin nativeHere; rfl : execUmulh sw d a b s = _)⟩
  case umulhu sw d a b => exact ⟨_, _, .inl (by unfold execUmulhu uniBin nativeHere; rfl : execUmulhu sw d a b s = _)⟩
  case udiv sw d a b => exact ⟨_, _, .inl (by unfold execUdiv uniBin nativeHere; rfl : execUdiv sw d a b s = _)⟩
  case urem sw d a b => exact ⟨_, _, .inl (by unfold execUrem uniBin nativeHere; rfl : execUrem sw d a b s = _)⟩
  case uand sw d a b => exact ⟨_, _, .inl (by unfold execUand uniBin nativeHere; rfl : execUand sw d a b s = _)⟩
  case uor sw d a b => exact ⟨_, _, .inl (by unfold execUor uniBin nativeHere; rfl : execUor sw d a b s = _)⟩
  case uxor sw d a b => exact ⟨_, _, .inl (by unfold execUxor uniBin nativeHere; rfl : execUxor sw d a b s = _)⟩
  case ushl sw d a b => exact ⟨_, _, .inl (by unfold execUshl uniBin nativeHere; rfl : execUshl sw d a b s = _)⟩
  case ushr sw d a b => exact ⟨_, _, .inl (by unfold execUshr uniBin nativeHere; rfl : execUshr sw d a b s = _)⟩
  case usar sw d a b => exact ⟨_, _, .inl (by unfold execUsar uniBin nativeHere; rfl : execUsar sw d a b s = _)⟩
  case umin sw d a b => exact ⟨_, _, .inl (by unfold execUmin uniBin nativeHere; rfl : execUmin sw d a b s = _)⟩
  case umax sw d a b => exact ⟨_, _, .inl (by unfold execUmax uniBin nativeHere; rfl : execUmax sw d a b s = _)⟩
  case uceq sw d a b => exact ⟨_, _, .inl (by unfold execUceq uniBin nativeHere; rfl : execUceq sw d a b s = _)⟩
  case uclt sw d a b => exact ⟨_, _, .inl (by unfold execUclt uniBin nativeHere; rfl : execUclt sw d a b s = _)⟩
  case ucltu sw d a b => exact ⟨_, _, .inl (by unfold execUcltu uniBin nativeHere; rfl : execUcltu sw d a b s = _)⟩
  case usel sw d a b => exact ⟨_, _, .inl (by unfold execUsel nativeHere; rfl : execUsel sw d a b s = _)⟩
  case uaddp sw d a b => exact ⟨_, _, .inl (by unfold execUaddp nativeHere; rfl : execUaddp sw d a b s = _)⟩
  case uaddImm sw d a imm => exact ⟨_, _, .inl (by unfold execUaddImm uniImm nativeHere; rfl : execUaddImm sw d a imm s = _)⟩
  case uandImm sw d a imm => exact ⟨_, _, .inl (by unfold execUandImm uniImm nativeHere; rfl : execUandImm sw d a imm s = _)⟩
  case uorImm sw d a imm => exact ⟨_, _, .inl (by unfold execUorImm uniImm nativeHere; rfl : execUorImm sw d a imm s = _)⟩
  case ushlImm sw d a n => exact ⟨_, _, .inl (by unfold execUshlImm uniImm nativeHere; rfl : execUshlImm sw d a n s = _)⟩
  case ushrImm sw d a n => exact ⟨_, _, .inl (by unfold execUshrImm uniImm nativeHere; rfl : execUshrImm sw d a n s = _)⟩
  case usarImm sw d a n => exact ⟨_, _, .inl (by unfold execUsarImm uniImm nativeHere; rfl : execUsarImm sw d a n s = _)⟩
  case uaddpi sw d a imm => exact ⟨_, _, .inl (by unfold execUaddpi nativeHere; rfl : execUaddpi sw d a imm s = _)⟩
  case umovi sw d imm => exact ⟨_, _, .inl (by unfold execUmovi nativeHere; rfl : execUmovi sw d imm s = _)⟩
  case bz sw d off => exact ⟨_, _, .inl (by unfold execBz uniBranch closing; rfl : execBz sw d off s = _)⟩
  case bnz sw d off => exact ⟨_, _, .inl (by unfold execBnz uniBranch closing; rfl : execBnz sw d off s = _)⟩
  case srrd sw d num => exact ⟨_, _, .inl (by unfold execSrrd nativeHere; rfl : execSrrd sw d num s = _)⟩
  case srwr sw d num => exact ⟨_, _, .inl (by unfold execSrwr nativeHere; rfl : execSrwr sw d num s = _)⟩
  case bra sw off => exact ⟨_, _, .inl (by unfold execBra closing; rfl : execBra sw off s = _)⟩
  case call sw off => exact ⟨_, _, .inl (by unfold execCall closing; rfl : execCall sw off s = _)⟩
  case callr sw reg => exact ⟨_, _, .inl (by unfold execCallr regJump closing; rfl : execCallr sw reg s = _)⟩
  case brr sw reg => exact ⟨_, _, .inl (by unfold execBrr regJump closing; rfl : execBrr sw reg s = _)⟩
  case ret sw reg => exact ⟨_, _, .inl (by unfold execRet regJump closing; rfl : execRet sw reg s = _)⟩
  case endLanes sw => exact ⟨_, _, .inl (by unfold execEndLanes closing; rfl : execEndLanes sw s = _)⟩
  case trap sw reg code => exact ⟨_, _, .inl (by unfold execTrap closing; rfl : execTrap sw reg code s = _)⟩
  case rfe sw => exact ⟨_, _, .inl (by unfold execRfe closing; rfl : execRfe sw s = _)⟩
  case replayToken sw reg => exact ⟨_, _, .inl (by unfold execReplayToken; rfl : execReplayToken sw reg s = _)⟩
  case replayPage sw reg => exact ⟨_, _, .inl (by unfold execReplayPage; rfl : execReplayPage sw reg s = _)⟩
  case icinv sw sc => exact ⟨_, _, .inl (by unfold execIcinv closing; rfl : execIcinv sw sc s = _)⟩
  case fence sw kind sc => exact ⟨_, _, .inl (by unfold execFence; rfl : execFence sw kind sc s = _)⟩
  case opfence sw => exact ⟨_, _, .inl (by unfold execOpfence nativeHere; rfl : execOpfence sw s = _)⟩
  case waitany sw reg k => exact ⟨_, _, .inl (by unfold execWaitany closing; rfl : execWaitany sw reg k s = _)⟩
  case waitall sw reg => exact ⟨_, _, .inl (by unfold execWaitall closing; rfl : execWaitall sw reg s = _)⟩
  case ffrdy sw reg k => exact ⟨_, _, .inl (by unfold execFfrdy; rfl : execFfrdy sw reg k s = _)⟩
  case rcwait sw reg k => exact ⟨_, _, .inl (by unfold execRcwait closing; rfl : execRcwait sw reg k s = _)⟩
  case rcprobe sw reg k => exact ⟨_, _, .inl (by unfold execRcprobe; rfl : execRcprobe sw reg k s = _)⟩
  case exrd sw reg => exact ⟨_, _, .inl (by unfold execExrd nativeHere; rfl : execExrd sw reg s = _)⟩
  case exwr sw reg => exact ⟨_, _, .inl (by unfold execExwr nativeHere; rfl : execExwr sw reg s = _)⟩
  case exld sw ma => exact ⟨_, _, .inl (by unfold execExld nativeHere; rfl : execExld sw ma s = _)⟩
  case exsv sw ma => exact ⟨_, _, .inl (by unfold execExsv nativeHere; rfl : execExsv sw ma s = _)⟩
  case mand sw ma mb mc => exact ⟨_, _, .inl (by unfold execMand nativeHere; rfl : execMand sw ma mb mc s = _)⟩
  case mor sw ma mb mc => exact ⟨_, _, .inl (by unfold execMor nativeHere; rfl : execMor sw ma mb mc s = _)⟩
  case mxor sw ma mb mc => exact ⟨_, _, .inl (by unfold execMxor nativeHere; rfl : execMxor sw ma mb mc s = _)⟩
  case mnot sw ma mb => exact ⟨_, _, .inl (by unfold execMnot nativeHere; rfl : execMnot sw ma mb s = _)⟩
  case mrd sw reg ma => exact ⟨_, _, .inl (by unfold execMrd nativeHere; rfl : execMrd sw reg ma s = _)⟩
  case mwr sw reg ma => exact ⟨_, _, .inl (by unfold execMwr nativeHere; rfl : execMwr sw reg ma s = _)⟩
  case mpop sw reg ma => exact ⟨_, _, .inl (by unfold execMpop nativeHere; rfl : execMpop sw reg ma s = _)⟩
  case bararv sw reg ci cnt bar => exact ⟨_, _, .inr (by unfold execBararv; rfl : execBararv sw reg ci cnt bar s = _)⟩
  case barsync sw reg ci cnt bar => exact ⟨_, _, .inr (by unfold execBarsync; rfl : execBarsync sw reg ci cnt bar s = _)⟩
  case uldb sw d a wh abs => exact ⟨_, _, .inl (by unfold execUldb uniLoad; rfl : execUldb sw d a wh abs s = _)⟩
  case uldh sw d a wh abs => exact ⟨_, _, .inl (by unfold execUldh uniLoad; rfl : execUldh sw d a wh abs s = _)⟩
  case uldw sw d a wh abs => exact ⟨_, _, .inl (by unfold execUldw uniLoad; rfl : execUldw sw d a wh abs s = _)⟩
  case uldd sw d a wh abs => exact ⟨_, _, .inl (by unfold execUldd uniLoad; rfl : execUldd sw d a wh abs s = _)⟩
  case uldq sw d a wh abs => exact ⟨_, _, .inl (by unfold execUldq uniLoad; rfl : execUldq sw d a wh abs s = _)⟩
  case ustb sw d a wh abs => exact ⟨_, _, .inl (by unfold execUstb uniStore; rfl : execUstb sw d a wh abs s = _)⟩
  case usth sw d a wh abs => exact ⟨_, _, .inl (by unfold execUsth uniStore; rfl : execUsth sw d a wh abs s = _)⟩
  case ustw sw d a wh abs => exact ⟨_, _, .inl (by unfold execUstw uniStore; rfl : execUstw sw d a wh abs s = _)⟩
  case ustd sw d a wh abs => exact ⟨_, _, .inl (by unfold execUstd uniStore; rfl : execUstd sw d a wh abs s = _)⟩
  case ustq sw d a wh abs => exact ⟨_, _, .inl (by unfold execUstq uniStore; rfl : execUstq sw d a wh abs s = _)⟩
  case uldwAcq sw d a wh sc => exact ⟨_, _, .inl (by unfold execUldwAcq uniLoad; rfl : execUldwAcq sw d a wh sc s = _)⟩
  case ulddAcq sw d a wh sc => exact ⟨_, _, .inl (by unfold execUlddAcq uniLoad; rfl : execUlddAcq sw d a wh sc s = _)⟩
  case ustwRel sw d a wh sc => exact ⟨_, _, .inl (by unfold execUstwRel uniStore; rfl : execUstwRel sw d a wh sc s = _)⟩
  case ustdRel sw d a wh sc => exact ⟨_, _, .inl (by unfold execUstdRel uniStore; rfl : execUstdRel sw d a wh sc s = _)⟩
  case uldcw sw d a wh sc => exact ⟨_, _, .inl (by unfold execUldcw uniLoad; rfl : execUldcw sw d a wh sc s = _)⟩
  case uldcd sw d a wh sc => exact ⟨_, _, .inl (by unfold execUldcd uniLoad; rfl : execUldcd sw d a wh sc s = _)⟩
  case uaadd sw d a wh ord sc => exact ⟨_, _, .inl (by unfold execUaadd uniAtomic; rfl : execUaadd sw d a wh ord sc s = _)⟩
  case uamin sw d a wh ord sc => exact ⟨_, _, .inl (by unfold execUamin uniAtomic; rfl : execUamin sw d a wh ord sc s = _)⟩
  case uamax sw d a wh ord sc => exact ⟨_, _, .inl (by unfold execUamax uniAtomic; rfl : execUamax sw d a wh ord sc s = _)⟩
  case uaand sw d a wh ord sc => exact ⟨_, _, .inl (by unfold execUaand uniAtomic; rfl : execUaand sw d a wh ord sc s = _)⟩
  case uaor sw d a wh ord sc => exact ⟨_, _, .inl (by unfold execUaor uniAtomic; rfl : execUaor sw d a wh ord sc s = _)⟩
  case uaxor sw d a wh ord sc => exact ⟨_, _, .inl (by unfold execUaxor uniAtomic; rfl : execUaxor sw d a wh ord sc s = _)⟩
  case uaxchg sw d a wh ord sc => exact ⟨_, _, .inl (by unfold execUaxchg uniAtomic; rfl : execUaxchg sw d a wh ord sc s = _)⟩
  case uacas sw d a wh ord sc => exact ⟨_, _, .inl (by unfold execUacas uniAtomic; rfl : execUacas sw d a wh ord sc s = _)⟩
  case copy sw b sl dl xf tag => exact ⟨_, _, .inl (by unfold execCopy; rfl : execCopy sw b sl dl xf tag s = _)⟩
  case gsjob sw b dir iw es dl tag => exact ⟨_, _, .inl (by unfold execGsjob; rfl : execGsjob sw b dir iw es dl tag s = _)⟩
  case rcall sw b narg nret sc => exact ⟨_, _, .inl (by unfold execRcall; rfl : execRcall sw b narg nret sc s = _)⟩
  case mma sw b f rb za rm => exact ⟨_, _, .inl (by unfold execMma; rfl : execMma sw b f rb za rm s = _)⟩
  case mloop sw b za rm => exact ⟨_, _, .inl (by unfold execMloop; rfl : execMloop sw b za rm s = _)⟩
  case mwait sw => exact ⟨_, _, .inl (by unfold execMwait nativeHere; rfl : execMwait sw s = _)⟩
  case mdrain sw b tm sat rm => exact ⟨_, _, .inl (by unfold execMdrain; rfl : execMdrain sw b tm sat rm s = _)⟩
  case mvstack sw b => exact ⟨_, _, .inl (by unfold execMvstack; rfl : execMvstack sw b s = _)⟩
  case quant2 sw b => exact ⟨_, _, .inl (by unfold execQuant2; rfl : execQuant2 sw b s = _)⟩
  case tidset sw v x wd => exact ⟨_, _, .inl (by unfold execTidset nativeHere; rfl : execTidset sw v x wd s = _)⟩
  case tidget sw d x wd => exact ⟨_, _, .inl (by unfold execTidget nativeHere; rfl : execTidget sw d x wd s = _)⟩
  case immx imm => exact absurd rfl (hi imm)
  case runend p w => exact absurd rfl (hr p w)
  case iadd sw d a b => exact ⟨_, _, .inl (by unfold execIadd laneBin laneTern nativeHere; rfl : execIadd sw d a b s = _)⟩
  case isub sw d a b => exact ⟨_, _, .inl (by unfold execIsub laneBin laneTern nativeHere; rfl : execIsub sw d a b s = _)⟩
  case imul sw d a b => exact ⟨_, _, .inl (by unfold execImul laneBin laneTern nativeHere; rfl : execImul sw d a b s = _)⟩
  case imulh sw d a b => exact ⟨_, _, .inl (by unfold execImulh laneBin laneTern nativeHere; rfl : execImulh sw d a b s = _)⟩
  case imulhu sw d a b => exact ⟨_, _, .inl (by unfold execImulhu laneBin laneTern nativeHere; rfl : execImulhu sw d a b s = _)⟩
  case imin sw d a b => exact ⟨_, _, .inl (by unfold execImin laneBin laneTern nativeHere; rfl : execImin sw d a b s = _)⟩
  case imax sw d a b => exact ⟨_, _, .inl (by unfold execImax laneBin laneTern nativeHere; rfl : execImax sw d a b s = _)⟩
  case iand sw d a b => exact ⟨_, _, .inl (by unfold execIand laneBin laneTern nativeHere; rfl : execIand sw d a b s = _)⟩
  case ior sw d a b => exact ⟨_, _, .inl (by unfold execIor laneBin laneTern nativeHere; rfl : execIor sw d a b s = _)⟩
  case ixor sw d a b => exact ⟨_, _, .inl (by unfold execIxor laneBin laneTern nativeHere; rfl : execIxor sw d a b s = _)⟩
  case ishl sw d a b => exact ⟨_, _, .inl (by unfold execIshl laneBin laneTern nativeHere; rfl : execIshl sw d a b s = _)⟩
  case ishr sw d a b => exact ⟨_, _, .inl (by unfold execIshr laneBin laneTern nativeHere; rfl : execIshr sw d a b s = _)⟩
  case isar sw d a b => exact ⟨_, _, .inl (by unfold execIsar laneBin laneTern nativeHere; rfl : execIsar sw d a b s = _)⟩
  case iceq sw d a b => exact ⟨_, _, .inl (by unfold execIceq laneBin laneTern nativeHere; rfl : execIceq sw d a b s = _)⟩
  case iclt sw d a b => exact ⟨_, _, .inl (by unfold execIclt laneBin laneTern nativeHere; rfl : execIclt sw d a b s = _)⟩
  case icltu sw d a b => exact ⟨_, _, .inl (by unfold execIcltu laneBin laneTern nativeHere; rfl : execIcltu sw d a b s = _)⟩
  case isel sw d a b => exact ⟨_, _, .inl (by unfold execIsel nativeHere; rfl : execIsel sw d a b s = _)⟩
  case p8add sw d a b => exact ⟨_, _, .inl (by unfold execP8add laneBin laneTern nativeHere; rfl : execP8add sw d a b s = _)⟩
  case p8sub sw d a b => exact ⟨_, _, .inl (by unfold execP8sub laneBin laneTern nativeHere; rfl : execP8sub sw d a b s = _)⟩
  case p8max sw d a b => exact ⟨_, _, .inl (by unfold execP8max laneBin laneTern nativeHere; rfl : execP8max sw d a b s = _)⟩
  case p8min sw d a b => exact ⟨_, _, .inl (by unfold execP8min laneBin laneTern nativeHere; rfl : execP8min sw d a b s = _)⟩
  case p16add sw d a b => exact ⟨_, _, .inl (by unfold execP16add laneBin laneTern nativeHere; rfl : execP16add sw d a b s = _)⟩
  case p16sub sw d a b => exact ⟨_, _, .inl (by unfold execP16sub laneBin laneTern nativeHere; rfl : execP16sub sw d a b s = _)⟩
  case p16mul sw d a b => exact ⟨_, _, .inl (by unfold execP16mul laneBin laneTern nativeHere; rfl : execP16mul sw d a b s = _)⟩
  case fadd sw d a b => exact ⟨_, _, .inl (by unfold execFadd laneBin laneTern nativeHere; rfl : execFadd sw d a b s = _)⟩
  case fsub sw d a b => exact ⟨_, _, .inl (by unfold execFsub laneBin laneTern nativeHere; rfl : execFsub sw d a b s = _)⟩
  case fmul sw d a b => exact ⟨_, _, .inl (by unfold execFmul laneBin laneTern nativeHere; rfl : execFmul sw d a b s = _)⟩
  case ffma sw d a b => exact ⟨_, _, .inl (by unfold execFfma laneTern nativeHere; rfl : execFfma sw d a b s = _)⟩
  case fmin sw d a b => exact ⟨_, _, .inl (by unfold execFmin laneBin laneTern nativeHere; rfl : execFmin sw d a b s = _)⟩
  case fmax sw d a b => exact ⟨_, _, .inl (by unfold execFmax laneBin laneTern nativeHere; rfl : execFmax sw d a b s = _)⟩
  case fceq sw d a b => exact ⟨_, _, .inl (by unfold execFceq laneBin laneTern nativeHere; rfl : execFceq sw d a b s = _)⟩
  case fclt sw d a b => exact ⟨_, _, .inl (by unfold execFclt laneBin laneTern nativeHere; rfl : execFclt sw d a b s = _)⟩
  case fcle sw d a b => exact ⟨_, _, .inl (by unfold execFcle laneBin laneTern nativeHere; rfl : execFcle sw d a b s = _)⟩
  case hadd2 sw d a b => exact ⟨_, _, .inl (by unfold execHadd2 laneBin laneTern nativeHere; rfl : execHadd2 sw d a b s = _)⟩
  case hfma2 sw d a b => exact ⟨_, _, .inl (by unfold execHfma2 laneTern nativeHere; rfl : execHfma2 sw d a b s = _)⟩
  case badd2 sw d a b => exact ⟨_, _, .inl (by unfold execBadd2 laneBin laneTern nativeHere; rfl : execBadd2 sw d a b s = _)⟩
  case bfma2 sw d a b => exact ⟨_, _, .inl (by unfold execBfma2 laneTern nativeHere; rfl : execBfma2 sw d a b s = _)⟩
  case iaddImm sw d a imm => exact ⟨_, _, .inl (by unfold execIaddImm laneImm nativeHere; rfl : execIaddImm sw d a imm s = _)⟩
  case iandImm sw d a imm => exact ⟨_, _, .inl (by unfold execIandImm laneImm nativeHere; rfl : execIandImm sw d a imm s = _)⟩
  case iorImm sw d a imm => exact ⟨_, _, .inl (by unfold execIorImm laneImm nativeHere; rfl : execIorImm sw d a imm s = _)⟩
  case ishlImm sw d a n => exact ⟨_, _, .inl (by unfold execIshlImm laneImm nativeHere; rfl : execIshlImm sw d a n s = _)⟩
  case ishrImm sw d a n => exact ⟨_, _, .inl (by unfold execIshrImm laneImm nativeHere; rfl : execIshrImm sw d a n s = _)⟩
  case isarImm sw d a n => exact ⟨_, _, .inl (by unfold execIsarImm laneImm nativeHere; rfl : execIsarImm sw d a n s = _)⟩
  case p8shl sw d a n => exact ⟨_, _, .inl (by unfold execP8shl laneImm nativeHere; rfl : execP8shl sw d a n s = _)⟩
  case p8shr sw d a n => exact ⟨_, _, .inl (by unfold execP8shr laneImm nativeHere; rfl : execP8shr sw d a n s = _)⟩
  case p8sar sw d a n => exact ⟨_, _, .inl (by unfold execP8sar laneImm nativeHere; rfl : execP8sar sw d a n s = _)⟩
  case p16shl sw d a n => exact ⟨_, _, .inl (by unfold execP16shl laneImm nativeHere; rfl : execP16shl sw d a n s = _)⟩
  case p16shr sw d a n => exact ⟨_, _, .inl (by unfold execP16shr laneImm nativeHere; rfl : execP16shr sw d a n s = _)⟩
  case p16sar sw d a n => exact ⟨_, _, .inl (by unfold execP16sar laneImm nativeHere; rfl : execP16sar sw d a n s = _)⟩
  case exp2 sw d a => exact ⟨_, _, .inl (by unfold execExp2 laneSfn nativeHere; rfl : execExp2 sw d a s = _)⟩
  case log2 sw d a => exact ⟨_, _, .inl (by unfold execLog2 laneSfn nativeHere; rfl : execLog2 sw d a s = _)⟩
  case rcp sw d a => exact ⟨_, _, .inl (by unfold execRcp laneSfn nativeHere; rfl : execRcp sw d a s = _)⟩
  case rsqrt sw d a => exact ⟨_, _, .inl (by unfold execRsqrt laneSfn nativeHere; rfl : execRsqrt sw d a s = _)⟩
  case sin sw d a => exact ⟨_, _, .inl (by unfold execSin laneSfn nativeHere; rfl : execSin sw d a s = _)⟩
  case cos sw d a => exact ⟨_, _, .inl (by unfold execCos laneSfn nativeHere; rfl : execCos sw d a s = _)⟩
  case cvt sw d a rm tgt src => exact ⟨_, _, .inl (by unfold execCvt laneImm nativeHere; rfl : execCvt sw d a rm tgt src s = _)⟩
  case cvts sw d a rm tgt src => exact ⟨_, _, .inl (by unfold execCvts laneImm nativeHere; rfl : execCvts sw d a rm tgt src s = _)⟩
  case vrd sw d k => exact ⟨_, _, .inl (by unfold execVrd nativeHere; rfl : execVrd sw d k s = _)⟩
  case vwr sw a k => exact ⟨_, _, .inl (by unfold execVwr nativeHere; rfl : execVwr sw a k s = _)⟩
  case lpush sw d a x mk => exact ⟨_, _, .inl (by unfold execLpush nativeHere; rfl : execLpush sw d a x mk s = _)⟩
  case lpull sw d a b => exact ⟨_, _, .inl (by unfold execLpull nativeHere; rfl : execLpull sw d a b s = _)⟩
  case imovi sw d imm => exact ⟨_, _, .inl (by unfold execImovi nativeHere; rfl : execImovi sw d imm s = _)⟩
  case bvz sw d off => exact ⟨_, _, .inl (by unfold execBvz laneBranch closing; rfl : execBvz sw d off s = _)⟩
  case bvnz sw d off => exact ⟨_, _, .inl (by unfold execBvnz laneBranch closing; rfl : execBvnz sw d off s = _)⟩
  case ldb sw d a wh abs => exact ⟨_, _, .inl (by unfold execLdb laneLoad; rfl : execLdb sw d a wh abs s = _)⟩
  case ldh sw d a wh abs => exact ⟨_, _, .inl (by unfold execLdh laneLoad; rfl : execLdh sw d a wh abs s = _)⟩
  case ldw sw d a wh abs => exact ⟨_, _, .inl (by unfold execLdw laneLoad; rfl : execLdw sw d a wh abs s = _)⟩
  case ldd sw d a wh abs => exact ⟨_, _, .inl (by unfold execLdd laneLoad; rfl : execLdd sw d a wh abs s = _)⟩
  case ldq sw d a wh abs => exact ⟨_, _, .inl (by unfold execLdq laneLoad; rfl : execLdq sw d a wh abs s = _)⟩
  case stb sw d a wh abs => exact ⟨_, _, .inl (by unfold execStb laneStore; rfl : execStb sw d a wh abs s = _)⟩
  case sth sw d a wh abs => exact ⟨_, _, .inl (by unfold execSth laneStore; rfl : execSth sw d a wh abs s = _)⟩
  case stw sw d a wh abs => exact ⟨_, _, .inl (by unfold execStw laneStore; rfl : execStw sw d a wh abs s = _)⟩
  case std sw d a wh abs => exact ⟨_, _, .inl (by unfold execStd laneStore; rfl : execStd sw d a wh abs s = _)⟩
  case stq sw d a wh abs => exact ⟨_, _, .inl (by unfold execStq laneStore; rfl : execStq sw d a wh abs s = _)⟩
  case ldwAcq sw d a wh sc => exact ⟨_, _, .inl (by unfold execLdwAcq laneLoad; rfl : execLdwAcq sw d a wh sc s = _)⟩
  case lddAcq sw d a wh sc => exact ⟨_, _, .inl (by unfold execLddAcq laneLoad; rfl : execLddAcq sw d a wh sc s = _)⟩
  case stwRel sw d a wh sc => exact ⟨_, _, .inl (by unfold execStwRel laneStore; rfl : execStwRel sw d a wh sc s = _)⟩
  case stdRel sw d a wh sc => exact ⟨_, _, .inl (by unfold execStdRel laneStore; rfl : execStdRel sw d a wh sc s = _)⟩
  case ldcw sw d a wh sc => exact ⟨_, _, .inl (by unfold execLdcw laneLoad; rfl : execLdcw sw d a wh sc s = _)⟩
  case ldcd sw d a wh sc => exact ⟨_, _, .inl (by unfold execLdcd laneLoad; rfl : execLdcd sw d a wh sc s = _)⟩
  case aadd sw d a wh ord sc => exact ⟨_, _, .inl (by unfold execAadd laneAtomic; rfl : execAadd sw d a wh ord sc s = _)⟩
  case amin sw d a wh ord sc => exact ⟨_, _, .inl (by unfold execAmin laneAtomic; rfl : execAmin sw d a wh ord sc s = _)⟩
  case amax sw d a wh ord sc => exact ⟨_, _, .inl (by unfold execAmax laneAtomic; rfl : execAmax sw d a wh ord sc s = _)⟩
  case aand sw d a wh ord sc => exact ⟨_, _, .inl (by unfold execAand laneAtomic; rfl : execAand sw d a wh ord sc s = _)⟩
  case aor sw d a wh ord sc => exact ⟨_, _, .inl (by unfold execAor laneAtomic; rfl : execAor sw d a wh ord sc s = _)⟩
  case axor sw d a wh ord sc => exact ⟨_, _, .inl (by unfold execAxor laneAtomic; rfl : execAxor sw d a wh ord sc s = _)⟩
  case axchg sw d a wh ord sc => exact ⟨_, _, .inl (by unfold execAxchg laneAtomic; rfl : execAxchg sw d a wh ord sc s = _)⟩
  case acas sw d a wh ord sc => exact ⟨_, _, .inl (by unfold execAcas laneAtomic; rfl : execAcas sw d a wh ord sc s = _)⟩
  case pshift sw d a sk dir fl n => exact ⟨_, _, .inl (by unfold execPshift nativeHere; rfl : execPshift sw d a sk dir fl n s = _)⟩
  case prot sw d a dir n => exact ⟨_, _, .inl (by unfold execProt nativeHere; rfl : execProt sw d a dir n s = _)⟩
  case pspread sw d a axis r => exact ⟨_, _, .inl (by unfold execPspread nativeHere; rfl : execPspread sw d a axis r s = _)⟩
  case pfold sw d a op dir => exact ⟨_, _, .inl (by unfold execPfold nativeHere; rfl : execPfold sw d a op dir s = _)⟩
  case prefold sw d a => exact ⟨_, _, .inl (by unfold execPrefold nativeHere; rfl : execPrefold sw d a s = _)⟩
  case padd sw d a b => exact ⟨_, _, .inl (by unfold execPadd planeBin nativeHere; rfl : execPadd sw d a b s = _)⟩
  case psub sw d a b => exact ⟨_, _, .inl (by unfold execPsub planeBin nativeHere; rfl : execPsub sw d a b s = _)⟩
  case pmul sw d a b => exact ⟨_, _, .inl (by unfold execPmul planeBin nativeHere; rfl : execPmul sw d a b s = _)⟩
  case pmax sw d a b => exact ⟨_, _, .inl (by unfold execPmax planeBin nativeHere; rfl : execPmax sw d a b s = _)⟩
  case pmin sw d a b => exact ⟨_, _, .inl (by unfold execPmin planeBin nativeHere; rfl : execPmin sw d a b s = _)⟩
  case pdset sw d x => exact ⟨_, _, .inl (by unfold execPdset nativeHere; rfl : execPdset sw d x s = _)⟩
  case pdget sw a x => exact ⟨_, _, .inl (by unfold execPdget nativeHere; rfl : execPdget sw a x s = _)⟩
  case envclr sw d r given => exact ⟨_, _, .inl (by unfold execEnvclr nativeHere; rfl : execEnvclr sw d r given s = _)⟩
  case envins sw d a => exact ⟨_, _, .inl (by unfold execEnvins nativeHere; rfl : execEnvins sw d a s = _)⟩
  case envsum sw a d b => exact ⟨_, _, .inl (by unfold execEnvsum nativeHere; rfl : execEnvsum sw a d b s = _)⟩
  case envmax sw a d b => exact ⟨_, _, .inl (by unfold execEnvmax nativeHere; rfl : execEnvmax sw a d b s = _)⟩
  case envconv sw a d b => exact ⟨_, _, .inl (by unfold execEnvconv nativeHere; rfl : execEnvconv sw a d b s = _)⟩
  case envleg sw a d => exact ⟨_, _, .inl (by unfold execEnvleg nativeHere; rfl : execEnvleg sw a d s = _)⟩
  case enveval sw d x a => exact ⟨_, _, .inl (by unfold execEnveval nativeHere; rfl : execEnveval sw d x a s = _)⟩
  case envld sw wh d r => exact ⟨_, _, .inl (by unfold execEnvld; rfl : execEnvld sw wh d r s = _)⟩
  case envst sw wh d r => exact ⟨_, _, .inl (by unfold execEnvst; rfl : execEnvst sw wh d r s = _)⟩
  case envsimp sw a d => exact ⟨_, _, .inl (by unfold execEnvsimp nativeHere; rfl : execEnvsimp sw a d s = _)⟩
  case smxacc sw p a nm1 => exact ⟨_, _, .inl (by unfold execSmxacc nativeHere; rfl : execSmxacc sw p a nm1 s = _)⟩
  case smxfin sw d p => exact ⟨_, _, .inl (by unfold execSmxfin nativeHere; rfl : execSmxfin sw d p s = _)⟩
  all_goals exact Bool.noConfusion (show false = true from hn)

/-- A dray word runs in the frame of its thread: the address thread, or the arithmetic thread. -/
theorem exec_dray {i : Instr} {w : Word} (s : State) (hn : encodeDray i = some w) :
    ∃ f, exec i s = drayOp (!i.drayArithmetic) s f := by
  cases i
  case aend => exact ⟨_, (by unfold execAend; rfl : execAend  s = _)⟩
  case jmovi d v => exact ⟨_, (by unfold execJmovi; rfl : execJmovi d v s = _)⟩
  case jaddi d a v => exact ⟨_, (by unfold execJaddi; rfl : execJaddi d a v s = _)⟩
  case jadd d a b => exact ⟨_, (by unfold execJadd; rfl : execJadd d a b s = _)⟩
  case jloop d o => exact ⟨_, (by unfold execJloop; rfl : execJloop d o s = _)⟩
  case drayOpen r => exact ⟨_, (by unfold execDrayOpen enqueue; rfl : execDrayOpen r s = _)⟩
  case drayRead r c n => exact ⟨_, (by unfold execDrayRead enqueue; rfl : execDrayRead r c n s = _)⟩
  case drayWback k r c f => exact ⟨_, (by unfold execDrayWback enqueue; rfl : execDrayWback k r c f s = _)⟩
  case drayClose r => exact ⟨_, (by unfold execDrayClose enqueue; rfl : execDrayClose r s = _)⟩
  case xend => exact ⟨_, (by unfold execXend; rfl : execXend  s = _)⟩
  case xpop d f => exact ⟨_, (by unfold execXpop; rfl : execXpop d f s = _)⟩
  case xadd d a b f => exact ⟨_, (by unfold execXadd drayArith; rfl : execXadd d a b f s = _)⟩
  case xmul d a b f => exact ⟨_, (by unfold execXmul drayArith; rfl : execXmul d a b f s = _)⟩
  case xfma d a b f => exact ⟨_, (by unfold execXfma drayArith; rfl : execXfma d a b f s = _)⟩
  case xmax d a b f => exact ⟨_, (by unfold execXmax drayArith; rfl : execXmax d a b f s = _)⟩
  case xmin d a b f => exact ⟨_, (by unfold execXmin drayArith; rfl : execXmin d a b f s = _)⟩
  case xset k a => exact ⟨_, (by unfold execXset; rfl : execXset k a s = _)⟩
  case xacc k a => exact ⟨_, (by unfold execXacc; rfl : execXacc k a s = _)⟩
  case xrel k => exact ⟨_, (by unfold execXrel; rfl : execXrel k s = _)⟩
  case xcmovi d v => exact ⟨_, (by unfold execXcmovi; rfl : execXcmovi d v s = _)⟩
  case xloop d o => exact ⟨_, (by unfold execXloop; rfl : execXloop d o s = _)⟩
  all_goals exact nomatch (show none = some w from hn)

/-- A Celud word runs in the frame of its thread. -/
theorem exec_celud {i : Instr} (s : State) (hn : (encodeCelud i).isSome = true) : ∃ f r, exec i s = celudOp s f r := by
  cases i
  case celudDecl d ty => exact ⟨_, _, (by unfold execCeludDecl; rfl : execCeludDecl d ty s = _)⟩
  case celudTid d => exact ⟨_, _, (by unfold execCeludTid celudReg1; rfl : execCeludTid d s = _)⟩
  case celudNthr d => exact ⟨_, _, (by unfold execCeludNthr celudReg1; rfl : execCeludNthr d s = _)⟩
  case celudMov lit d a => exact ⟨_, _, (by unfold execCeludMov celudReg1; rfl : execCeludMov lit d a s = _)⟩
  case celudAdd lit d a b => exact ⟨_, _, (by unfold execCeludAdd celudBin celudReg1; rfl : execCeludAdd lit d a b s = _)⟩
  case celudSub lit d a b => exact ⟨_, _, (by unfold execCeludSub celudBin celudReg1; rfl : execCeludSub lit d a b s = _)⟩
  case celudMul lit d a b => exact ⟨_, _, (by unfold execCeludMul celudBin celudReg1; rfl : execCeludMul lit d a b s = _)⟩
  case celudMulh lit d a b => exact ⟨_, _, (by unfold execCeludMulh celudBin celudReg1; rfl : execCeludMulh lit d a b s = _)⟩
  case celudMin lit d a b => exact ⟨_, _, (by unfold execCeludMin celudBin celudReg1; rfl : execCeludMin lit d a b s = _)⟩
  case celudMax lit d a b => exact ⟨_, _, (by unfold execCeludMax celudBin celudReg1; rfl : execCeludMax lit d a b s = _)⟩
  case celudAnd lit d a b => exact ⟨_, _, (by unfold execCeludAnd celudBin celudReg1; rfl : execCeludAnd lit d a b s = _)⟩
  case celudOr lit d a b => exact ⟨_, _, (by unfold execCeludOr celudBin celudReg1; rfl : execCeludOr lit d a b s = _)⟩
  case celudXor lit d a b => exact ⟨_, _, (by unfold execCeludXor celudBin celudReg1; rfl : execCeludXor lit d a b s = _)⟩
  case celudShl lit d a b => exact ⟨_, _, (by unfold execCeludShl celudBin celudReg1; rfl : execCeludShl lit d a b s = _)⟩
  case celudShr lit d a b => exact ⟨_, _, (by unfold execCeludShr celudBin celudReg1; rfl : execCeludShr lit d a b s = _)⟩
  case celudSar lit d a b => exact ⟨_, _, (by unfold execCeludSar celudBin celudReg1; rfl : execCeludSar lit d a b s = _)⟩
  case celudCeq lit d a b => exact ⟨_, _, (by unfold execCeludCeq celudBin celudReg1; rfl : execCeludCeq lit d a b s = _)⟩
  case celudClt lit d a b => exact ⟨_, _, (by unfold execCeludClt celudBin celudReg1; rfl : execCeludClt lit d a b s = _)⟩
  case celudCltu lit d a b => exact ⟨_, _, (by unfold execCeludCltu celudBin celudReg1; rfl : execCeludCltu lit d a b s = _)⟩
  case celudSel lit d a b c => exact ⟨_, _, (by unfold execCeludSel celudReg1; rfl : execCeludSel lit d a b c s = _)⟩
  case celudAdd64 lit d a b => exact ⟨_, _, (by unfold execCeludAdd64 celudReg1; rfl : execCeludAdd64 lit d a b s = _)⟩
  case celudFadd lit d a b => exact ⟨_, _, (by unfold execCeludFadd celudBin celudReg1; rfl : execCeludFadd lit d a b s = _)⟩
  case celudFsub lit d a b => exact ⟨_, _, (by unfold execCeludFsub celudBin celudReg1; rfl : execCeludFsub lit d a b s = _)⟩
  case celudFmul lit d a b => exact ⟨_, _, (by unfold execCeludFmul celudBin celudReg1; rfl : execCeludFmul lit d a b s = _)⟩
  case celudFfma lit d a b => exact ⟨_, _, (by unfold execCeludFfma celudTern celudReg1; rfl : execCeludFfma lit d a b s = _)⟩
  case celudFmin lit d a b => exact ⟨_, _, (by unfold execCeludFmin celudBin celudReg1; rfl : execCeludFmin lit d a b s = _)⟩
  case celudFmax lit d a b => exact ⟨_, _, (by unfold execCeludFmax celudBin celudReg1; rfl : execCeludFmax lit d a b s = _)⟩
  case celudFceq lit d a b => exact ⟨_, _, (by unfold execCeludFceq celudBin celudReg1; rfl : execCeludFceq lit d a b s = _)⟩
  case celudFclt lit d a b => exact ⟨_, _, (by unfold execCeludFclt celudBin celudReg1; rfl : execCeludFclt lit d a b s = _)⟩
  case celudFcle lit d a b => exact ⟨_, _, (by unfold execCeludFcle celudBin celudReg1; rfl : execCeludFcle lit d a b s = _)⟩
  case celudSfn lit d a fn => exact ⟨_, _, (by unfold execCeludSfn celudReg1; rfl : execCeludSfn lit d a fn s = _)⟩
  case celudCvt lit d a i8 sat => exact ⟨_, _, (by unfold execCeludCvt celudReg1; rfl : execCeludCvt lit d a i8 sat s = _)⟩
  case celudHadd2 lit d a b => exact ⟨_, _, (by unfold execCeludHadd2 celudBin celudReg1; rfl : execCeludHadd2 lit d a b s = _)⟩
  case celudHfma2 lit d a b => exact ⟨_, _, (by unfold execCeludHfma2 celudTern celudReg1; rfl : execCeludHfma2 lit d a b s = _)⟩
  case celudBadd2 lit d a b => exact ⟨_, _, (by unfold execCeludBadd2 celudBin celudReg1; rfl : execCeludBadd2 lit d a b s = _)⟩
  case celudBfma2 lit d a b => exact ⟨_, _, (by unfold execCeludBfma2 celudTern celudReg1; rfl : execCeludBfma2 lit d a b s = _)⟩
  case celudDot2 lit d a b => exact ⟨_, _, (by unfold execCeludDot2 celudTern celudReg1; rfl : execCeludDot2 lit d a b s = _)⟩
  case celudLd sc ord rev lit d a space size hint => exact ⟨_, _, (by unfold execCeludLd celudLoad; rfl : execCeludLd sc ord rev lit d a space size hint s = _)⟩
  case celudSt sc ord rev lit a b space size hint => exact ⟨_, _, (by unfold execCeludSt; rfl : execCeludSt sc ord rev lit a b space size hint s = _)⟩
  case celudLdc sc rev lit d a space size hint => exact ⟨_, _, (by unfold execCeludLdc celudLoad; rfl : execCeludLdc sc rev lit d a space size hint s = _)⟩
  case celudAtom sc ord rev lit d a b space hint op => exact ⟨_, _, (by unfold execCeludAtom; rfl : execCeludAtom sc ord rev lit d a b space hint op s = _)⟩
  case celudFence sc kind => exact ⟨_, _, (by unfold execCeludFence; rfl : execCeludFence sc kind s = _)⟩
  case celudBar => exact ⟨_, _, (by unfold execCeludBar; rfl : execCeludBar  s = _)⟩
  case celudJmp target => exact ⟨_, _, (by unfold execCeludJmp; rfl : execCeludJmp target s = _)⟩
  case celudBrz a target => exact ⟨_, _, (by unfold execCeludBrz celudBranch; rfl : execCeludBrz a target s = _)⟩
  case celudBrnz a target => exact ⟨_, _, (by unfold execCeludBrnz celudBranch; rfl : execCeludBrnz a target s = _)⟩
  case celudEnd => exact ⟨_, _, (by unfold execCeludEnd; rfl : execCeludEnd  s = _)⟩
  all_goals exact Bool.noConfusion (show false = true from hn)

/-- An event always answers: it has its effect, or it is not possible and changes nothing. -/
theorem exec_event {i : Instr} (s : State) (hn : Instr.isEvent i = true) : ∃ t, exec i s = .next t := by
  cases i
  case issueDecision half =>
    show ∃ t, execIssueDecision half s = .next t
    unfold execIssueDecision
    try refine whenRunning_next ?_
    try dsimp only
    repeat' split
    all_goals exact ⟨_, rfl⟩
  case coachOverdue team coach =>
    show ∃ t, execCoachOverdue team coach s = .next t
    unfold execCoachOverdue
    try refine whenRunning_next ?_
    try dsimp only
    repeat' split
    all_goals exact ⟨_, rfl⟩
  case subgroupOverdue team coach sub =>
    show ∃ t, execSubgroupOverdue team coach sub s = .next t
    unfold execSubgroupOverdue
    try refine whenRunning_next ?_
    try dsimp only
    repeat' split
    all_goals exact ⟨_, rfl⟩
  case longResultReturn ctx ix =>
    show ∃ t, execLongResultReturn ctx ix s = .next t
    unfold execLongResultReturn
    try refine whenRunning_next ?_
    try dsimp only
    repeat' split
    all_goals exact ⟨_, rfl⟩
  case memberLanesEnd ctx sub =>
    show ∃ t, execMemberLanesEnd ctx sub s = .next t
    unfold execMemberLanesEnd
    try refine whenRunning_next ?_
    try dsimp only
    repeat' split
    all_goals exact ⟨_, rfl⟩
  case handlerEntry team coach =>
    show ∃ t, execHandlerEntry team coach s = .next t
    unfold execHandlerEntry
    try refine whenRunning_next ?_
    try dsimp only
    repeat' split
    all_goals exact ⟨_, rfl⟩
  case overrun node =>
    show ∃ t, execOverrun node s = .next t
    unfold execOverrun
    try refine whenRunning_next ?_
    try dsimp only
    repeat' split
    all_goals exact ⟨_, rfl⟩
  case copyCompletion req =>
    show ∃ t, execCopyCompletion req s = .next t
    unfold execCopyCompletion
    try refine whenRunning_next ?_
    try dsimp only
    repeat' split
    all_goals exact ⟨_, rfl⟩
  case gsjobCompletion req =>
    show ∃ t, execGsjobCompletion req s = .next t
    unfold execGsjobCompletion
    try refine whenRunning_next ?_
    try dsimp only
    repeat' split
    all_goals exact ⟨_, rfl⟩
  case drayRequestCompletion req chan =>
    show ∃ t, execDrayRequestCompletion req chan s = .next t
    unfold execDrayRequestCompletion
    try refine whenRunning_next ?_
    try dsimp only
    repeat' split
    all_goals exact ⟨_, rfl⟩
  case mvstackCompletion req =>
    show ∃ t, execMvstackCompletion req s = .next t
    unfold execMvstackCompletion
    try refine whenRunning_next ?_
    try dsimp only
    repeat' split
    all_goals exact ⟨_, rfl⟩
  case matrixJobCompletion core =>
    show ∃ t, execMatrixJobCompletion core s = .next t
    unfold execMatrixJobCompletion
    try refine whenRunning_next ?_
    try dsimp only
    repeat' split
    all_goals exact ⟨_, rfl⟩
  case matrixRendezvous team rdv =>
    show ∃ t, execMatrixRendezvous team rdv s = .next t
    unfold execMatrixRendezvous
    try refine whenRunning_next ?_
    try dsimp only
    repeat' split
    all_goals exact ⟨_, rfl⟩
  case remoteFunctionStart ex =>
    show ∃ t, execRemoteFunctionStart ex s = .next t
    unfold execRemoteFunctionStart
    try refine whenRunning_next ?_
    try dsimp only
    repeat' split
    all_goals exact ⟨_, rfl⟩
  case reply call =>
    show ∃ t, execReply call s = .next t
    unfold execReply
    try refine whenRunning_next ?_
    try dsimp only
    repeat' split
    all_goals exact ⟨_, rfl⟩
  case callLost call =>
    show ∃ t, execCallLost call s = .next t
    unfold execCallLost
    try refine whenRunning_next ?_
    try dsimp only
    repeat' split
    all_goals exact ⟨_, rfl⟩
  case probeAnswer call =>
    show ∃ t, execProbeAnswer call s = .next t
    unfold execProbeAnswer
    try refine whenRunning_next ?_
    try dsimp only
    repeat' split
    all_goals exact ⟨_, rfl⟩
  case swapRequest oid va pa =>
    show ∃ t, execSwapRequest oid va pa s = .next t
    unfold execSwapRequest
    try refine whenRunning_next ?_
    try dsimp only
    repeat' split
    all_goals exact ⟨_, rfl⟩
  case swapBegin swap =>
    show ∃ t, execSwapBegin swap s = .next t
    unfold execSwapBegin
    try refine whenRunning_next ?_
    try dsimp only
    repeat' split
    all_goals exact ⟨_, rfl⟩
  case qtailWrite q v =>
    show ∃ t, execQtailWrite q v s = .next t
    unfold execQtailWrite
    try refine whenRunning_next ?_
    try dsimp only
    repeat' split
    all_goals exact ⟨_, rfl⟩
  case queueEnable q v =>
    show ∃ t, execQueueEnable q v s = .next t
    unfold execQueueEnable
    try refine whenRunning_next ?_
    try dsimp only
    repeat' split
    all_goals exact ⟨_, rfl⟩
  case queueDisable q v =>
    show ∃ t, execQueueDisable q v s = .next t
    unfold execQueueDisable
    try refine whenRunning_next ?_
    try dsimp only
    repeat' split
    all_goals exact ⟨_, rfl⟩
  case qcfgErrClear q v =>
    show ∃ t, execQcfgErrClear q v s = .next t
    unfold execQcfgErrClear
    try refine whenRunning_next ?_
    try dsimp only
    repeat' split
    all_goals exact ⟨_, rfl⟩
  case registerWrite link off size v =>
    show ∃ t, execRegisterWrite link off size v s = .next t
    unfold execRegisterWrite
    try refine whenRunning_next ?_
    try dsimp only
    repeat' split
    all_goals exact ⟨_, rfl⟩
  case recordFetch x =>
    show ∃ t, execRecordFetch x s = .next t
    unfold execRecordFetch
    try refine whenRunning_next ?_
    try dsimp only
    repeat' split
    all_goals exact ⟨_, rfl⟩
  case dzitumTranslation node code keep =>
    show ∃ t, execDzitumTranslation node code keep s = .next t
    unfold execDzitumTranslation
    try refine whenRunning_next ?_
    try dsimp only
    repeat' split
    all_goals exact ⟨_, rfl⟩
  case nodeAdmission node =>
    show ∃ t, execNodeAdmission node s = .next t
    unfold execNodeAdmission
    try refine whenRunning_next ?_
    try dsimp only
    repeat' split
    all_goals exact ⟨_, rfl⟩
  case teamLaunch node cores areas =>
    show ∃ t, execTeamLaunch node cores areas s = .next t
    unfold execTeamLaunch
    try refine whenRunning_next ?_
    try dsimp only
    repeat' split
    all_goals exact ⟨_, rfl⟩
  case nodeCompletion node =>
    show ∃ t, execNodeCompletion node s = .next t
    unfold execNodeCompletion
    try refine whenRunning_next ?_
    try dsimp only
    repeat' split
    all_goals exact ⟨_, rfl⟩
  case sliceExpiry team =>
    show ∃ t, execSliceExpiry team s = .next t
    unfold execSliceExpiry
    try refine whenRunning_next ?_
    try dsimp only
    repeat' split
    all_goals exact ⟨_, rfl⟩
  case teamResume team core =>
    show ∃ t, execTeamResume team core s = .next t
    unfold execTeamResume
    try refine whenRunning_next ?_
    try dsimp only
    repeat' split
    all_goals exact ⟨_, rfl⟩
  case stopOrder team =>
    show ∃ t, execStopOrder team s = .next t
    unfold execStopOrder
    try refine whenRunning_next ?_
    try dsimp only
    repeat' split
    all_goals exact ⟨_, rfl⟩
  case engineAcknowledgement team engine =>
    show ∃ t, execEngineAcknowledgement team engine s = .next t
    unfold execEngineAcknowledgement
    try refine whenRunning_next ?_
    try dsimp only
    repeat' split
    all_goals exact ⟨_, rfl⟩
  case eviction team =>
    show ∃ t, execEviction team s = .next t
    unfold execEviction
    try refine whenRunning_next ?_
    try dsimp only
    repeat' split
    all_goals exact ⟨_, rfl⟩
  case queueSwitchOut q =>
    show ∃ t, execQueueSwitchOut q s = .next t
    unfold execQueueSwitchOut
    try refine whenRunning_next ?_
    try dsimp only
    repeat' split
    all_goals exact ⟨_, rfl⟩
  case queueResume q =>
    show ∃ t, execQueueResume q s = .next t
    unfold execQueueResume
    try refine whenRunning_next ?_
    try dsimp only
    repeat' split
    all_goals exact ⟨_, rfl⟩
  case openCommand chan =>
    show ∃ t, execOpenCommand chan s = .next t
    unfold execOpenCommand rowCommand
    try refine whenRunning_next ?_
    try dsimp only
    repeat' split
    all_goals exact ⟨_, rfl⟩
  case readCommand chan =>
    show ∃ t, execReadCommand chan s = .next t
    unfold execReadCommand rowCommand
    try refine whenRunning_next ?_
    try dsimp only
    repeat' split
    all_goals exact ⟨_, rfl⟩
  case wbackCommand chan =>
    show ∃ t, execWbackCommand chan s = .next t
    unfold execWbackCommand rowCommand
    try refine whenRunning_next ?_
    try dsimp only
    repeat' split
    all_goals exact ⟨_, rfl⟩
  case closeCommand chan =>
    show ∃ t, execCloseCommand chan s = .next t
    unfold execCloseCommand rowCommand
    try refine whenRunning_next ?_
    try dsimp only
    repeat' split
    all_goals exact ⟨_, rfl⟩
  case arbitrationWindow chan =>
    show ∃ t, execArbitrationWindow chan s = .next t
    unfold execArbitrationWindow
    try refine whenRunning_next ?_
    try dsimp only
    repeat' split
    all_goals exact ⟨_, rfl⟩
  case windowExpiry chan =>
    show ∃ t, execWindowExpiry chan s = .next t
    unfold execWindowExpiry
    try refine whenRunning_next ?_
    try dsimp only
    repeat' split
    all_goals exact ⟨_, rfl⟩
  case drayKernelEnd chan =>
    show ∃ t, execDrayKernelEnd chan s = .next t
    unfold execDrayKernelEnd
    try refine whenRunning_next ?_
    try dsimp only
    repeat' split
    all_goals exact ⟨_, rfl⟩
  case reductionPacket oid pa fmt op elems =>
    show ∃ t, execReductionPacket oid pa fmt op elems s = .next t
    unfold execReductionPacket
    try refine whenRunning_next ?_
    try dsimp only
    repeat' split
    all_goals exact ⟨_, rfl⟩
  case clockRatioChange stack num den =>
    show ∃ t, execClockRatioChange stack num den s = .next t
    unfold execClockRatioChange
    try refine whenRunning_next ?_
    try dsimp only
    repeat' split
    all_goals exact ⟨_, rfl⟩
  case shoot oid vpn =>
    show ∃ t, execShoot oid vpn s = .next t
    unfold execShoot
    try refine whenRunning_next ?_
    try dsimp only
    repeat' split
    all_goals exact ⟨_, rfl⟩
  case reptok oid token =>
    show ∃ t, execReptok oid token s = .next t
    unfold execReptok
    try refine whenRunning_next ?_
    try dsimp only
    repeat' split
    all_goals exact ⟨_, rfl⟩
  case pwrcapWrite watts caps =>
    show ∃ t, execPwrcapWrite watts caps s = .next t
    unfold execPwrcapWrite
    try refine whenRunning_next ?_
    try dsimp only
    repeat' split
    all_goals exact ⟨_, rfl⟩
  case apctlErrClear =>
    show ∃ t, execApctlErrClear s = .next t
    unfold execApctlErrClear
    try refine whenRunning_next ?_
    try dsimp only
    repeat' split
    all_goals exact ⟨_, rfl⟩
  case apertureAccess store off size v =>
    show ∃ t, execApertureAccess store off size v s = .next t
    unfold execApertureAccess
    try refine whenRunning_next ?_
    try dsimp only
    repeat' split
    all_goals exact ⟨_, rfl⟩
  case fabricRequest req =>
    show ∃ t, execFabricRequest req s = .next t
    unfold execFabricRequest
    try refine whenRunning_next ?_
    try dsimp only
    repeat' split
    all_goals exact ⟨_, rfl⟩
  case ucieRetrain m trained =>
    show ∃ t, execUcieRetrain m trained s = .next t
    unfold execUcieRetrain
    try refine whenRunning_next ?_
    try dsimp only
    repeat' split
    all_goals exact ⟨_, rfl⟩
  case laneRetrain lane =>
    show ∃ t, execLaneRetrain lane s = .next t
    unfold execLaneRetrain
    try refine whenPowered_next ?_
    try dsimp only
    repeat' split
    all_goals exact ⟨_, rfl⟩
  case softError region corrected node =>
    show ∃ t, execSoftError region corrected node s = .next t
    unfold execSoftError
    try refine whenPowered_next ?_
    try dsimp only
    repeat' split
    all_goals exact ⟨_, rfl⟩
  case powerOn =>
    show ∃ t, execPowerOn s = .next t
    unfold execPowerOn
    try refine whenRunning_next ?_
    try dsimp only
    repeat' split
    all_goals exact ⟨_, rfl⟩
  case attest =>
    show ∃ t, execAttest s = .next t
    unfold execAttest command
    try refine whenRunning_next ?_
    try dsimp only
    repeat' split
    all_goals exact ⟨_, rfl⟩
  case getek =>
    show ∃ t, execGetek s = .next t
    unfold execGetek command
    try refine whenRunning_next ?_
    try dsimp only
    repeat' split
    all_goals exact ⟨_, rfl⟩
  case loadkey =>
    show ∃ t, execLoadkey s = .next t
    unfold execLoadkey command
    try refine whenRunning_next ?_
    try dsimp only
    repeat' split
    all_goals exact ⟨_, rfl⟩
  case withdraw =>
    show ∃ t, execWithdraw s = .next t
    unfold execWithdraw command
    try refine whenRunning_next ?_
    try dsimp only
    repeat' split
    all_goals exact ⟨_, rfl⟩
  case trip =>
    show ∃ t, execTrip s = .next t
    unfold execTrip
    try refine whenRunning_next ?_
    try dsimp only
    repeat' split
    all_goals exact ⟨_, rfl⟩
  case lifetimeLogWrite =>
    show ∃ t, execLifetimeLogWrite s = .next t
    unfold execLifetimeLogWrite
    try refine whenRunning_next ?_
    try dsimp only
    repeat' split
    all_goals exact ⟨_, rfl⟩
  case heldTranslationRelease swap =>
    show ∃ t, execHeldTranslationRelease swap s = .next t
    unfold execHeldTranslationRelease
    try refine whenRunning_next ?_
    try dsimp only
    repeat' split
    all_goals exact ⟨_, rfl⟩
  case granuleAssignment granule oid =>
    show ∃ t, execGranuleAssignment granule oid s = .next t
    unfold execGranuleAssignment
    try refine whenRunning_next ?_
    try dsimp only
    repeat' split
    all_goals exact ⟨_, rfl⟩
  case translationRootWrite oid pa =>
    show ∃ t, execTranslationRootWrite oid pa s = .next t
    unfold execTranslationRootWrite
    try refine whenRunning_next ?_
    try dsimp only
    repeat' split
    all_goals exact ⟨_, rfl⟩
  case queueOidPmaxSet q oid pmax =>
    show ∃ t, execQueueOidPmaxSet q oid pmax s = .next t
    unfold execQueueOidPmaxSet
    try refine whenRunning_next ?_
    try dsimp only
    repeat' split
    all_goals exact ⟨_, rfl⟩
  case fabricRelayRequest r =>
    show ∃ t, execFabricRelayRequest r s = .next t
    unfold execFabricRelayRequest
    try refine whenRunning_next ?_
    try dsimp only
    repeat' split
    all_goals exact ⟨_, rfl⟩
  case handlerImageLoad oid vbase len pool =>
    show ∃ t, execHandlerImageLoad oid vbase len pool s = .next t
    unfold execHandlerImageLoad
    try refine whenRunning_next ?_
    try dsimp only
    repeat' split
    all_goals exact ⟨_, rfl⟩
  case powerLoss =>
    show ∃ t, execPowerLoss s = .next t
    unfold execPowerLoss
    try refine whenRunning_next ?_
    try dsimp only
    repeat' split
    all_goals exact ⟨_, rfl⟩
  case droopEvent mv =>
    show ∃ t, execDroopEvent mv s = .next t
    unfold execDroopEvent
    try refine whenPowered_next ?_
    try dsimp only
    repeat' split
    all_goals exact ⟨_, rfl⟩
  all_goals exact Bool.noConfusion (show false = true from hn)

end Sys2Proof.Machine
end

