-- ==== Sys2Proof/Laws/Memory.lean ====
section
/-!
SUPPORT. Every memory operation keeps the canonical form of storage, and a byte written reads back.
-/

namespace Sys2Proof.Machine

theorem Storage.wf_iff {m : Storage} : m.wf = true ↔
    Cells.rising m.bytes = true ∧ Cells.wf 0 m.owner = true ∧ Cells.wf 0 m.stamp = true := by
  simp [Storage.wf, Bool.and_eq_true, and_assoc]

/-- A change that keeps a property, made for each member of a list, keeps it. -/
theorem foldl_keeps {α β : Type} (P : α → Prop) (f : α → β → α) (h : ∀ a b, P a → P (f a b)) (l : List β) (a : α) (ha : P a) :
    P (l.foldl f a) := by
  induction l generalizing a with
  | nil => exact ha
  | cons b r ih => exact ih _ (h a b ha)

theorem State.wf_refilled {s : State} (key a : Nat) (h : s.mem.wf = true) : (s.refilled key a).wf = true := by
  unfold State.refilled
  dsimp only
  split
  · exact h
  · rw [Storage.wf_iff] at h ⊢
    generalize List.range 32 = l
    refine ⟨?_, h.2.1, ?_⟩
    · exact foldl_keeps (fun c : Cells Byte => Cells.rising c = true) _ (fun _ _ hc => Cells.rising_put _ _ hc) l _ h.1
    · exact foldl_keeps (fun c : Cells Nat => Cells.wf 0 c = true) _ (fun _ _ hc => Cells.wf_set _ _ hc) l _ h.2.2

theorem Storage.wf_restamp {m : Storage} (a n x : Nat) (h : m.wf = true) : (m.restamp a n x).wf = true := by
  rw [Storage.wf_iff] at h ⊢
  exact ⟨h.1, h.2.1, foldl_keeps (fun c : Cells Nat => Cells.wf 0 c = true) _ (fun _ _ hc => Cells.wf_set _ _ hc) _ _ h.2.2⟩

theorem Storage.wf_write {m : Storage} (key a : Nat) (b : Byte) (h : m.wf = true) : (m.write key a b).wf = true := by
  rw [Storage.wf_iff] at h ⊢
  exact ⟨Cells.rising_put a b h.1, Cells.wf_set (a / 32) key h.2.1, Cells.wf_set a (m.writes + 1) h.2.2⟩

/-! ### Pages that move -/

theorem rising_moved {α : Type} (old new : Nat) (l : List (Nat × α)) :
    ∀ c : Cells α, Cells.rising c = true →
      Cells.rising (l.foldl (fun m p => Cells.put m (new + (p.1 - old)) p.2) c) = true := by
  induction l with
  | nil => intro c h; exact h
  | cons p r ih => intro c h; exact ih _ (Cells.rising_put _ _ h)

theorem rising_moveCells {α : Type} {c : Cells α} (old new size : Nat) (h : Cells.rising c = true) :
    Cells.rising (moveCells c old new size) = true := rising_moved _ _ _ _ (Cells.rising_filter _ h)

theorem wf_moved {α : Type} [DecidableEq α] {d : α} (old new : Nat) (l : List (Nat × α)) (hl : ∀ p ∈ l, p.2 ≠ d) :
    ∀ c : Cells α, Cells.wf d c = true →
      Cells.wf d (l.foldl (fun m p => Cells.put m (new + (p.1 - old)) p.2) c) = true := by
  induction l with
  | nil => intro c h; exact h
  | cons p r ih =>
    intro c h
    exact ih (fun q hq => hl q (List.mem_cons_of_mem _ hq)) _ (Cells.wf_put _ (hl p (List.mem_cons_self ..)) h)

theorem wf_moveCells {α : Type} [DecidableEq α] {d : α} {c : Cells α} (old new size : Nat) (h : Cells.wf d c = true) :
    Cells.wf d (moveCells c old new size) = true :=
  wf_moved _ _ _ (fun p hp => (Cells.wf_iff.mp h).2 p (List.mem_filter.mp hp).1) _ (Cells.wf_filter _ h)

theorem Storage.wf_movePage {m : Storage} (old new size : Nat) (h : m.wf = true) : (m.movePage old new size).wf = true := by
  rw [Storage.wf_iff] at h ⊢
  exact ⟨rising_moveCells _ _ _ h.1, wf_moveCells _ _ _ h.2.1, wf_moveCells _ _ _ h.2.2⟩

/-! ### Writes of the machine -/

theorem State.wf_writeLoc {s : State} (oid : Nat) (l : Loc) (b : Byte) (h : Memory.wf s) : Memory.wf (s.writeLoc oid l b) := by
  cases l
  · exact h
  · exact h
  · exact Storage.wf_write _ _ _ (State.wf_refilled _ _ h)

theorem State.wf_writeLocs {oid : Nat} : ∀ {bs : List Byte} {s : State} (l : Loc), Memory.wf s → Memory.wf (s.writeLocs oid l bs)
  | [], _, _, h => h
  | _ :: _, _, l, h => State.wf_writeLocs (l.plus 1) (State.wf_writeLoc oid l _ h)

theorem State.wf_writePieces {oid : Nat} {ps : List Piece} :
    ∀ {bs : List Byte} {s : State} (k : Nat), Memory.wf s → Memory.wf (s.writePieces oid ps k bs)
  | [], _, _, h => h
  | b :: r, s, k, h => by
    unfold State.writePieces
    apply State.wf_writePieces
    split
    · exact State.wf_writeLoc oid _ _ h
    · exact h

theorem reset_memory_wf : Memory.wf State.reset := rfl

/-! ### Reading back -/

theorem State.readSto_writeSto_self {s : State} (oid a : Nat) (b : Byte) (h : Memory.wf s) :
    (s.writeSto oid a b).readSto oid a = b := by
  have ho := (Cells.wf_iff.mp (Storage.wf_iff.mp (State.wf_refilled (s.keyOf oid) a h)).2.1).1
  have e1 : Cells.find (s.writeSto oid a b).mem.bytes a = some b := Cells.find_put_self _ a b
  have e2 : Cells.get 0 (s.writeSto oid a b).mem.owner (a / 32) = (s.writeSto oid a b).keyOf oid :=
    Cells.get_set_self 0 (a / 32) (s.keyOf oid) ho
  unfold State.readSto
  rw [e1]
  exact if_pos (by rw [e2]; simp)

end Sys2Proof.Machine
end

