-- ==== Sys2Proof/Laws/Order.lean ====
section
/-!
SUPPORT. Sets of writes as ranges: what `Known.add` and `Known.join` hold, and that they keep ranges non-empty.
-/

namespace Sys2Proof.Machine

/-- Every range of a set has a member. -/
def Known.Ranges (k : Known) : Prop := ∀ r ∈ k, r.1 ≤ r.2

theorem Known.ranges_add {k : Known} {lo hi : Nat} (hk : Known.Ranges k) (h : lo ≤ hi) : Known.Ranges (Known.add k lo hi) := by
  induction k generalizing lo hi with
  | nil => intro r hr; rw [List.mem_singleton.mp hr]; exact h
  | cons x r ih =>
    have hx : x.1 ≤ x.2 := hk x (List.mem_cons_self ..)
    have hr : Known.Ranges r := fun y hy => hk y (List.mem_cons_of_mem _ hy)
    unfold Known.add
    split
    · intro y hy
      rcases List.mem_cons.mp hy with rfl | hy
      · exact h
      · exact hk y hy
    · split
      · intro y hy
        rcases List.mem_cons.mp hy with rfl | hy
        · exact hx
        · exact ih hr h y hy
      · exact ih hr (by omega)

/-- A set with more writes holds those and what it held. -/
theorem Known.has_add {k : Known} {lo hi n : Nat} (hk : Known.Ranges k) (h : lo ≤ hi) :
    Known.has (Known.add k lo hi) n = true ↔ Known.has k n = true ∨ (lo ≤ n ∧ n ≤ hi) := by
  induction k generalizing lo hi with
  | nil => simp [Known.add, Known.has]
  | cons x r ih =>
    have hx : x.1 ≤ x.2 := hk x (List.mem_cons_self ..)
    have hr : Known.Ranges r := fun y hy => hk y (List.mem_cons_of_mem _ hy)
    have hc (y : Nat × Nat) (l : Known) : Known.has (y :: l) n = true ↔ (y.1 ≤ n ∧ n ≤ y.2) ∨ Known.has l n = true := by
      simp [Known.has]
    unfold Known.add
    split
    · rw [hc]; exact Or.comm
    · split
      · rw [hc, ih hr h, hc]; exact or_assoc.symm
      · rw [ih hr (by omega), hc]
        constructor
        · rintro (h1 | h1)
          · exact .inl (.inr h1)
          · by_cases hn : lo ≤ n ∧ n ≤ hi
            · exact .inr hn
            · exact .inl (.inl (by omega))
        · rintro ((h1 | h1) | h1)
          · exact .inr (by omega)
          · exact .inl h1
          · exact .inr (by omega)

/-- A union holds what either set holds. -/
theorem Known.has_join {a b : Known} {n : Nat} (ha : Known.Ranges a) (hb : Known.Ranges b) :
    Known.has (Known.join a b) n = true ↔ Known.has a n = true ∨ Known.has b n = true := by
  unfold Known.join
  induction b generalizing a with
  | nil => simp [Known.has]
  | cons x r ih =>
    have hx : x.1 ≤ x.2 := hb x (List.mem_cons_self ..)
    rw [List.foldl_cons, ih (Known.ranges_add ha hx) fun y hy => hb y (List.mem_cons_of_mem _ hy), Known.has_add ha hx]
    simp [Known.has, or_assoc]

/-- A write that releases nothing leaves no mark. -/
@[simp] theorem State.post_nil (s : State) (l : Loc) (n : Nat) : s.post l n [] = s := rfl

/-- Where nothing has been released, nothing is read or overwritten of it. -/
@[simp] theorem State.postsAt_nil {s : State} (l : Loc) (n : Nat) (h : s.posts = []) : s.postsAt l n = [] := by
  simp [State.postsAt, h]

end Sys2Proof.Machine
end

