-- ==== Sys2Proof/Laws/State.lean ====
section
/-!
SUPPORT. The fields of the state after each named update: the field that the update writes has the value given, every other
field is as before.
-/

namespace Sys2Proof.Machine

variable (s : State)

/-! ### State.setTeam -/

@[simp] theorem State.setTeam_tick (k : Nat) (t : Team) : (s.setTeam k t).tick = s.tick := rfl
@[simp] theorem State.setTeam_due (k : Nat) (t : Team) : (s.setTeam k t).due = s.due := rfl
@[simp] theorem State.setTeam_now (k : Nat) (t : Team) : (s.setTeam k t).now = s.now := rfl
@[simp] theorem State.setTeam_cur (k : Nat) (t : Team) : (s.setTeam k t).cur = s.cur := rfl
@[simp] theorem State.setTeam_curSub (k : Nat) (t : Team) : (s.setTeam k t).curSub = s.curSub := rfl
@[simp] theorem State.setTeam_mode (k : Nat) (t : Team) : (s.setTeam k t).mode = s.mode := rfl
@[simp] theorem State.setTeam_slot (k : Nat) (t : Team) : (s.setTeam k t).slot = s.slot := rfl
@[simp] theorem State.setTeam_epochs (k : Nat) (t : Team) : (s.setTeam k t).epochs = s.epochs := rfl
@[simp] theorem State.setTeam_keys (k : Nat) (t : Team) : (s.setTeam k t).keys = s.keys := rfl
@[simp] theorem State.setTeam_keyBits (k : Nat) (t : Team) : (s.setTeam k t).keyBits = s.keyBits := rfl
@[simp] theorem State.setTeam_roots (k : Nat) (t : Team) : (s.setTeam k t).roots = s.roots := rfl
@[simp] theorem State.setTeam_granules (k : Nat) (t : Team) : (s.setTeam k t).granules = s.granules := rfl
@[simp] theorem State.setTeam_images (k : Nat) (t : Team) : (s.setTeam k t).images = s.images := rfl
@[simp] theorem State.setTeam_mem (k : Nat) (t : Team) : (s.setTeam k t).mem = s.mem := rfl
@[simp] theorem State.setTeam_tlb (k : Nat) (t : Team) : (s.setTeam k t).tlb = s.tlb := rfl
@[simp] theorem State.setTeam_swaps (k : Nat) (t : Team) : (s.setTeam k t).swaps = s.swaps := rfl
@[simp] theorem State.setTeam_calendar (k : Nat) (t : Team) : (s.setTeam k t).calendar = s.calendar := rfl
@[simp] theorem State.setTeam_capacity (k : Nat) (t : Team) : (s.setTeam k t).capacity = s.capacity := rfl
@[simp] theorem State.setTeam_ratios (k : Nat) (t : Team) : (s.setTeam k t).ratios = s.ratios := rfl
@[simp] theorem State.setTeam_ratioNext (k : Nat) (t : Team) : (s.setTeam k t).ratioNext = s.ratioNext := rfl
@[simp] theorem State.setTeam_arrivals (k : Nat) (t : Team) : (s.setTeam k t).arrivals = s.arrivals := rfl
@[simp] theorem State.setTeam_waits (k : Nat) (t : Team) : (s.setTeam k t).waits = s.waits := rfl
@[simp] theorem State.setTeam_queues (k : Nat) (t : Team) : (s.setTeam k t).queues = s.queues := rfl
@[simp] theorem State.setTeam_turn (k : Nat) (t : Team) : (s.setTeam k t).turn = s.turn := rfl
@[simp] theorem State.setTeam_nodes (k : Nat) (t : Team) : (s.setTeam k t).nodes = s.nodes := rfl
@[simp] theorem State.setTeam_translations (k : Nat) (t : Team) : (s.setTeam k t).translations = s.translations := rfl
@[simp] theorem State.setTeam_teams (k : Nat) (t : Team) : (s.setTeam k t).teams =
    Cells.put s.teams k t := rfl
@[simp] theorem State.setTeam_requests (k : Nat) (t : Team) : (s.setTeam k t).requests = s.requests := rfl
@[simp] theorem State.setTeam_jobs (k : Nat) (t : Team) : (s.setTeam k t).jobs = s.jobs := rfl
@[simp] theorem State.setTeam_executors (k : Nat) (t : Team) : (s.setTeam k t).executors = s.executors := rfl
@[simp] theorem State.setTeam_calls (k : Nat) (t : Team) : (s.setTeam k t).calls = s.calls := rfl
@[simp] theorem State.setTeam_drays (k : Nat) (t : Team) : (s.setTeam k t).drays = s.drays := rfl
@[simp] theorem State.setTeam_halves (k : Nat) (t : Team) : (s.setTeam k t).halves = s.halves := rfl
@[simp] theorem State.setTeam_stable (k : Nat) (t : Team) : (s.setTeam k t).stable = s.stable := rfl
@[simp] theorem State.setTeam_posts (k : Nat) (t : Team) : (s.setTeam k t).posts = s.posts := rfl
@[simp] theorem State.setTeam_ran (k : Nat) (t : Team) : (s.setTeam k t).ran = s.ran := rfl
@[simp] theorem State.setTeam_fresh (k : Nat) (t : Team) : (s.setTeam k t).fresh = s.fresh := rfl
@[simp] theorem State.setTeam_mgmt (k : Nat) (t : Team) : (s.setTeam k t).mgmt = s.mgmt := rfl
@[simp] theorem State.setTeam_mailbox (k : Nat) (t : Team) : (s.setTeam k t).mailbox = s.mailbox := rfl
@[simp] theorem State.setTeam_meas (k : Nat) (t : Team) : (s.setTeam k t).meas = s.meas := rfl
@[simp] theorem State.setTeam_found (k : Nat) (t : Team) : (s.setTeam k t).found = s.found := rfl
@[simp] theorem State.setTeam_ucie (k : Nat) (t : Team) : (s.setTeam k t).ucie = s.ucie := rfl
@[simp] theorem State.setTeam_fabricOn (k : Nat) (t : Team) : (s.setTeam k t).fabricOn = s.fabricOn := rfl
@[simp] theorem State.setTeam_life (k : Nat) (t : Team) : (s.setTeam k t).life = s.life := rfl
@[simp] theorem State.setTeam_lifeMram (k : Nat) (t : Team) : (s.setTeam k t).lifeMram = s.lifeMram := rfl
@[simp] theorem State.setTeam_relayed (k : Nat) (t : Team) : (s.setTeam k t).relayed = s.relayed := rfl
@[simp] theorem State.setTeam_relaySeq (k : Nat) (t : Team) : (s.setTeam k t).relaySeq = s.relaySeq := rfl
@[simp] theorem State.setTeam_peerHint (k : Nat) (t : Team) : (s.setTeam k t).peerHint = s.peerHint := rfl
@[simp] theorem State.setTeam_relayHint (k : Nat) (t : Team) : (s.setTeam k t).relayHint = s.relayHint := rfl

/-! ### State.modCoach -/

@[simp] theorem State.modCoach_tick (k ci : Nat) (f : Coach → Coach) : (s.modCoach k ci f).tick = s.tick := rfl
@[simp] theorem State.modCoach_due (k ci : Nat) (f : Coach → Coach) : (s.modCoach k ci f).due = s.due := rfl
@[simp] theorem State.modCoach_now (k ci : Nat) (f : Coach → Coach) : (s.modCoach k ci f).now = s.now := rfl
@[simp] theorem State.modCoach_cur (k ci : Nat) (f : Coach → Coach) : (s.modCoach k ci f).cur = s.cur := rfl
@[simp] theorem State.modCoach_curSub (k ci : Nat) (f : Coach → Coach) : (s.modCoach k ci f).curSub = s.curSub := rfl
@[simp] theorem State.modCoach_mode (k ci : Nat) (f : Coach → Coach) : (s.modCoach k ci f).mode = s.mode := rfl
@[simp] theorem State.modCoach_slot (k ci : Nat) (f : Coach → Coach) : (s.modCoach k ci f).slot = s.slot := rfl
@[simp] theorem State.modCoach_epochs (k ci : Nat) (f : Coach → Coach) : (s.modCoach k ci f).epochs = s.epochs := rfl
@[simp] theorem State.modCoach_keys (k ci : Nat) (f : Coach → Coach) : (s.modCoach k ci f).keys = s.keys := rfl
@[simp] theorem State.modCoach_keyBits (k ci : Nat) (f : Coach → Coach) : (s.modCoach k ci f).keyBits = s.keyBits := rfl
@[simp] theorem State.modCoach_roots (k ci : Nat) (f : Coach → Coach) : (s.modCoach k ci f).roots = s.roots := rfl
@[simp] theorem State.modCoach_granules (k ci : Nat) (f : Coach → Coach) : (s.modCoach k ci f).granules = s.granules := rfl
@[simp] theorem State.modCoach_images (k ci : Nat) (f : Coach → Coach) : (s.modCoach k ci f).images = s.images := rfl
@[simp] theorem State.modCoach_mem (k ci : Nat) (f : Coach → Coach) : (s.modCoach k ci f).mem = s.mem := rfl
@[simp] theorem State.modCoach_tlb (k ci : Nat) (f : Coach → Coach) : (s.modCoach k ci f).tlb = s.tlb := rfl
@[simp] theorem State.modCoach_swaps (k ci : Nat) (f : Coach → Coach) : (s.modCoach k ci f).swaps = s.swaps := rfl
@[simp] theorem State.modCoach_calendar (k ci : Nat) (f : Coach → Coach) : (s.modCoach k ci f).calendar = s.calendar := rfl
@[simp] theorem State.modCoach_capacity (k ci : Nat) (f : Coach → Coach) : (s.modCoach k ci f).capacity = s.capacity := rfl
@[simp] theorem State.modCoach_ratios (k ci : Nat) (f : Coach → Coach) : (s.modCoach k ci f).ratios = s.ratios := rfl
@[simp] theorem State.modCoach_ratioNext (k ci : Nat) (f : Coach → Coach) : (s.modCoach k ci f).ratioNext = s.ratioNext := rfl
@[simp] theorem State.modCoach_arrivals (k ci : Nat) (f : Coach → Coach) : (s.modCoach k ci f).arrivals = s.arrivals := rfl
@[simp] theorem State.modCoach_waits (k ci : Nat) (f : Coach → Coach) : (s.modCoach k ci f).waits = s.waits := rfl
@[simp] theorem State.modCoach_queues (k ci : Nat) (f : Coach → Coach) : (s.modCoach k ci f).queues = s.queues := rfl
@[simp] theorem State.modCoach_turn (k ci : Nat) (f : Coach → Coach) : (s.modCoach k ci f).turn = s.turn := rfl
@[simp] theorem State.modCoach_nodes (k ci : Nat) (f : Coach → Coach) : (s.modCoach k ci f).nodes = s.nodes := rfl
@[simp] theorem State.modCoach_translations (k ci : Nat) (f : Coach → Coach) : (s.modCoach k ci f).translations = s.translations := rfl
@[simp] theorem State.modCoach_teams (k ci : Nat) (f : Coach → Coach) : (s.modCoach k ci f).teams =
    Cells.modify s.teams k fun t => { t with coaches := t.coaches.modify ci f } := rfl
@[simp] theorem State.modCoach_requests (k ci : Nat) (f : Coach → Coach) : (s.modCoach k ci f).requests = s.requests := rfl
@[simp] theorem State.modCoach_jobs (k ci : Nat) (f : Coach → Coach) : (s.modCoach k ci f).jobs = s.jobs := rfl
@[simp] theorem State.modCoach_executors (k ci : Nat) (f : Coach → Coach) : (s.modCoach k ci f).executors = s.executors := rfl
@[simp] theorem State.modCoach_calls (k ci : Nat) (f : Coach → Coach) : (s.modCoach k ci f).calls = s.calls := rfl
@[simp] theorem State.modCoach_drays (k ci : Nat) (f : Coach → Coach) : (s.modCoach k ci f).drays = s.drays := rfl
@[simp] theorem State.modCoach_halves (k ci : Nat) (f : Coach → Coach) : (s.modCoach k ci f).halves = s.halves := rfl
@[simp] theorem State.modCoach_stable (k ci : Nat) (f : Coach → Coach) : (s.modCoach k ci f).stable = s.stable := rfl
@[simp] theorem State.modCoach_posts (k ci : Nat) (f : Coach → Coach) : (s.modCoach k ci f).posts = s.posts := rfl
@[simp] theorem State.modCoach_ran (k ci : Nat) (f : Coach → Coach) : (s.modCoach k ci f).ran = s.ran := rfl
@[simp] theorem State.modCoach_fresh (k ci : Nat) (f : Coach → Coach) : (s.modCoach k ci f).fresh = s.fresh := rfl
@[simp] theorem State.modCoach_mgmt (k ci : Nat) (f : Coach → Coach) : (s.modCoach k ci f).mgmt = s.mgmt := rfl
@[simp] theorem State.modCoach_mailbox (k ci : Nat) (f : Coach → Coach) : (s.modCoach k ci f).mailbox = s.mailbox := rfl
@[simp] theorem State.modCoach_meas (k ci : Nat) (f : Coach → Coach) : (s.modCoach k ci f).meas = s.meas := rfl
@[simp] theorem State.modCoach_found (k ci : Nat) (f : Coach → Coach) : (s.modCoach k ci f).found = s.found := rfl
@[simp] theorem State.modCoach_ucie (k ci : Nat) (f : Coach → Coach) : (s.modCoach k ci f).ucie = s.ucie := rfl
@[simp] theorem State.modCoach_fabricOn (k ci : Nat) (f : Coach → Coach) : (s.modCoach k ci f).fabricOn = s.fabricOn := rfl
@[simp] theorem State.modCoach_life (k ci : Nat) (f : Coach → Coach) : (s.modCoach k ci f).life = s.life := rfl
@[simp] theorem State.modCoach_lifeMram (k ci : Nat) (f : Coach → Coach) : (s.modCoach k ci f).lifeMram = s.lifeMram := rfl
@[simp] theorem State.modCoach_relayed (k ci : Nat) (f : Coach → Coach) : (s.modCoach k ci f).relayed = s.relayed := rfl
@[simp] theorem State.modCoach_relaySeq (k ci : Nat) (f : Coach → Coach) : (s.modCoach k ci f).relaySeq = s.relaySeq := rfl
@[simp] theorem State.modCoach_peerHint (k ci : Nat) (f : Coach → Coach) : (s.modCoach k ci f).peerHint = s.peerHint := rfl
@[simp] theorem State.modCoach_relayHint (k ci : Nat) (f : Coach → Coach) : (s.modCoach k ci f).relayHint = s.relayHint := rfl

/-! ### State.releaseBarrier -/

@[simp] theorem State.releaseBarrier_tick (k b : Nat) : (s.releaseBarrier k b).tick = s.tick := rfl
@[simp] theorem State.releaseBarrier_due (k b : Nat) : (s.releaseBarrier k b).due = s.due := rfl
@[simp] theorem State.releaseBarrier_now (k b : Nat) : (s.releaseBarrier k b).now = s.now := rfl
@[simp] theorem State.releaseBarrier_cur (k b : Nat) : (s.releaseBarrier k b).cur = s.cur := rfl
@[simp] theorem State.releaseBarrier_curSub (k b : Nat) : (s.releaseBarrier k b).curSub = s.curSub := rfl
@[simp] theorem State.releaseBarrier_mode (k b : Nat) : (s.releaseBarrier k b).mode = s.mode := rfl
@[simp] theorem State.releaseBarrier_slot (k b : Nat) : (s.releaseBarrier k b).slot = s.slot := rfl
@[simp] theorem State.releaseBarrier_epochs (k b : Nat) : (s.releaseBarrier k b).epochs = s.epochs := rfl
@[simp] theorem State.releaseBarrier_keys (k b : Nat) : (s.releaseBarrier k b).keys = s.keys := rfl
@[simp] theorem State.releaseBarrier_keyBits (k b : Nat) : (s.releaseBarrier k b).keyBits = s.keyBits := rfl
@[simp] theorem State.releaseBarrier_roots (k b : Nat) : (s.releaseBarrier k b).roots = s.roots := rfl
@[simp] theorem State.releaseBarrier_granules (k b : Nat) : (s.releaseBarrier k b).granules = s.granules := rfl
@[simp] theorem State.releaseBarrier_images (k b : Nat) : (s.releaseBarrier k b).images = s.images := rfl
@[simp] theorem State.releaseBarrier_mem (k b : Nat) : (s.releaseBarrier k b).mem = s.mem := rfl
@[simp] theorem State.releaseBarrier_tlb (k b : Nat) : (s.releaseBarrier k b).tlb = s.tlb := rfl
@[simp] theorem State.releaseBarrier_swaps (k b : Nat) : (s.releaseBarrier k b).swaps = s.swaps := rfl
@[simp] theorem State.releaseBarrier_calendar (k b : Nat) : (s.releaseBarrier k b).calendar = s.calendar := rfl
@[simp] theorem State.releaseBarrier_capacity (k b : Nat) : (s.releaseBarrier k b).capacity = s.capacity := rfl
@[simp] theorem State.releaseBarrier_ratios (k b : Nat) : (s.releaseBarrier k b).ratios = s.ratios := rfl
@[simp] theorem State.releaseBarrier_ratioNext (k b : Nat) : (s.releaseBarrier k b).ratioNext = s.ratioNext := rfl
@[simp] theorem State.releaseBarrier_arrivals (k b : Nat) : (s.releaseBarrier k b).arrivals = s.arrivals := rfl
@[simp] theorem State.releaseBarrier_waits (k b : Nat) : (s.releaseBarrier k b).waits = s.waits := rfl
@[simp] theorem State.releaseBarrier_queues (k b : Nat) : (s.releaseBarrier k b).queues = s.queues := rfl
@[simp] theorem State.releaseBarrier_turn (k b : Nat) : (s.releaseBarrier k b).turn = s.turn := rfl
@[simp] theorem State.releaseBarrier_nodes (k b : Nat) : (s.releaseBarrier k b).nodes = s.nodes := rfl
@[simp] theorem State.releaseBarrier_translations (k b : Nat) : (s.releaseBarrier k b).translations = s.translations := rfl
@[simp] theorem State.releaseBarrier_teams (k b : Nat) : (s.releaseBarrier k b).teams =
    Cells.modify s.teams k fun t => t.release b := rfl
@[simp] theorem State.releaseBarrier_requests (k b : Nat) : (s.releaseBarrier k b).requests = s.requests := rfl
@[simp] theorem State.releaseBarrier_jobs (k b : Nat) : (s.releaseBarrier k b).jobs = s.jobs := rfl
@[simp] theorem State.releaseBarrier_executors (k b : Nat) : (s.releaseBarrier k b).executors = s.executors := rfl
@[simp] theorem State.releaseBarrier_calls (k b : Nat) : (s.releaseBarrier k b).calls = s.calls := rfl
@[simp] theorem State.releaseBarrier_drays (k b : Nat) : (s.releaseBarrier k b).drays = s.drays := rfl
@[simp] theorem State.releaseBarrier_halves (k b : Nat) : (s.releaseBarrier k b).halves = s.halves := rfl
@[simp] theorem State.releaseBarrier_stable (k b : Nat) : (s.releaseBarrier k b).stable = s.stable := rfl
@[simp] theorem State.releaseBarrier_posts (k b : Nat) : (s.releaseBarrier k b).posts = s.posts := rfl
@[simp] theorem State.releaseBarrier_ran (k b : Nat) : (s.releaseBarrier k b).ran = s.ran := rfl
@[simp] theorem State.releaseBarrier_fresh (k b : Nat) : (s.releaseBarrier k b).fresh = s.fresh := rfl
@[simp] theorem State.releaseBarrier_mgmt (k b : Nat) : (s.releaseBarrier k b).mgmt = s.mgmt := rfl
@[simp] theorem State.releaseBarrier_mailbox (k b : Nat) : (s.releaseBarrier k b).mailbox = s.mailbox := rfl
@[simp] theorem State.releaseBarrier_meas (k b : Nat) : (s.releaseBarrier k b).meas = s.meas := rfl
@[simp] theorem State.releaseBarrier_found (k b : Nat) : (s.releaseBarrier k b).found = s.found := rfl
@[simp] theorem State.releaseBarrier_ucie (k b : Nat) : (s.releaseBarrier k b).ucie = s.ucie := rfl
@[simp] theorem State.releaseBarrier_fabricOn (k b : Nat) : (s.releaseBarrier k b).fabricOn = s.fabricOn := rfl
@[simp] theorem State.releaseBarrier_life (k b : Nat) : (s.releaseBarrier k b).life = s.life := rfl
@[simp] theorem State.releaseBarrier_lifeMram (k b : Nat) : (s.releaseBarrier k b).lifeMram = s.lifeMram := rfl
@[simp] theorem State.releaseBarrier_relayed (k b : Nat) : (s.releaseBarrier k b).relayed = s.relayed := rfl
@[simp] theorem State.releaseBarrier_relaySeq (k b : Nat) : (s.releaseBarrier k b).relaySeq = s.relaySeq := rfl
@[simp] theorem State.releaseBarrier_peerHint (k b : Nat) : (s.releaseBarrier k b).peerHint = s.peerHint := rfl
@[simp] theorem State.releaseBarrier_relayHint (k b : Nat) : (s.releaseBarrier k b).relayHint = s.relayHint := rfl

/-! ### State.modCall -/

@[simp] theorem State.modCall_tick (k : Nat) (f : Call → Call) : (s.modCall k f).tick = s.tick := rfl
@[simp] theorem State.modCall_due (k : Nat) (f : Call → Call) : (s.modCall k f).due = s.due := rfl
@[simp] theorem State.modCall_now (k : Nat) (f : Call → Call) : (s.modCall k f).now = s.now := rfl
@[simp] theorem State.modCall_cur (k : Nat) (f : Call → Call) : (s.modCall k f).cur = s.cur := rfl
@[simp] theorem State.modCall_curSub (k : Nat) (f : Call → Call) : (s.modCall k f).curSub = s.curSub := rfl
@[simp] theorem State.modCall_mode (k : Nat) (f : Call → Call) : (s.modCall k f).mode = s.mode := rfl
@[simp] theorem State.modCall_slot (k : Nat) (f : Call → Call) : (s.modCall k f).slot = s.slot := rfl
@[simp] theorem State.modCall_epochs (k : Nat) (f : Call → Call) : (s.modCall k f).epochs = s.epochs := rfl
@[simp] theorem State.modCall_keys (k : Nat) (f : Call → Call) : (s.modCall k f).keys = s.keys := rfl
@[simp] theorem State.modCall_keyBits (k : Nat) (f : Call → Call) : (s.modCall k f).keyBits = s.keyBits := rfl
@[simp] theorem State.modCall_roots (k : Nat) (f : Call → Call) : (s.modCall k f).roots = s.roots := rfl
@[simp] theorem State.modCall_granules (k : Nat) (f : Call → Call) : (s.modCall k f).granules = s.granules := rfl
@[simp] theorem State.modCall_images (k : Nat) (f : Call → Call) : (s.modCall k f).images = s.images := rfl
@[simp] theorem State.modCall_mem (k : Nat) (f : Call → Call) : (s.modCall k f).mem = s.mem := rfl
@[simp] theorem State.modCall_tlb (k : Nat) (f : Call → Call) : (s.modCall k f).tlb = s.tlb := rfl
@[simp] theorem State.modCall_swaps (k : Nat) (f : Call → Call) : (s.modCall k f).swaps = s.swaps := rfl
@[simp] theorem State.modCall_calendar (k : Nat) (f : Call → Call) : (s.modCall k f).calendar = s.calendar := rfl
@[simp] theorem State.modCall_capacity (k : Nat) (f : Call → Call) : (s.modCall k f).capacity = s.capacity := rfl
@[simp] theorem State.modCall_ratios (k : Nat) (f : Call → Call) : (s.modCall k f).ratios = s.ratios := rfl
@[simp] theorem State.modCall_ratioNext (k : Nat) (f : Call → Call) : (s.modCall k f).ratioNext = s.ratioNext := rfl
@[simp] theorem State.modCall_arrivals (k : Nat) (f : Call → Call) : (s.modCall k f).arrivals = s.arrivals := rfl
@[simp] theorem State.modCall_waits (k : Nat) (f : Call → Call) : (s.modCall k f).waits = s.waits := rfl
@[simp] theorem State.modCall_queues (k : Nat) (f : Call → Call) : (s.modCall k f).queues = s.queues := rfl
@[simp] theorem State.modCall_turn (k : Nat) (f : Call → Call) : (s.modCall k f).turn = s.turn := rfl
@[simp] theorem State.modCall_nodes (k : Nat) (f : Call → Call) : (s.modCall k f).nodes = s.nodes := rfl
@[simp] theorem State.modCall_translations (k : Nat) (f : Call → Call) : (s.modCall k f).translations = s.translations := rfl
@[simp] theorem State.modCall_teams (k : Nat) (f : Call → Call) : (s.modCall k f).teams = s.teams := rfl
@[simp] theorem State.modCall_requests (k : Nat) (f : Call → Call) : (s.modCall k f).requests = s.requests := rfl
@[simp] theorem State.modCall_jobs (k : Nat) (f : Call → Call) : (s.modCall k f).jobs = s.jobs := rfl
@[simp] theorem State.modCall_executors (k : Nat) (f : Call → Call) : (s.modCall k f).executors = s.executors := rfl
@[simp] theorem State.modCall_calls (k : Nat) (f : Call → Call) : (s.modCall k f).calls =
    Cells.modify s.calls k f := rfl
@[simp] theorem State.modCall_drays (k : Nat) (f : Call → Call) : (s.modCall k f).drays = s.drays := rfl
@[simp] theorem State.modCall_halves (k : Nat) (f : Call → Call) : (s.modCall k f).halves = s.halves := rfl
@[simp] theorem State.modCall_stable (k : Nat) (f : Call → Call) : (s.modCall k f).stable = s.stable := rfl
@[simp] theorem State.modCall_posts (k : Nat) (f : Call → Call) : (s.modCall k f).posts = s.posts := rfl
@[simp] theorem State.modCall_ran (k : Nat) (f : Call → Call) : (s.modCall k f).ran = s.ran := rfl
@[simp] theorem State.modCall_fresh (k : Nat) (f : Call → Call) : (s.modCall k f).fresh = s.fresh := rfl
@[simp] theorem State.modCall_mgmt (k : Nat) (f : Call → Call) : (s.modCall k f).mgmt = s.mgmt := rfl
@[simp] theorem State.modCall_mailbox (k : Nat) (f : Call → Call) : (s.modCall k f).mailbox = s.mailbox := rfl
@[simp] theorem State.modCall_meas (k : Nat) (f : Call → Call) : (s.modCall k f).meas = s.meas := rfl
@[simp] theorem State.modCall_found (k : Nat) (f : Call → Call) : (s.modCall k f).found = s.found := rfl
@[simp] theorem State.modCall_ucie (k : Nat) (f : Call → Call) : (s.modCall k f).ucie = s.ucie := rfl
@[simp] theorem State.modCall_fabricOn (k : Nat) (f : Call → Call) : (s.modCall k f).fabricOn = s.fabricOn := rfl
@[simp] theorem State.modCall_life (k : Nat) (f : Call → Call) : (s.modCall k f).life = s.life := rfl
@[simp] theorem State.modCall_lifeMram (k : Nat) (f : Call → Call) : (s.modCall k f).lifeMram = s.lifeMram := rfl
@[simp] theorem State.modCall_relayed (k : Nat) (f : Call → Call) : (s.modCall k f).relayed = s.relayed := rfl
@[simp] theorem State.modCall_relaySeq (k : Nat) (f : Call → Call) : (s.modCall k f).relaySeq = s.relaySeq := rfl
@[simp] theorem State.modCall_peerHint (k : Nat) (f : Call → Call) : (s.modCall k f).peerHint = s.peerHint := rfl
@[simp] theorem State.modCall_relayHint (k : Nat) (f : Call → Call) : (s.modCall k f).relayHint = s.relayHint := rfl

/-! ### State.count -/

@[simp] theorem State.count_tick (k : Nat) : (s.count k).tick = s.tick := rfl
@[simp] theorem State.count_due (k : Nat) : (s.count k).due = s.due := rfl
@[simp] theorem State.count_now (k : Nat) : (s.count k).now = s.now := rfl
@[simp] theorem State.count_cur (k : Nat) : (s.count k).cur = s.cur := rfl
@[simp] theorem State.count_curSub (k : Nat) : (s.count k).curSub = s.curSub := rfl
@[simp] theorem State.count_mode (k : Nat) : (s.count k).mode = s.mode := rfl
@[simp] theorem State.count_slot (k : Nat) : (s.count k).slot = s.slot := rfl
@[simp] theorem State.count_epochs (k : Nat) : (s.count k).epochs = s.epochs := rfl
@[simp] theorem State.count_keys (k : Nat) : (s.count k).keys = s.keys := rfl
@[simp] theorem State.count_keyBits (k : Nat) : (s.count k).keyBits = s.keyBits := rfl
@[simp] theorem State.count_roots (k : Nat) : (s.count k).roots = s.roots := rfl
@[simp] theorem State.count_granules (k : Nat) : (s.count k).granules = s.granules := rfl
@[simp] theorem State.count_images (k : Nat) : (s.count k).images = s.images := rfl
@[simp] theorem State.count_mem (k : Nat) : (s.count k).mem = s.mem := rfl
@[simp] theorem State.count_tlb (k : Nat) : (s.count k).tlb = s.tlb := rfl
@[simp] theorem State.count_swaps (k : Nat) : (s.count k).swaps = s.swaps := rfl
@[simp] theorem State.count_calendar (k : Nat) : (s.count k).calendar = s.calendar := rfl
@[simp] theorem State.count_capacity (k : Nat) : (s.count k).capacity = s.capacity := rfl
@[simp] theorem State.count_ratios (k : Nat) : (s.count k).ratios = s.ratios := rfl
@[simp] theorem State.count_ratioNext (k : Nat) : (s.count k).ratioNext = s.ratioNext := rfl
@[simp] theorem State.count_arrivals (k : Nat) : (s.count k).arrivals = s.arrivals := rfl
@[simp] theorem State.count_waits (k : Nat) : (s.count k).waits = s.waits := rfl
@[simp] theorem State.count_queues (k : Nat) : (s.count k).queues = s.queues := rfl
@[simp] theorem State.count_turn (k : Nat) : (s.count k).turn = s.turn := rfl
@[simp] theorem State.count_nodes (k : Nat) : (s.count k).nodes = s.nodes := rfl
@[simp] theorem State.count_translations (k : Nat) : (s.count k).translations = s.translations := rfl
@[simp] theorem State.count_teams (k : Nat) : (s.count k).teams = s.teams := rfl
@[simp] theorem State.count_requests (k : Nat) : (s.count k).requests = s.requests := rfl
@[simp] theorem State.count_jobs (k : Nat) : (s.count k).jobs = s.jobs := rfl
@[simp] theorem State.count_executors (k : Nat) : (s.count k).executors = s.executors := rfl
@[simp] theorem State.count_calls (k : Nat) : (s.count k).calls = s.calls := rfl
@[simp] theorem State.count_drays (k : Nat) : (s.count k).drays = s.drays := rfl
@[simp] theorem State.count_halves (k : Nat) : (s.count k).halves = s.halves := rfl
@[simp] theorem State.count_stable (k : Nat) : (s.count k).stable = s.stable := rfl
@[simp] theorem State.count_posts (k : Nat) : (s.count k).posts = s.posts := rfl
@[simp] theorem State.count_ran (k : Nat) : (s.count k).ran = s.ran := rfl
@[simp] theorem State.count_fresh (k : Nat) : (s.count k).fresh = s.fresh := rfl
@[simp] theorem State.count_mgmt (k : Nat) : (s.count k).mgmt = s.mgmt := rfl
@[simp] theorem State.count_mailbox (k : Nat) : (s.count k).mailbox = s.mailbox := rfl
@[simp] theorem State.count_meas (k : Nat) : (s.count k).meas = s.meas := rfl
@[simp] theorem State.count_found (k : Nat) : (s.count k).found = s.found := rfl
@[simp] theorem State.count_ucie (k : Nat) : (s.count k).ucie = s.ucie := rfl
@[simp] theorem State.count_fabricOn (k : Nat) : (s.count k).fabricOn = s.fabricOn := rfl
@[simp] theorem State.count_life (k : Nat) : (s.count k).life =
    Cells.set 0 s.life k (min (Cells.get 0 s.life k + 1) (2 ^ 64 - 1)) := rfl
@[simp] theorem State.count_lifeMram (k : Nat) : (s.count k).lifeMram = s.lifeMram := rfl
@[simp] theorem State.count_relayed (k : Nat) : (s.count k).relayed = s.relayed := rfl
@[simp] theorem State.count_relaySeq (k : Nat) : (s.count k).relaySeq = s.relaySeq := rfl
@[simp] theorem State.count_peerHint (k : Nat) : (s.count k).peerHint = s.peerHint := rfl
@[simp] theorem State.count_relayHint (k : Nat) : (s.count k).relayHint = s.relayHint := rfl

/-! ### State.stopNode -/

@[simp] theorem State.stopNode_tick (k code : Nat) : (s.stopNode k code).tick = s.tick := rfl
@[simp] theorem State.stopNode_due (k code : Nat) : (s.stopNode k code).due = s.due := rfl
@[simp] theorem State.stopNode_now (k code : Nat) : (s.stopNode k code).now = s.now := rfl
@[simp] theorem State.stopNode_cur (k code : Nat) : (s.stopNode k code).cur = s.cur := rfl
@[simp] theorem State.stopNode_curSub (k code : Nat) : (s.stopNode k code).curSub = s.curSub := rfl
@[simp] theorem State.stopNode_mode (k code : Nat) : (s.stopNode k code).mode = s.mode := rfl
@[simp] theorem State.stopNode_slot (k code : Nat) : (s.stopNode k code).slot = s.slot := rfl
@[simp] theorem State.stopNode_epochs (k code : Nat) : (s.stopNode k code).epochs = s.epochs := rfl
@[simp] theorem State.stopNode_keys (k code : Nat) : (s.stopNode k code).keys = s.keys := rfl
@[simp] theorem State.stopNode_keyBits (k code : Nat) : (s.stopNode k code).keyBits = s.keyBits := rfl
@[simp] theorem State.stopNode_roots (k code : Nat) : (s.stopNode k code).roots = s.roots := rfl
@[simp] theorem State.stopNode_granules (k code : Nat) : (s.stopNode k code).granules = s.granules := rfl
@[simp] theorem State.stopNode_images (k code : Nat) : (s.stopNode k code).images = s.images := rfl
@[simp] theorem State.stopNode_mem (k code : Nat) : (s.stopNode k code).mem = s.mem := rfl
@[simp] theorem State.stopNode_tlb (k code : Nat) : (s.stopNode k code).tlb = s.tlb := rfl
@[simp] theorem State.stopNode_swaps (k code : Nat) : (s.stopNode k code).swaps = s.swaps := rfl
@[simp] theorem State.stopNode_calendar (k code : Nat) : (s.stopNode k code).calendar = s.calendar := rfl
@[simp] theorem State.stopNode_capacity (k code : Nat) : (s.stopNode k code).capacity = s.capacity := rfl
@[simp] theorem State.stopNode_ratios (k code : Nat) : (s.stopNode k code).ratios = s.ratios := rfl
@[simp] theorem State.stopNode_ratioNext (k code : Nat) : (s.stopNode k code).ratioNext = s.ratioNext := rfl
@[simp] theorem State.stopNode_arrivals (k code : Nat) : (s.stopNode k code).arrivals = s.arrivals := rfl
@[simp] theorem State.stopNode_waits (k code : Nat) : (s.stopNode k code).waits = s.waits := rfl
@[simp] theorem State.stopNode_queues (k code : Nat) : (s.stopNode k code).queues = s.queues := rfl
@[simp] theorem State.stopNode_turn (k code : Nat) : (s.stopNode k code).turn = s.turn := rfl
@[simp] theorem State.stopNode_nodes (k code : Nat) : (s.stopNode k code).nodes =
    Cells.modify s.nodes k fun n => { n with stop := some (n.stop.getD code) } := rfl
@[simp] theorem State.stopNode_translations (k code : Nat) : (s.stopNode k code).translations = s.translations := rfl
@[simp] theorem State.stopNode_teams (k code : Nat) : (s.stopNode k code).teams = s.teams := rfl
@[simp] theorem State.stopNode_requests (k code : Nat) : (s.stopNode k code).requests = s.requests := rfl
@[simp] theorem State.stopNode_jobs (k code : Nat) : (s.stopNode k code).jobs = s.jobs := rfl
@[simp] theorem State.stopNode_executors (k code : Nat) : (s.stopNode k code).executors = s.executors := rfl
@[simp] theorem State.stopNode_calls (k code : Nat) : (s.stopNode k code).calls = s.calls := rfl
@[simp] theorem State.stopNode_drays (k code : Nat) : (s.stopNode k code).drays = s.drays := rfl
@[simp] theorem State.stopNode_halves (k code : Nat) : (s.stopNode k code).halves = s.halves := rfl
@[simp] theorem State.stopNode_stable (k code : Nat) : (s.stopNode k code).stable = s.stable := rfl
@[simp] theorem State.stopNode_posts (k code : Nat) : (s.stopNode k code).posts = s.posts := rfl
@[simp] theorem State.stopNode_ran (k code : Nat) : (s.stopNode k code).ran = s.ran := rfl
@[simp] theorem State.stopNode_fresh (k code : Nat) : (s.stopNode k code).fresh = s.fresh := rfl
@[simp] theorem State.stopNode_mgmt (k code : Nat) : (s.stopNode k code).mgmt = s.mgmt := rfl
@[simp] theorem State.stopNode_mailbox (k code : Nat) : (s.stopNode k code).mailbox = s.mailbox := rfl
@[simp] theorem State.stopNode_meas (k code : Nat) : (s.stopNode k code).meas = s.meas := rfl
@[simp] theorem State.stopNode_found (k code : Nat) : (s.stopNode k code).found = s.found := rfl
@[simp] theorem State.stopNode_ucie (k code : Nat) : (s.stopNode k code).ucie = s.ucie := rfl
@[simp] theorem State.stopNode_fabricOn (k code : Nat) : (s.stopNode k code).fabricOn = s.fabricOn := rfl
@[simp] theorem State.stopNode_life (k code : Nat) : (s.stopNode k code).life = s.life := rfl
@[simp] theorem State.stopNode_lifeMram (k code : Nat) : (s.stopNode k code).lifeMram = s.lifeMram := rfl
@[simp] theorem State.stopNode_relayed (k code : Nat) : (s.stopNode k code).relayed = s.relayed := rfl
@[simp] theorem State.stopNode_relaySeq (k code : Nat) : (s.stopNode k code).relaySeq = s.relaySeq := rfl
@[simp] theorem State.stopNode_peerHint (k code : Nat) : (s.stopNode k code).peerHint = s.peerHint := rfl
@[simp] theorem State.stopNode_relayHint (k code : Nat) : (s.stopNode k code).relayHint = s.relayHint := rfl

/-! ### State.setQueue -/

@[simp] theorem State.setQueue_tick (q : Nat) (x : Queue) : (s.setQueue q x).tick = s.tick := rfl
@[simp] theorem State.setQueue_due (q : Nat) (x : Queue) : (s.setQueue q x).due = s.due := rfl
@[simp] theorem State.setQueue_now (q : Nat) (x : Queue) : (s.setQueue q x).now = s.now := rfl
@[simp] theorem State.setQueue_cur (q : Nat) (x : Queue) : (s.setQueue q x).cur = s.cur := rfl
@[simp] theorem State.setQueue_curSub (q : Nat) (x : Queue) : (s.setQueue q x).curSub = s.curSub := rfl
@[simp] theorem State.setQueue_mode (q : Nat) (x : Queue) : (s.setQueue q x).mode = s.mode := rfl
@[simp] theorem State.setQueue_slot (q : Nat) (x : Queue) : (s.setQueue q x).slot = s.slot := rfl
@[simp] theorem State.setQueue_epochs (q : Nat) (x : Queue) : (s.setQueue q x).epochs = s.epochs := rfl
@[simp] theorem State.setQueue_keys (q : Nat) (x : Queue) : (s.setQueue q x).keys = s.keys := rfl
@[simp] theorem State.setQueue_keyBits (q : Nat) (x : Queue) : (s.setQueue q x).keyBits = s.keyBits := rfl
@[simp] theorem State.setQueue_roots (q : Nat) (x : Queue) : (s.setQueue q x).roots = s.roots := rfl
@[simp] theorem State.setQueue_granules (q : Nat) (x : Queue) : (s.setQueue q x).granules = s.granules := rfl
@[simp] theorem State.setQueue_images (q : Nat) (x : Queue) : (s.setQueue q x).images = s.images := rfl
@[simp] theorem State.setQueue_mem (q : Nat) (x : Queue) : (s.setQueue q x).mem = s.mem := rfl
@[simp] theorem State.setQueue_tlb (q : Nat) (x : Queue) : (s.setQueue q x).tlb = s.tlb := rfl
@[simp] theorem State.setQueue_swaps (q : Nat) (x : Queue) : (s.setQueue q x).swaps = s.swaps := rfl
@[simp] theorem State.setQueue_calendar (q : Nat) (x : Queue) : (s.setQueue q x).calendar = s.calendar := rfl
@[simp] theorem State.setQueue_capacity (q : Nat) (x : Queue) : (s.setQueue q x).capacity = s.capacity := rfl
@[simp] theorem State.setQueue_ratios (q : Nat) (x : Queue) : (s.setQueue q x).ratios = s.ratios := rfl
@[simp] theorem State.setQueue_ratioNext (q : Nat) (x : Queue) : (s.setQueue q x).ratioNext = s.ratioNext := rfl
@[simp] theorem State.setQueue_arrivals (q : Nat) (x : Queue) : (s.setQueue q x).arrivals = s.arrivals := rfl
@[simp] theorem State.setQueue_waits (q : Nat) (x : Queue) : (s.setQueue q x).waits = s.waits := rfl
@[simp] theorem State.setQueue_queues (q : Nat) (x : Queue) : (s.setQueue q x).queues =
    Cells.set {} s.queues q x := rfl
@[simp] theorem State.setQueue_turn (q : Nat) (x : Queue) : (s.setQueue q x).turn = s.turn := rfl
@[simp] theorem State.setQueue_nodes (q : Nat) (x : Queue) : (s.setQueue q x).nodes = s.nodes := rfl
@[simp] theorem State.setQueue_translations (q : Nat) (x : Queue) : (s.setQueue q x).translations = s.translations := rfl
@[simp] theorem State.setQueue_teams (q : Nat) (x : Queue) : (s.setQueue q x).teams = s.teams := rfl
@[simp] theorem State.setQueue_requests (q : Nat) (x : Queue) : (s.setQueue q x).requests = s.requests := rfl
@[simp] theorem State.setQueue_jobs (q : Nat) (x : Queue) : (s.setQueue q x).jobs = s.jobs := rfl
@[simp] theorem State.setQueue_executors (q : Nat) (x : Queue) : (s.setQueue q x).executors = s.executors := rfl
@[simp] theorem State.setQueue_calls (q : Nat) (x : Queue) : (s.setQueue q x).calls = s.calls := rfl
@[simp] theorem State.setQueue_drays (q : Nat) (x : Queue) : (s.setQueue q x).drays = s.drays := rfl
@[simp] theorem State.setQueue_halves (q : Nat) (x : Queue) : (s.setQueue q x).halves = s.halves := rfl
@[simp] theorem State.setQueue_stable (q : Nat) (x : Queue) : (s.setQueue q x).stable = s.stable := rfl
@[simp] theorem State.setQueue_posts (q : Nat) (x : Queue) : (s.setQueue q x).posts = s.posts := rfl
@[simp] theorem State.setQueue_ran (q : Nat) (x : Queue) : (s.setQueue q x).ran = s.ran := rfl
@[simp] theorem State.setQueue_fresh (q : Nat) (x : Queue) : (s.setQueue q x).fresh = s.fresh := rfl
@[simp] theorem State.setQueue_mgmt (q : Nat) (x : Queue) : (s.setQueue q x).mgmt = s.mgmt := rfl
@[simp] theorem State.setQueue_mailbox (q : Nat) (x : Queue) : (s.setQueue q x).mailbox = s.mailbox := rfl
@[simp] theorem State.setQueue_meas (q : Nat) (x : Queue) : (s.setQueue q x).meas = s.meas := rfl
@[simp] theorem State.setQueue_found (q : Nat) (x : Queue) : (s.setQueue q x).found = s.found := rfl
@[simp] theorem State.setQueue_ucie (q : Nat) (x : Queue) : (s.setQueue q x).ucie = s.ucie := rfl
@[simp] theorem State.setQueue_fabricOn (q : Nat) (x : Queue) : (s.setQueue q x).fabricOn = s.fabricOn := rfl
@[simp] theorem State.setQueue_life (q : Nat) (x : Queue) : (s.setQueue q x).life = s.life := rfl
@[simp] theorem State.setQueue_lifeMram (q : Nat) (x : Queue) : (s.setQueue q x).lifeMram = s.lifeMram := rfl
@[simp] theorem State.setQueue_relayed (q : Nat) (x : Queue) : (s.setQueue q x).relayed = s.relayed := rfl
@[simp] theorem State.setQueue_relaySeq (q : Nat) (x : Queue) : (s.setQueue q x).relaySeq = s.relaySeq := rfl
@[simp] theorem State.setQueue_peerHint (q : Nat) (x : Queue) : (s.setQueue q x).peerHint = s.peerHint := rfl
@[simp] theorem State.setQueue_relayHint (q : Nat) (x : Queue) : (s.setQueue q x).relayHint = s.relayHint := rfl

/-! ### State.setHalf -/

@[simp] theorem State.setHalf_tick (k : Nat) (x : Half) : (s.setHalf k x).tick = s.tick := rfl
@[simp] theorem State.setHalf_due (k : Nat) (x : Half) : (s.setHalf k x).due = s.due := rfl
@[simp] theorem State.setHalf_now (k : Nat) (x : Half) : (s.setHalf k x).now = s.now := rfl
@[simp] theorem State.setHalf_cur (k : Nat) (x : Half) : (s.setHalf k x).cur = s.cur := rfl
@[simp] theorem State.setHalf_curSub (k : Nat) (x : Half) : (s.setHalf k x).curSub = s.curSub := rfl
@[simp] theorem State.setHalf_mode (k : Nat) (x : Half) : (s.setHalf k x).mode = s.mode := rfl
@[simp] theorem State.setHalf_slot (k : Nat) (x : Half) : (s.setHalf k x).slot = s.slot := rfl
@[simp] theorem State.setHalf_epochs (k : Nat) (x : Half) : (s.setHalf k x).epochs = s.epochs := rfl
@[simp] theorem State.setHalf_keys (k : Nat) (x : Half) : (s.setHalf k x).keys = s.keys := rfl
@[simp] theorem State.setHalf_keyBits (k : Nat) (x : Half) : (s.setHalf k x).keyBits = s.keyBits := rfl
@[simp] theorem State.setHalf_roots (k : Nat) (x : Half) : (s.setHalf k x).roots = s.roots := rfl
@[simp] theorem State.setHalf_granules (k : Nat) (x : Half) : (s.setHalf k x).granules = s.granules := rfl
@[simp] theorem State.setHalf_images (k : Nat) (x : Half) : (s.setHalf k x).images = s.images := rfl
@[simp] theorem State.setHalf_mem (k : Nat) (x : Half) : (s.setHalf k x).mem = s.mem := rfl
@[simp] theorem State.setHalf_tlb (k : Nat) (x : Half) : (s.setHalf k x).tlb = s.tlb := rfl
@[simp] theorem State.setHalf_swaps (k : Nat) (x : Half) : (s.setHalf k x).swaps = s.swaps := rfl
@[simp] theorem State.setHalf_calendar (k : Nat) (x : Half) : (s.setHalf k x).calendar = s.calendar := rfl
@[simp] theorem State.setHalf_capacity (k : Nat) (x : Half) : (s.setHalf k x).capacity = s.capacity := rfl
@[simp] theorem State.setHalf_ratios (k : Nat) (x : Half) : (s.setHalf k x).ratios = s.ratios := rfl
@[simp] theorem State.setHalf_ratioNext (k : Nat) (x : Half) : (s.setHalf k x).ratioNext = s.ratioNext := rfl
@[simp] theorem State.setHalf_arrivals (k : Nat) (x : Half) : (s.setHalf k x).arrivals = s.arrivals := rfl
@[simp] theorem State.setHalf_waits (k : Nat) (x : Half) : (s.setHalf k x).waits = s.waits := rfl
@[simp] theorem State.setHalf_queues (k : Nat) (x : Half) : (s.setHalf k x).queues = s.queues := rfl
@[simp] theorem State.setHalf_turn (k : Nat) (x : Half) : (s.setHalf k x).turn = s.turn := rfl
@[simp] theorem State.setHalf_nodes (k : Nat) (x : Half) : (s.setHalf k x).nodes = s.nodes := rfl
@[simp] theorem State.setHalf_translations (k : Nat) (x : Half) : (s.setHalf k x).translations = s.translations := rfl
@[simp] theorem State.setHalf_teams (k : Nat) (x : Half) : (s.setHalf k x).teams = s.teams := rfl
@[simp] theorem State.setHalf_requests (k : Nat) (x : Half) : (s.setHalf k x).requests = s.requests := rfl
@[simp] theorem State.setHalf_jobs (k : Nat) (x : Half) : (s.setHalf k x).jobs = s.jobs := rfl
@[simp] theorem State.setHalf_executors (k : Nat) (x : Half) : (s.setHalf k x).executors = s.executors := rfl
@[simp] theorem State.setHalf_calls (k : Nat) (x : Half) : (s.setHalf k x).calls = s.calls := rfl
@[simp] theorem State.setHalf_drays (k : Nat) (x : Half) : (s.setHalf k x).drays = s.drays := rfl
@[simp] theorem State.setHalf_halves (k : Nat) (x : Half) : (s.setHalf k x).halves =
    Cells.set {} s.halves k x := rfl
@[simp] theorem State.setHalf_stable (k : Nat) (x : Half) : (s.setHalf k x).stable = s.stable := rfl
@[simp] theorem State.setHalf_posts (k : Nat) (x : Half) : (s.setHalf k x).posts = s.posts := rfl
@[simp] theorem State.setHalf_ran (k : Nat) (x : Half) : (s.setHalf k x).ran = s.ran := rfl
@[simp] theorem State.setHalf_fresh (k : Nat) (x : Half) : (s.setHalf k x).fresh = s.fresh := rfl
@[simp] theorem State.setHalf_mgmt (k : Nat) (x : Half) : (s.setHalf k x).mgmt = s.mgmt := rfl
@[simp] theorem State.setHalf_mailbox (k : Nat) (x : Half) : (s.setHalf k x).mailbox = s.mailbox := rfl
@[simp] theorem State.setHalf_meas (k : Nat) (x : Half) : (s.setHalf k x).meas = s.meas := rfl
@[simp] theorem State.setHalf_found (k : Nat) (x : Half) : (s.setHalf k x).found = s.found := rfl
@[simp] theorem State.setHalf_ucie (k : Nat) (x : Half) : (s.setHalf k x).ucie = s.ucie := rfl
@[simp] theorem State.setHalf_fabricOn (k : Nat) (x : Half) : (s.setHalf k x).fabricOn = s.fabricOn := rfl
@[simp] theorem State.setHalf_life (k : Nat) (x : Half) : (s.setHalf k x).life = s.life := rfl
@[simp] theorem State.setHalf_lifeMram (k : Nat) (x : Half) : (s.setHalf k x).lifeMram = s.lifeMram := rfl
@[simp] theorem State.setHalf_relayed (k : Nat) (x : Half) : (s.setHalf k x).relayed = s.relayed := rfl
@[simp] theorem State.setHalf_relaySeq (k : Nat) (x : Half) : (s.setHalf k x).relaySeq = s.relaySeq := rfl
@[simp] theorem State.setHalf_peerHint (k : Nat) (x : Half) : (s.setHalf k x).peerHint = s.peerHint := rfl
@[simp] theorem State.setHalf_relayHint (k : Nat) (x : Half) : (s.setHalf k x).relayHint = s.relayHint := rfl

/-! ### State.freeHalf -/

@[simp] theorem State.freeHalf_tick (k t n : Nat) (c : Coach) : (s.freeHalf k t n c).tick = s.tick := rfl
@[simp] theorem State.freeHalf_due (k t n : Nat) (c : Coach) : (s.freeHalf k t n c).due = s.due := rfl
@[simp] theorem State.freeHalf_now (k t n : Nat) (c : Coach) : (s.freeHalf k t n c).now = s.now := rfl
@[simp] theorem State.freeHalf_cur (k t n : Nat) (c : Coach) : (s.freeHalf k t n c).cur = s.cur := rfl
@[simp] theorem State.freeHalf_curSub (k t n : Nat) (c : Coach) : (s.freeHalf k t n c).curSub = s.curSub := rfl
@[simp] theorem State.freeHalf_mode (k t n : Nat) (c : Coach) : (s.freeHalf k t n c).mode = s.mode := rfl
@[simp] theorem State.freeHalf_slot (k t n : Nat) (c : Coach) : (s.freeHalf k t n c).slot = s.slot := rfl
@[simp] theorem State.freeHalf_epochs (k t n : Nat) (c : Coach) : (s.freeHalf k t n c).epochs = s.epochs := rfl
@[simp] theorem State.freeHalf_keys (k t n : Nat) (c : Coach) : (s.freeHalf k t n c).keys = s.keys := rfl
@[simp] theorem State.freeHalf_keyBits (k t n : Nat) (c : Coach) : (s.freeHalf k t n c).keyBits = s.keyBits := rfl
@[simp] theorem State.freeHalf_roots (k t n : Nat) (c : Coach) : (s.freeHalf k t n c).roots = s.roots := rfl
@[simp] theorem State.freeHalf_granules (k t n : Nat) (c : Coach) : (s.freeHalf k t n c).granules = s.granules := rfl
@[simp] theorem State.freeHalf_images (k t n : Nat) (c : Coach) : (s.freeHalf k t n c).images = s.images := rfl
@[simp] theorem State.freeHalf_mem (k t n : Nat) (c : Coach) : (s.freeHalf k t n c).mem = s.mem := rfl
@[simp] theorem State.freeHalf_tlb (k t n : Nat) (c : Coach) : (s.freeHalf k t n c).tlb = s.tlb := rfl
@[simp] theorem State.freeHalf_swaps (k t n : Nat) (c : Coach) : (s.freeHalf k t n c).swaps = s.swaps := rfl
@[simp] theorem State.freeHalf_calendar (k t n : Nat) (c : Coach) : (s.freeHalf k t n c).calendar = s.calendar := rfl
@[simp] theorem State.freeHalf_capacity (k t n : Nat) (c : Coach) : (s.freeHalf k t n c).capacity = s.capacity := rfl
@[simp] theorem State.freeHalf_ratios (k t n : Nat) (c : Coach) : (s.freeHalf k t n c).ratios = s.ratios := rfl
@[simp] theorem State.freeHalf_ratioNext (k t n : Nat) (c : Coach) : (s.freeHalf k t n c).ratioNext = s.ratioNext := rfl
@[simp] theorem State.freeHalf_arrivals (k t n : Nat) (c : Coach) : (s.freeHalf k t n c).arrivals = s.arrivals := rfl
@[simp] theorem State.freeHalf_waits (k t n : Nat) (c : Coach) : (s.freeHalf k t n c).waits = s.waits := rfl
@[simp] theorem State.freeHalf_queues (k t n : Nat) (c : Coach) : (s.freeHalf k t n c).queues = s.queues := rfl
@[simp] theorem State.freeHalf_turn (k t n : Nat) (c : Coach) : (s.freeHalf k t n c).turn = s.turn := rfl
@[simp] theorem State.freeHalf_nodes (k t n : Nat) (c : Coach) : (s.freeHalf k t n c).nodes = s.nodes := rfl
@[simp] theorem State.freeHalf_translations (k t n : Nat) (c : Coach) : (s.freeHalf k t n c).translations = s.translations := rfl
@[simp] theorem State.freeHalf_teams (k t n : Nat) (c : Coach) : (s.freeHalf k t n c).teams = s.teams := rfl
@[simp] theorem State.freeHalf_requests (k t n : Nat) (c : Coach) : (s.freeHalf k t n c).requests = s.requests := rfl
@[simp] theorem State.freeHalf_jobs (k t n : Nat) (c : Coach) : (s.freeHalf k t n c).jobs = s.jobs := rfl
@[simp] theorem State.freeHalf_executors (k t n : Nat) (c : Coach) : (s.freeHalf k t n c).executors = s.executors := rfl
@[simp] theorem State.freeHalf_calls (k t n : Nat) (c : Coach) : (s.freeHalf k t n c).calls = s.calls := rfl
@[simp] theorem State.freeHalf_drays (k t n : Nat) (c : Coach) : (s.freeHalf k t n c).drays = s.drays := rfl
@[simp] theorem State.freeHalf_halves (k t n : Nat) (c : Coach) : (s.freeHalf k t n c).halves =
    Cells.set {} s.halves (halfOf k c) ((Cells.get {} s.halves (halfOf k c)).leave t n) := rfl
@[simp] theorem State.freeHalf_stable (k t n : Nat) (c : Coach) : (s.freeHalf k t n c).stable = s.stable := rfl
@[simp] theorem State.freeHalf_posts (k t n : Nat) (c : Coach) : (s.freeHalf k t n c).posts = s.posts := rfl
@[simp] theorem State.freeHalf_ran (k t n : Nat) (c : Coach) : (s.freeHalf k t n c).ran = s.ran := rfl
@[simp] theorem State.freeHalf_fresh (k t n : Nat) (c : Coach) : (s.freeHalf k t n c).fresh = s.fresh := rfl
@[simp] theorem State.freeHalf_mgmt (k t n : Nat) (c : Coach) : (s.freeHalf k t n c).mgmt = s.mgmt := rfl
@[simp] theorem State.freeHalf_mailbox (k t n : Nat) (c : Coach) : (s.freeHalf k t n c).mailbox = s.mailbox := rfl
@[simp] theorem State.freeHalf_meas (k t n : Nat) (c : Coach) : (s.freeHalf k t n c).meas = s.meas := rfl
@[simp] theorem State.freeHalf_found (k t n : Nat) (c : Coach) : (s.freeHalf k t n c).found = s.found := rfl
@[simp] theorem State.freeHalf_ucie (k t n : Nat) (c : Coach) : (s.freeHalf k t n c).ucie = s.ucie := rfl
@[simp] theorem State.freeHalf_fabricOn (k t n : Nat) (c : Coach) : (s.freeHalf k t n c).fabricOn = s.fabricOn := rfl
@[simp] theorem State.freeHalf_life (k t n : Nat) (c : Coach) : (s.freeHalf k t n c).life = s.life := rfl
@[simp] theorem State.freeHalf_lifeMram (k t n : Nat) (c : Coach) : (s.freeHalf k t n c).lifeMram = s.lifeMram := rfl
@[simp] theorem State.freeHalf_relayed (k t n : Nat) (c : Coach) : (s.freeHalf k t n c).relayed = s.relayed := rfl
@[simp] theorem State.freeHalf_relaySeq (k t n : Nat) (c : Coach) : (s.freeHalf k t n c).relaySeq = s.relaySeq := rfl
@[simp] theorem State.freeHalf_peerHint (k t n : Nat) (c : Coach) : (s.freeHalf k t n c).peerHint = s.peerHint := rfl
@[simp] theorem State.freeHalf_relayHint (k t n : Nat) (c : Coach) : (s.freeHalf k t n c).relayHint = s.relayHint := rfl

/-! ### State.writeSto -/

@[simp] theorem State.writeSto_tick (oid a : Nat) (b : Byte) : (s.writeSto oid a b).tick = s.tick := rfl
@[simp] theorem State.writeSto_due (oid a : Nat) (b : Byte) : (s.writeSto oid a b).due = s.due := rfl
@[simp] theorem State.writeSto_now (oid a : Nat) (b : Byte) : (s.writeSto oid a b).now = s.now := rfl
@[simp] theorem State.writeSto_cur (oid a : Nat) (b : Byte) : (s.writeSto oid a b).cur = s.cur := rfl
@[simp] theorem State.writeSto_curSub (oid a : Nat) (b : Byte) : (s.writeSto oid a b).curSub = s.curSub := rfl
@[simp] theorem State.writeSto_mode (oid a : Nat) (b : Byte) : (s.writeSto oid a b).mode = s.mode := rfl
@[simp] theorem State.writeSto_slot (oid a : Nat) (b : Byte) : (s.writeSto oid a b).slot = s.slot := rfl
@[simp] theorem State.writeSto_epochs (oid a : Nat) (b : Byte) : (s.writeSto oid a b).epochs = s.epochs := rfl
@[simp] theorem State.writeSto_keys (oid a : Nat) (b : Byte) : (s.writeSto oid a b).keys = s.keys := rfl
@[simp] theorem State.writeSto_keyBits (oid a : Nat) (b : Byte) : (s.writeSto oid a b).keyBits = s.keyBits := rfl
@[simp] theorem State.writeSto_roots (oid a : Nat) (b : Byte) : (s.writeSto oid a b).roots = s.roots := rfl
@[simp] theorem State.writeSto_granules (oid a : Nat) (b : Byte) : (s.writeSto oid a b).granules = s.granules := rfl
@[simp] theorem State.writeSto_images (oid a : Nat) (b : Byte) : (s.writeSto oid a b).images = s.images := rfl
@[simp] theorem State.writeSto_mem (oid a : Nat) (b : Byte) : (s.writeSto oid a b).mem =
    (s.refilled (s.keyOf oid) a).write (s.keyOf oid) a b := rfl
@[simp] theorem State.writeSto_tlb (oid a : Nat) (b : Byte) : (s.writeSto oid a b).tlb = s.tlb := rfl
@[simp] theorem State.writeSto_swaps (oid a : Nat) (b : Byte) : (s.writeSto oid a b).swaps = s.swaps := rfl
@[simp] theorem State.writeSto_calendar (oid a : Nat) (b : Byte) : (s.writeSto oid a b).calendar = s.calendar := rfl
@[simp] theorem State.writeSto_capacity (oid a : Nat) (b : Byte) : (s.writeSto oid a b).capacity = s.capacity := rfl
@[simp] theorem State.writeSto_ratios (oid a : Nat) (b : Byte) : (s.writeSto oid a b).ratios = s.ratios := rfl
@[simp] theorem State.writeSto_ratioNext (oid a : Nat) (b : Byte) : (s.writeSto oid a b).ratioNext = s.ratioNext := rfl
@[simp] theorem State.writeSto_arrivals (oid a : Nat) (b : Byte) : (s.writeSto oid a b).arrivals = s.arrivals := rfl
@[simp] theorem State.writeSto_waits (oid a : Nat) (b : Byte) : (s.writeSto oid a b).waits = s.waits := rfl
@[simp] theorem State.writeSto_queues (oid a : Nat) (b : Byte) : (s.writeSto oid a b).queues = s.queues := rfl
@[simp] theorem State.writeSto_turn (oid a : Nat) (b : Byte) : (s.writeSto oid a b).turn = s.turn := rfl
@[simp] theorem State.writeSto_nodes (oid a : Nat) (b : Byte) : (s.writeSto oid a b).nodes = s.nodes := rfl
@[simp] theorem State.writeSto_translations (oid a : Nat) (b : Byte) : (s.writeSto oid a b).translations = s.translations := rfl
@[simp] theorem State.writeSto_teams (oid a : Nat) (b : Byte) : (s.writeSto oid a b).teams = s.teams := rfl
@[simp] theorem State.writeSto_requests (oid a : Nat) (b : Byte) : (s.writeSto oid a b).requests = s.requests := rfl
@[simp] theorem State.writeSto_jobs (oid a : Nat) (b : Byte) : (s.writeSto oid a b).jobs = s.jobs := rfl
@[simp] theorem State.writeSto_executors (oid a : Nat) (b : Byte) : (s.writeSto oid a b).executors = s.executors := rfl
@[simp] theorem State.writeSto_calls (oid a : Nat) (b : Byte) : (s.writeSto oid a b).calls = s.calls := rfl
@[simp] theorem State.writeSto_drays (oid a : Nat) (b : Byte) : (s.writeSto oid a b).drays = s.drays := rfl
@[simp] theorem State.writeSto_halves (oid a : Nat) (b : Byte) : (s.writeSto oid a b).halves = s.halves := rfl
@[simp] theorem State.writeSto_stable (oid a : Nat) (b : Byte) : (s.writeSto oid a b).stable = s.stable := rfl
@[simp] theorem State.writeSto_posts (oid a : Nat) (b : Byte) : (s.writeSto oid a b).posts = s.posts := rfl
@[simp] theorem State.writeSto_ran (oid a : Nat) (b : Byte) : (s.writeSto oid a b).ran = s.ran := rfl
@[simp] theorem State.writeSto_fresh (oid a : Nat) (b : Byte) : (s.writeSto oid a b).fresh = s.fresh := rfl
@[simp] theorem State.writeSto_mgmt (oid a : Nat) (b : Byte) : (s.writeSto oid a b).mgmt = s.mgmt := rfl
@[simp] theorem State.writeSto_mailbox (oid a : Nat) (b : Byte) : (s.writeSto oid a b).mailbox = s.mailbox := rfl
@[simp] theorem State.writeSto_meas (oid a : Nat) (b : Byte) : (s.writeSto oid a b).meas = s.meas := rfl
@[simp] theorem State.writeSto_found (oid a : Nat) (b : Byte) : (s.writeSto oid a b).found = s.found := rfl
@[simp] theorem State.writeSto_ucie (oid a : Nat) (b : Byte) : (s.writeSto oid a b).ucie = s.ucie := rfl
@[simp] theorem State.writeSto_fabricOn (oid a : Nat) (b : Byte) : (s.writeSto oid a b).fabricOn = s.fabricOn := rfl
@[simp] theorem State.writeSto_life (oid a : Nat) (b : Byte) : (s.writeSto oid a b).life = s.life := rfl
@[simp] theorem State.writeSto_lifeMram (oid a : Nat) (b : Byte) : (s.writeSto oid a b).lifeMram = s.lifeMram := rfl
@[simp] theorem State.writeSto_relayed (oid a : Nat) (b : Byte) : (s.writeSto oid a b).relayed = s.relayed := rfl
@[simp] theorem State.writeSto_relaySeq (oid a : Nat) (b : Byte) : (s.writeSto oid a b).relaySeq = s.relaySeq := rfl
@[simp] theorem State.writeSto_peerHint (oid a : Nat) (b : Byte) : (s.writeSto oid a b).peerHint = s.peerHint := rfl
@[simp] theorem State.writeSto_relayHint (oid a : Nat) (b : Byte) : (s.writeSto oid a b).relayHint = s.relayHint := rfl

/-! ### State.markWaiting -/

@[simp] theorem State.markWaiting_tick (l : List Nat) (r : Bool) : (s.markWaiting l r).tick = s.tick := by
  unfold State.markWaiting; split <;> rfl
@[simp] theorem State.markWaiting_due (l : List Nat) (r : Bool) : (s.markWaiting l r).due = s.due := by
  unfold State.markWaiting; split <;> rfl
@[simp] theorem State.markWaiting_now (l : List Nat) (r : Bool) : (s.markWaiting l r).now = s.now := by
  unfold State.markWaiting; split <;> rfl
@[simp] theorem State.markWaiting_cur (l : List Nat) (r : Bool) : (s.markWaiting l r).cur = s.cur := by
  unfold State.markWaiting; split <;> rfl
@[simp] theorem State.markWaiting_curSub (l : List Nat) (r : Bool) : (s.markWaiting l r).curSub = s.curSub := by
  unfold State.markWaiting; split <;> rfl
@[simp] theorem State.markWaiting_mode (l : List Nat) (r : Bool) : (s.markWaiting l r).mode = s.mode := by
  unfold State.markWaiting; split <;> rfl
@[simp] theorem State.markWaiting_slot (l : List Nat) (r : Bool) : (s.markWaiting l r).slot = s.slot := by
  unfold State.markWaiting; split <;> rfl
@[simp] theorem State.markWaiting_epochs (l : List Nat) (r : Bool) : (s.markWaiting l r).epochs = s.epochs := by
  unfold State.markWaiting; split <;> rfl
@[simp] theorem State.markWaiting_keys (l : List Nat) (r : Bool) : (s.markWaiting l r).keys = s.keys := by
  unfold State.markWaiting; split <;> rfl
@[simp] theorem State.markWaiting_keyBits (l : List Nat) (r : Bool) : (s.markWaiting l r).keyBits = s.keyBits := by
  unfold State.markWaiting; split <;> rfl
@[simp] theorem State.markWaiting_roots (l : List Nat) (r : Bool) : (s.markWaiting l r).roots = s.roots := by
  unfold State.markWaiting; split <;> rfl
@[simp] theorem State.markWaiting_granules (l : List Nat) (r : Bool) : (s.markWaiting l r).granules = s.granules := by
  unfold State.markWaiting; split <;> rfl
@[simp] theorem State.markWaiting_images (l : List Nat) (r : Bool) : (s.markWaiting l r).images = s.images := by
  unfold State.markWaiting; split <;> rfl
@[simp] theorem State.markWaiting_mem (l : List Nat) (r : Bool) : (s.markWaiting l r).mem = s.mem := by
  unfold State.markWaiting; split <;> rfl
@[simp] theorem State.markWaiting_tlb (l : List Nat) (r : Bool) : (s.markWaiting l r).tlb = s.tlb := by
  unfold State.markWaiting; split <;> rfl
@[simp] theorem State.markWaiting_swaps (l : List Nat) (r : Bool) : (s.markWaiting l r).swaps = s.swaps := by
  unfold State.markWaiting; split <;> rfl
@[simp] theorem State.markWaiting_calendar (l : List Nat) (r : Bool) : (s.markWaiting l r).calendar = s.calendar := by
  unfold State.markWaiting; split <;> rfl
@[simp] theorem State.markWaiting_capacity (l : List Nat) (r : Bool) : (s.markWaiting l r).capacity = s.capacity := by
  unfold State.markWaiting; split <;> rfl
@[simp] theorem State.markWaiting_ratios (l : List Nat) (r : Bool) : (s.markWaiting l r).ratios = s.ratios := by
  unfold State.markWaiting; split <;> rfl
@[simp] theorem State.markWaiting_ratioNext (l : List Nat) (r : Bool) : (s.markWaiting l r).ratioNext = s.ratioNext := by
  unfold State.markWaiting; split <;> rfl
@[simp] theorem State.markWaiting_waits (l : List Nat) (r : Bool) : (s.markWaiting l r).waits = s.waits := by
  unfold State.markWaiting; split <;> rfl
@[simp] theorem State.markWaiting_queues (l : List Nat) (r : Bool) : (s.markWaiting l r).queues = s.queues := by
  unfold State.markWaiting; split <;> rfl
@[simp] theorem State.markWaiting_turn (l : List Nat) (r : Bool) : (s.markWaiting l r).turn = s.turn := by
  unfold State.markWaiting; split <;> rfl
@[simp] theorem State.markWaiting_nodes (l : List Nat) (r : Bool) : (s.markWaiting l r).nodes = s.nodes := by
  unfold State.markWaiting; split <;> rfl
@[simp] theorem State.markWaiting_translations (l : List Nat) (r : Bool) : (s.markWaiting l r).translations = s.translations := by
  unfold State.markWaiting; split <;> rfl
@[simp] theorem State.markWaiting_teams (l : List Nat) (r : Bool) : (s.markWaiting l r).teams = s.teams := by
  unfold State.markWaiting; split <;> rfl
@[simp] theorem State.markWaiting_requests (l : List Nat) (r : Bool) : (s.markWaiting l r).requests = s.requests := by
  unfold State.markWaiting; split <;> rfl
@[simp] theorem State.markWaiting_jobs (l : List Nat) (r : Bool) : (s.markWaiting l r).jobs = s.jobs := by
  unfold State.markWaiting; split <;> rfl
@[simp] theorem State.markWaiting_executors (l : List Nat) (r : Bool) : (s.markWaiting l r).executors = s.executors := by
  unfold State.markWaiting; split <;> rfl
@[simp] theorem State.markWaiting_calls (l : List Nat) (r : Bool) : (s.markWaiting l r).calls = s.calls := by
  unfold State.markWaiting; split <;> rfl
@[simp] theorem State.markWaiting_drays (l : List Nat) (r : Bool) : (s.markWaiting l r).drays = s.drays := by
  unfold State.markWaiting; split <;> rfl
@[simp] theorem State.markWaiting_halves (l : List Nat) (r : Bool) : (s.markWaiting l r).halves = s.halves := by
  unfold State.markWaiting; split <;> rfl
@[simp] theorem State.markWaiting_stable (l : List Nat) (r : Bool) : (s.markWaiting l r).stable = s.stable := by
  unfold State.markWaiting; split <;> rfl
@[simp] theorem State.markWaiting_posts (l : List Nat) (r : Bool) : (s.markWaiting l r).posts = s.posts := by
  unfold State.markWaiting; split <;> rfl
@[simp] theorem State.markWaiting_ran (l : List Nat) (r : Bool) : (s.markWaiting l r).ran = s.ran := by
  unfold State.markWaiting; split <;> rfl
@[simp] theorem State.markWaiting_fresh (l : List Nat) (r : Bool) : (s.markWaiting l r).fresh = s.fresh := by
  unfold State.markWaiting; split <;> rfl
@[simp] theorem State.markWaiting_mgmt (l : List Nat) (r : Bool) : (s.markWaiting l r).mgmt = s.mgmt := by
  unfold State.markWaiting; split <;> rfl
@[simp] theorem State.markWaiting_mailbox (l : List Nat) (r : Bool) : (s.markWaiting l r).mailbox = s.mailbox := by
  unfold State.markWaiting; split <;> rfl
@[simp] theorem State.markWaiting_meas (l : List Nat) (r : Bool) : (s.markWaiting l r).meas = s.meas := by
  unfold State.markWaiting; split <;> rfl
@[simp] theorem State.markWaiting_found (l : List Nat) (r : Bool) : (s.markWaiting l r).found = s.found := by
  unfold State.markWaiting; split <;> rfl
@[simp] theorem State.markWaiting_ucie (l : List Nat) (r : Bool) : (s.markWaiting l r).ucie = s.ucie := by
  unfold State.markWaiting; split <;> rfl
@[simp] theorem State.markWaiting_fabricOn (l : List Nat) (r : Bool) : (s.markWaiting l r).fabricOn = s.fabricOn := by
  unfold State.markWaiting; split <;> rfl
@[simp] theorem State.markWaiting_life (l : List Nat) (r : Bool) : (s.markWaiting l r).life = s.life := by
  unfold State.markWaiting; split <;> rfl
@[simp] theorem State.markWaiting_lifeMram (l : List Nat) (r : Bool) : (s.markWaiting l r).lifeMram = s.lifeMram := by
  unfold State.markWaiting; split <;> rfl
@[simp] theorem State.markWaiting_relayed (l : List Nat) (r : Bool) : (s.markWaiting l r).relayed = s.relayed := by
  unfold State.markWaiting; split <;> rfl
@[simp] theorem State.markWaiting_relaySeq (l : List Nat) (r : Bool) : (s.markWaiting l r).relaySeq = s.relaySeq := by
  unfold State.markWaiting; split <;> rfl
@[simp] theorem State.markWaiting_peerHint (l : List Nat) (r : Bool) : (s.markWaiting l r).peerHint = s.peerHint := by
  unfold State.markWaiting; split <;> rfl
@[simp] theorem State.markWaiting_relayHint (l : List Nat) (r : Bool) : (s.markWaiting l r).relayHint = s.relayHint := by
  unfold State.markWaiting; split <;> rfl

/-! ### State.spoil -/

@[simp] theorem State.spoil_tick (oid : Nat) (ps : List Piece) : (s.spoil oid ps).tick = s.tick := rfl
@[simp] theorem State.spoil_due (oid : Nat) (ps : List Piece) : (s.spoil oid ps).due = s.due := rfl
@[simp] theorem State.spoil_now (oid : Nat) (ps : List Piece) : (s.spoil oid ps).now = s.now := rfl
@[simp] theorem State.spoil_cur (oid : Nat) (ps : List Piece) : (s.spoil oid ps).cur = s.cur := rfl
@[simp] theorem State.spoil_curSub (oid : Nat) (ps : List Piece) : (s.spoil oid ps).curSub = s.curSub := rfl
@[simp] theorem State.spoil_mode (oid : Nat) (ps : List Piece) : (s.spoil oid ps).mode = s.mode := rfl
@[simp] theorem State.spoil_slot (oid : Nat) (ps : List Piece) : (s.spoil oid ps).slot = s.slot := rfl
@[simp] theorem State.spoil_epochs (oid : Nat) (ps : List Piece) : (s.spoil oid ps).epochs = s.epochs := rfl
@[simp] theorem State.spoil_keys (oid : Nat) (ps : List Piece) : (s.spoil oid ps).keys = s.keys := rfl
@[simp] theorem State.spoil_keyBits (oid : Nat) (ps : List Piece) : (s.spoil oid ps).keyBits = s.keyBits := rfl
@[simp] theorem State.spoil_roots (oid : Nat) (ps : List Piece) : (s.spoil oid ps).roots = s.roots := rfl
@[simp] theorem State.spoil_granules (oid : Nat) (ps : List Piece) : (s.spoil oid ps).granules = s.granules := rfl
@[simp] theorem State.spoil_images (oid : Nat) (ps : List Piece) : (s.spoil oid ps).images = s.images := rfl
@[simp] theorem State.spoil_mem (oid : Nat) (ps : List Piece) : (s.spoil oid ps).mem = s.mem := rfl
@[simp] theorem State.spoil_tlb (oid : Nat) (ps : List Piece) : (s.spoil oid ps).tlb = s.tlb := rfl
@[simp] theorem State.spoil_swaps (oid : Nat) (ps : List Piece) : (s.spoil oid ps).swaps = s.swaps := rfl
@[simp] theorem State.spoil_calendar (oid : Nat) (ps : List Piece) : (s.spoil oid ps).calendar = s.calendar := rfl
@[simp] theorem State.spoil_capacity (oid : Nat) (ps : List Piece) : (s.spoil oid ps).capacity = s.capacity := rfl
@[simp] theorem State.spoil_ratios (oid : Nat) (ps : List Piece) : (s.spoil oid ps).ratios = s.ratios := rfl
@[simp] theorem State.spoil_ratioNext (oid : Nat) (ps : List Piece) : (s.spoil oid ps).ratioNext = s.ratioNext := rfl
@[simp] theorem State.spoil_arrivals (oid : Nat) (ps : List Piece) : (s.spoil oid ps).arrivals = s.arrivals := rfl
@[simp] theorem State.spoil_waits (oid : Nat) (ps : List Piece) : (s.spoil oid ps).waits = s.waits := rfl
@[simp] theorem State.spoil_queues (oid : Nat) (ps : List Piece) : (s.spoil oid ps).queues = s.queues := rfl
@[simp] theorem State.spoil_turn (oid : Nat) (ps : List Piece) : (s.spoil oid ps).turn = s.turn := rfl
@[simp] theorem State.spoil_nodes (oid : Nat) (ps : List Piece) : (s.spoil oid ps).nodes = s.nodes := rfl
@[simp] theorem State.spoil_translations (oid : Nat) (ps : List Piece) : (s.spoil oid ps).translations = s.translations := rfl
@[simp] theorem State.spoil_teams (oid : Nat) (ps : List Piece) : (s.spoil oid ps).teams = s.teams := rfl
@[simp] theorem State.spoil_requests (oid : Nat) (ps : List Piece) : (s.spoil oid ps).requests = s.requests := rfl
@[simp] theorem State.spoil_jobs (oid : Nat) (ps : List Piece) : (s.spoil oid ps).jobs =
    s.jobs.map fun j => if j.oid = oid && !j.coaches.isEmpty && overlap j.work.regions ps then { j with spoiled := true } else j := rfl
@[simp] theorem State.spoil_executors (oid : Nat) (ps : List Piece) : (s.spoil oid ps).executors = s.executors := rfl
@[simp] theorem State.spoil_calls (oid : Nat) (ps : List Piece) : (s.spoil oid ps).calls = s.calls := rfl
@[simp] theorem State.spoil_drays (oid : Nat) (ps : List Piece) : (s.spoil oid ps).drays = s.drays := rfl
@[simp] theorem State.spoil_halves (oid : Nat) (ps : List Piece) : (s.spoil oid ps).halves = s.halves := rfl
@[simp] theorem State.spoil_stable (oid : Nat) (ps : List Piece) : (s.spoil oid ps).stable = s.stable := rfl
@[simp] theorem State.spoil_posts (oid : Nat) (ps : List Piece) : (s.spoil oid ps).posts = s.posts := rfl
@[simp] theorem State.spoil_ran (oid : Nat) (ps : List Piece) : (s.spoil oid ps).ran = s.ran := rfl
@[simp] theorem State.spoil_fresh (oid : Nat) (ps : List Piece) : (s.spoil oid ps).fresh = s.fresh := rfl
@[simp] theorem State.spoil_mgmt (oid : Nat) (ps : List Piece) : (s.spoil oid ps).mgmt = s.mgmt := rfl
@[simp] theorem State.spoil_mailbox (oid : Nat) (ps : List Piece) : (s.spoil oid ps).mailbox = s.mailbox := rfl
@[simp] theorem State.spoil_meas (oid : Nat) (ps : List Piece) : (s.spoil oid ps).meas = s.meas := rfl
@[simp] theorem State.spoil_found (oid : Nat) (ps : List Piece) : (s.spoil oid ps).found = s.found := rfl
@[simp] theorem State.spoil_ucie (oid : Nat) (ps : List Piece) : (s.spoil oid ps).ucie = s.ucie := rfl
@[simp] theorem State.spoil_fabricOn (oid : Nat) (ps : List Piece) : (s.spoil oid ps).fabricOn = s.fabricOn := rfl
@[simp] theorem State.spoil_life (oid : Nat) (ps : List Piece) : (s.spoil oid ps).life = s.life := rfl
@[simp] theorem State.spoil_lifeMram (oid : Nat) (ps : List Piece) : (s.spoil oid ps).lifeMram = s.lifeMram := rfl
@[simp] theorem State.spoil_relayed (oid : Nat) (ps : List Piece) : (s.spoil oid ps).relayed = s.relayed := rfl
@[simp] theorem State.spoil_relaySeq (oid : Nat) (ps : List Piece) : (s.spoil oid ps).relaySeq = s.relaySeq := rfl
@[simp] theorem State.spoil_peerHint (oid : Nat) (ps : List Piece) : (s.spoil oid ps).peerHint = s.peerHint := rfl
@[simp] theorem State.spoil_relayHint (oid : Nat) (ps : List Piece) : (s.spoil oid ps).relayHint = s.relayHint := rfl

/-! ### State.arrive -/

@[simp] theorem State.arrive_tick (w : Waiting) : (s.arrive w).tick = s.tick := rfl
@[simp] theorem State.arrive_due (w : Waiting) : (s.arrive w).due = s.due := rfl
@[simp] theorem State.arrive_now (w : Waiting) : (s.arrive w).now = s.now := rfl
@[simp] theorem State.arrive_cur (w : Waiting) : (s.arrive w).cur = s.cur := rfl
@[simp] theorem State.arrive_curSub (w : Waiting) : (s.arrive w).curSub = s.curSub := rfl
@[simp] theorem State.arrive_mode (w : Waiting) : (s.arrive w).mode = s.mode := rfl
@[simp] theorem State.arrive_slot (w : Waiting) : (s.arrive w).slot = s.slot := rfl
@[simp] theorem State.arrive_epochs (w : Waiting) : (s.arrive w).epochs = s.epochs := rfl
@[simp] theorem State.arrive_keys (w : Waiting) : (s.arrive w).keys = s.keys := rfl
@[simp] theorem State.arrive_keyBits (w : Waiting) : (s.arrive w).keyBits = s.keyBits := rfl
@[simp] theorem State.arrive_roots (w : Waiting) : (s.arrive w).roots = s.roots := rfl
@[simp] theorem State.arrive_granules (w : Waiting) : (s.arrive w).granules = s.granules := rfl
@[simp] theorem State.arrive_images (w : Waiting) : (s.arrive w).images = s.images := rfl
@[simp] theorem State.arrive_mem (w : Waiting) : (s.arrive w).mem =
    { s.mem with writes := s.mem.writes + w.writes } := rfl
@[simp] theorem State.arrive_tlb (w : Waiting) : (s.arrive w).tlb = s.tlb := rfl
@[simp] theorem State.arrive_swaps (w : Waiting) : (s.arrive w).swaps = s.swaps := rfl
@[simp] theorem State.arrive_calendar (w : Waiting) : (s.arrive w).calendar = s.calendar := rfl
@[simp] theorem State.arrive_capacity (w : Waiting) : (s.arrive w).capacity = s.capacity := rfl
@[simp] theorem State.arrive_ratios (w : Waiting) : (s.arrive w).ratios = s.ratios := rfl
@[simp] theorem State.arrive_ratioNext (w : Waiting) : (s.arrive w).ratioNext = s.ratioNext := rfl
@[simp] theorem State.arrive_arrivals (w : Waiting) : (s.arrive w).arrivals =
    s.arrivals ++ [{ w with stamp := s.mem.writes + 1 }] := rfl
@[simp] theorem State.arrive_waits (w : Waiting) : (s.arrive w).waits = s.waits := rfl
@[simp] theorem State.arrive_queues (w : Waiting) : (s.arrive w).queues = s.queues := rfl
@[simp] theorem State.arrive_turn (w : Waiting) : (s.arrive w).turn = s.turn := rfl
@[simp] theorem State.arrive_nodes (w : Waiting) : (s.arrive w).nodes = s.nodes := rfl
@[simp] theorem State.arrive_translations (w : Waiting) : (s.arrive w).translations = s.translations := rfl
@[simp] theorem State.arrive_teams (w : Waiting) : (s.arrive w).teams = s.teams := rfl
@[simp] theorem State.arrive_requests (w : Waiting) : (s.arrive w).requests = s.requests := rfl
@[simp] theorem State.arrive_jobs (w : Waiting) : (s.arrive w).jobs = s.jobs := rfl
@[simp] theorem State.arrive_executors (w : Waiting) : (s.arrive w).executors = s.executors := rfl
@[simp] theorem State.arrive_calls (w : Waiting) : (s.arrive w).calls = s.calls := rfl
@[simp] theorem State.arrive_drays (w : Waiting) : (s.arrive w).drays = s.drays := rfl
@[simp] theorem State.arrive_halves (w : Waiting) : (s.arrive w).halves = s.halves := rfl
@[simp] theorem State.arrive_stable (w : Waiting) : (s.arrive w).stable = s.stable := rfl
@[simp] theorem State.arrive_posts (w : Waiting) : (s.arrive w).posts = s.posts := rfl
@[simp] theorem State.arrive_ran (w : Waiting) : (s.arrive w).ran = s.ran := rfl
@[simp] theorem State.arrive_fresh (w : Waiting) : (s.arrive w).fresh = s.fresh := rfl
@[simp] theorem State.arrive_mgmt (w : Waiting) : (s.arrive w).mgmt = s.mgmt := rfl
@[simp] theorem State.arrive_mailbox (w : Waiting) : (s.arrive w).mailbox = s.mailbox := rfl
@[simp] theorem State.arrive_meas (w : Waiting) : (s.arrive w).meas = s.meas := rfl
@[simp] theorem State.arrive_found (w : Waiting) : (s.arrive w).found = s.found := rfl
@[simp] theorem State.arrive_ucie (w : Waiting) : (s.arrive w).ucie = s.ucie := rfl
@[simp] theorem State.arrive_fabricOn (w : Waiting) : (s.arrive w).fabricOn = s.fabricOn := rfl
@[simp] theorem State.arrive_life (w : Waiting) : (s.arrive w).life = s.life := rfl
@[simp] theorem State.arrive_lifeMram (w : Waiting) : (s.arrive w).lifeMram = s.lifeMram := rfl
@[simp] theorem State.arrive_relayed (w : Waiting) : (s.arrive w).relayed = s.relayed := rfl
@[simp] theorem State.arrive_relaySeq (w : Waiting) : (s.arrive w).relaySeq = s.relaySeq := rfl
@[simp] theorem State.arrive_peerHint (w : Waiting) : (s.arrive w).peerHint = s.peerHint := rfl
@[simp] theorem State.arrive_relayHint (w : Waiting) : (s.arrive w).relayHint = s.relayHint := rfl

/-! ### State.unpost -/

@[simp] theorem State.unpost_tick (l : Loc) : (s.unpost l).tick = s.tick := rfl
@[simp] theorem State.unpost_due (l : Loc) : (s.unpost l).due = s.due := rfl
@[simp] theorem State.unpost_now (l : Loc) : (s.unpost l).now = s.now := rfl
@[simp] theorem State.unpost_cur (l : Loc) : (s.unpost l).cur = s.cur := rfl
@[simp] theorem State.unpost_curSub (l : Loc) : (s.unpost l).curSub = s.curSub := rfl
@[simp] theorem State.unpost_mode (l : Loc) : (s.unpost l).mode = s.mode := rfl
@[simp] theorem State.unpost_slot (l : Loc) : (s.unpost l).slot = s.slot := rfl
@[simp] theorem State.unpost_epochs (l : Loc) : (s.unpost l).epochs = s.epochs := rfl
@[simp] theorem State.unpost_keys (l : Loc) : (s.unpost l).keys = s.keys := rfl
@[simp] theorem State.unpost_keyBits (l : Loc) : (s.unpost l).keyBits = s.keyBits := rfl
@[simp] theorem State.unpost_roots (l : Loc) : (s.unpost l).roots = s.roots := rfl
@[simp] theorem State.unpost_granules (l : Loc) : (s.unpost l).granules = s.granules := rfl
@[simp] theorem State.unpost_images (l : Loc) : (s.unpost l).images = s.images := rfl
@[simp] theorem State.unpost_mem (l : Loc) : (s.unpost l).mem = s.mem := rfl
@[simp] theorem State.unpost_tlb (l : Loc) : (s.unpost l).tlb = s.tlb := rfl
@[simp] theorem State.unpost_swaps (l : Loc) : (s.unpost l).swaps = s.swaps := rfl
@[simp] theorem State.unpost_calendar (l : Loc) : (s.unpost l).calendar = s.calendar := rfl
@[simp] theorem State.unpost_capacity (l : Loc) : (s.unpost l).capacity = s.capacity := rfl
@[simp] theorem State.unpost_ratios (l : Loc) : (s.unpost l).ratios = s.ratios := rfl
@[simp] theorem State.unpost_ratioNext (l : Loc) : (s.unpost l).ratioNext = s.ratioNext := rfl
@[simp] theorem State.unpost_arrivals (l : Loc) : (s.unpost l).arrivals = s.arrivals := rfl
@[simp] theorem State.unpost_waits (l : Loc) : (s.unpost l).waits = s.waits := rfl
@[simp] theorem State.unpost_queues (l : Loc) : (s.unpost l).queues = s.queues := rfl
@[simp] theorem State.unpost_turn (l : Loc) : (s.unpost l).turn = s.turn := rfl
@[simp] theorem State.unpost_nodes (l : Loc) : (s.unpost l).nodes = s.nodes := rfl
@[simp] theorem State.unpost_translations (l : Loc) : (s.unpost l).translations = s.translations := rfl
@[simp] theorem State.unpost_teams (l : Loc) : (s.unpost l).teams = s.teams := rfl
@[simp] theorem State.unpost_requests (l : Loc) : (s.unpost l).requests = s.requests := rfl
@[simp] theorem State.unpost_jobs (l : Loc) : (s.unpost l).jobs = s.jobs := rfl
@[simp] theorem State.unpost_executors (l : Loc) : (s.unpost l).executors = s.executors := rfl
@[simp] theorem State.unpost_calls (l : Loc) : (s.unpost l).calls = s.calls := rfl
@[simp] theorem State.unpost_drays (l : Loc) : (s.unpost l).drays = s.drays := rfl
@[simp] theorem State.unpost_halves (l : Loc) : (s.unpost l).halves = s.halves := rfl
@[simp] theorem State.unpost_stable (l : Loc) : (s.unpost l).stable = s.stable := rfl
@[simp] theorem State.unpost_posts (l : Loc) : (s.unpost l).posts =
    s.posts.filter fun p => !overlap [p.at_] [l.piece 1] := rfl
@[simp] theorem State.unpost_ran (l : Loc) : (s.unpost l).ran = s.ran := rfl
@[simp] theorem State.unpost_fresh (l : Loc) : (s.unpost l).fresh = s.fresh := rfl
@[simp] theorem State.unpost_mgmt (l : Loc) : (s.unpost l).mgmt = s.mgmt := rfl
@[simp] theorem State.unpost_mailbox (l : Loc) : (s.unpost l).mailbox = s.mailbox := rfl
@[simp] theorem State.unpost_meas (l : Loc) : (s.unpost l).meas = s.meas := rfl
@[simp] theorem State.unpost_found (l : Loc) : (s.unpost l).found = s.found := rfl
@[simp] theorem State.unpost_ucie (l : Loc) : (s.unpost l).ucie = s.ucie := rfl
@[simp] theorem State.unpost_fabricOn (l : Loc) : (s.unpost l).fabricOn = s.fabricOn := rfl
@[simp] theorem State.unpost_life (l : Loc) : (s.unpost l).life = s.life := rfl
@[simp] theorem State.unpost_lifeMram (l : Loc) : (s.unpost l).lifeMram = s.lifeMram := rfl
@[simp] theorem State.unpost_relayed (l : Loc) : (s.unpost l).relayed = s.relayed := rfl
@[simp] theorem State.unpost_relaySeq (l : Loc) : (s.unpost l).relaySeq = s.relaySeq := rfl
@[simp] theorem State.unpost_peerHint (l : Loc) : (s.unpost l).peerHint = s.peerHint := rfl
@[simp] theorem State.unpost_relayHint (l : Loc) : (s.unpost l).relayHint = s.relayHint := rfl

/-! ### State.post -/

@[simp] theorem State.post_tick (l : Loc) (n : Nat) (rs : List Release) : (s.post l n rs).tick = s.tick := by
  unfold State.post; split <;> rfl
@[simp] theorem State.post_due (l : Loc) (n : Nat) (rs : List Release) : (s.post l n rs).due = s.due := by
  unfold State.post; split <;> rfl
@[simp] theorem State.post_now (l : Loc) (n : Nat) (rs : List Release) : (s.post l n rs).now = s.now := by
  unfold State.post; split <;> rfl
@[simp] theorem State.post_cur (l : Loc) (n : Nat) (rs : List Release) : (s.post l n rs).cur = s.cur := by
  unfold State.post; split <;> rfl
@[simp] theorem State.post_curSub (l : Loc) (n : Nat) (rs : List Release) : (s.post l n rs).curSub = s.curSub := by
  unfold State.post; split <;> rfl
@[simp] theorem State.post_mode (l : Loc) (n : Nat) (rs : List Release) : (s.post l n rs).mode = s.mode := by
  unfold State.post; split <;> rfl
@[simp] theorem State.post_slot (l : Loc) (n : Nat) (rs : List Release) : (s.post l n rs).slot = s.slot := by
  unfold State.post; split <;> rfl
@[simp] theorem State.post_epochs (l : Loc) (n : Nat) (rs : List Release) : (s.post l n rs).epochs = s.epochs := by
  unfold State.post; split <;> rfl
@[simp] theorem State.post_keys (l : Loc) (n : Nat) (rs : List Release) : (s.post l n rs).keys = s.keys := by
  unfold State.post; split <;> rfl
@[simp] theorem State.post_keyBits (l : Loc) (n : Nat) (rs : List Release) : (s.post l n rs).keyBits = s.keyBits := by
  unfold State.post; split <;> rfl
@[simp] theorem State.post_roots (l : Loc) (n : Nat) (rs : List Release) : (s.post l n rs).roots = s.roots := by
  unfold State.post; split <;> rfl
@[simp] theorem State.post_granules (l : Loc) (n : Nat) (rs : List Release) : (s.post l n rs).granules = s.granules := by
  unfold State.post; split <;> rfl
@[simp] theorem State.post_images (l : Loc) (n : Nat) (rs : List Release) : (s.post l n rs).images = s.images := by
  unfold State.post; split <;> rfl
@[simp] theorem State.post_mem (l : Loc) (n : Nat) (rs : List Release) : (s.post l n rs).mem = s.mem := by
  unfold State.post; split <;> rfl
@[simp] theorem State.post_tlb (l : Loc) (n : Nat) (rs : List Release) : (s.post l n rs).tlb = s.tlb := by
  unfold State.post; split <;> rfl
@[simp] theorem State.post_swaps (l : Loc) (n : Nat) (rs : List Release) : (s.post l n rs).swaps = s.swaps := by
  unfold State.post; split <;> rfl
@[simp] theorem State.post_calendar (l : Loc) (n : Nat) (rs : List Release) : (s.post l n rs).calendar = s.calendar := by
  unfold State.post; split <;> rfl
@[simp] theorem State.post_capacity (l : Loc) (n : Nat) (rs : List Release) : (s.post l n rs).capacity = s.capacity := by
  unfold State.post; split <;> rfl
@[simp] theorem State.post_ratios (l : Loc) (n : Nat) (rs : List Release) : (s.post l n rs).ratios = s.ratios := by
  unfold State.post; split <;> rfl
@[simp] theorem State.post_ratioNext (l : Loc) (n : Nat) (rs : List Release) : (s.post l n rs).ratioNext = s.ratioNext := by
  unfold State.post; split <;> rfl
@[simp] theorem State.post_arrivals (l : Loc) (n : Nat) (rs : List Release) : (s.post l n rs).arrivals = s.arrivals := by
  unfold State.post; split <;> rfl
@[simp] theorem State.post_waits (l : Loc) (n : Nat) (rs : List Release) : (s.post l n rs).waits = s.waits := by
  unfold State.post; split <;> rfl
@[simp] theorem State.post_queues (l : Loc) (n : Nat) (rs : List Release) : (s.post l n rs).queues = s.queues := by
  unfold State.post; split <;> rfl
@[simp] theorem State.post_turn (l : Loc) (n : Nat) (rs : List Release) : (s.post l n rs).turn = s.turn := by
  unfold State.post; split <;> rfl
@[simp] theorem State.post_nodes (l : Loc) (n : Nat) (rs : List Release) : (s.post l n rs).nodes = s.nodes := by
  unfold State.post; split <;> rfl
@[simp] theorem State.post_translations (l : Loc) (n : Nat) (rs : List Release) : (s.post l n rs).translations = s.translations := by
  unfold State.post; split <;> rfl
@[simp] theorem State.post_teams (l : Loc) (n : Nat) (rs : List Release) : (s.post l n rs).teams = s.teams := by
  unfold State.post; split <;> rfl
@[simp] theorem State.post_requests (l : Loc) (n : Nat) (rs : List Release) : (s.post l n rs).requests = s.requests := by
  unfold State.post; split <;> rfl
@[simp] theorem State.post_jobs (l : Loc) (n : Nat) (rs : List Release) : (s.post l n rs).jobs = s.jobs := by
  unfold State.post; split <;> rfl
@[simp] theorem State.post_executors (l : Loc) (n : Nat) (rs : List Release) : (s.post l n rs).executors = s.executors := by
  unfold State.post; split <;> rfl
@[simp] theorem State.post_calls (l : Loc) (n : Nat) (rs : List Release) : (s.post l n rs).calls = s.calls := by
  unfold State.post; split <;> rfl
@[simp] theorem State.post_drays (l : Loc) (n : Nat) (rs : List Release) : (s.post l n rs).drays = s.drays := by
  unfold State.post; split <;> rfl
@[simp] theorem State.post_halves (l : Loc) (n : Nat) (rs : List Release) : (s.post l n rs).halves = s.halves := by
  unfold State.post; split <;> rfl
@[simp] theorem State.post_stable (l : Loc) (n : Nat) (rs : List Release) : (s.post l n rs).stable = s.stable := by
  unfold State.post; split <;> rfl
@[simp] theorem State.post_ran (l : Loc) (n : Nat) (rs : List Release) : (s.post l n rs).ran = s.ran := by
  unfold State.post; split <;> rfl
@[simp] theorem State.post_fresh (l : Loc) (n : Nat) (rs : List Release) : (s.post l n rs).fresh = s.fresh := by
  unfold State.post; split <;> rfl
@[simp] theorem State.post_mgmt (l : Loc) (n : Nat) (rs : List Release) : (s.post l n rs).mgmt = s.mgmt := by
  unfold State.post; split <;> rfl
@[simp] theorem State.post_mailbox (l : Loc) (n : Nat) (rs : List Release) : (s.post l n rs).mailbox = s.mailbox := by
  unfold State.post; split <;> rfl
@[simp] theorem State.post_meas (l : Loc) (n : Nat) (rs : List Release) : (s.post l n rs).meas = s.meas := by
  unfold State.post; split <;> rfl
@[simp] theorem State.post_found (l : Loc) (n : Nat) (rs : List Release) : (s.post l n rs).found = s.found := by
  unfold State.post; split <;> rfl
@[simp] theorem State.post_ucie (l : Loc) (n : Nat) (rs : List Release) : (s.post l n rs).ucie = s.ucie := by
  unfold State.post; split <;> rfl
@[simp] theorem State.post_fabricOn (l : Loc) (n : Nat) (rs : List Release) : (s.post l n rs).fabricOn = s.fabricOn := by
  unfold State.post; split <;> rfl
@[simp] theorem State.post_life (l : Loc) (n : Nat) (rs : List Release) : (s.post l n rs).life = s.life := by
  unfold State.post; split <;> rfl
@[simp] theorem State.post_lifeMram (l : Loc) (n : Nat) (rs : List Release) : (s.post l n rs).lifeMram = s.lifeMram := by
  unfold State.post; split <;> rfl
@[simp] theorem State.post_relayed (l : Loc) (n : Nat) (rs : List Release) : (s.post l n rs).relayed = s.relayed := by
  unfold State.post; split <;> rfl
@[simp] theorem State.post_relaySeq (l : Loc) (n : Nat) (rs : List Release) : (s.post l n rs).relaySeq = s.relaySeq := by
  unfold State.post; split <;> rfl
@[simp] theorem State.post_peerHint (l : Loc) (n : Nat) (rs : List Release) : (s.post l n rs).peerHint = s.peerHint := by
  unfold State.post; split <;> rfl
@[simp] theorem State.post_relayHint (l : Loc) (n : Nat) (rs : List Release) : (s.post l n rs).relayHint = s.relayHint := by
  unfold State.post; split <;> rfl

/-! ### State.relayDisp -/

@[simp] theorem State.relayDisp_tick (k : Nat) (d : Nat × Word) : (s.relayDisp k d).tick = s.tick := rfl
@[simp] theorem State.relayDisp_due (k : Nat) (d : Nat × Word) : (s.relayDisp k d).due = s.due := rfl
@[simp] theorem State.relayDisp_now (k : Nat) (d : Nat × Word) : (s.relayDisp k d).now = s.now := rfl
@[simp] theorem State.relayDisp_cur (k : Nat) (d : Nat × Word) : (s.relayDisp k d).cur = s.cur := rfl
@[simp] theorem State.relayDisp_curSub (k : Nat) (d : Nat × Word) : (s.relayDisp k d).curSub = s.curSub := rfl
@[simp] theorem State.relayDisp_mode (k : Nat) (d : Nat × Word) : (s.relayDisp k d).mode = s.mode := rfl
@[simp] theorem State.relayDisp_slot (k : Nat) (d : Nat × Word) : (s.relayDisp k d).slot = s.slot := rfl
@[simp] theorem State.relayDisp_epochs (k : Nat) (d : Nat × Word) : (s.relayDisp k d).epochs = s.epochs := rfl
@[simp] theorem State.relayDisp_keys (k : Nat) (d : Nat × Word) : (s.relayDisp k d).keys = s.keys := rfl
@[simp] theorem State.relayDisp_keyBits (k : Nat) (d : Nat × Word) : (s.relayDisp k d).keyBits = s.keyBits := rfl
@[simp] theorem State.relayDisp_roots (k : Nat) (d : Nat × Word) : (s.relayDisp k d).roots = s.roots := rfl
@[simp] theorem State.relayDisp_granules (k : Nat) (d : Nat × Word) : (s.relayDisp k d).granules = s.granules := rfl
@[simp] theorem State.relayDisp_images (k : Nat) (d : Nat × Word) : (s.relayDisp k d).images = s.images := rfl
@[simp] theorem State.relayDisp_mem (k : Nat) (d : Nat × Word) : (s.relayDisp k d).mem = s.mem := rfl
@[simp] theorem State.relayDisp_tlb (k : Nat) (d : Nat × Word) : (s.relayDisp k d).tlb = s.tlb := rfl
@[simp] theorem State.relayDisp_swaps (k : Nat) (d : Nat × Word) : (s.relayDisp k d).swaps = s.swaps := rfl
@[simp] theorem State.relayDisp_calendar (k : Nat) (d : Nat × Word) : (s.relayDisp k d).calendar = s.calendar := rfl
@[simp] theorem State.relayDisp_capacity (k : Nat) (d : Nat × Word) : (s.relayDisp k d).capacity = s.capacity := rfl
@[simp] theorem State.relayDisp_ratios (k : Nat) (d : Nat × Word) : (s.relayDisp k d).ratios = s.ratios := rfl
@[simp] theorem State.relayDisp_ratioNext (k : Nat) (d : Nat × Word) : (s.relayDisp k d).ratioNext = s.ratioNext := rfl
@[simp] theorem State.relayDisp_arrivals (k : Nat) (d : Nat × Word) : (s.relayDisp k d).arrivals = s.arrivals := rfl
@[simp] theorem State.relayDisp_waits (k : Nat) (d : Nat × Word) : (s.relayDisp k d).waits = s.waits := rfl
@[simp] theorem State.relayDisp_queues (k : Nat) (d : Nat × Word) : (s.relayDisp k d).queues = s.queues := rfl
@[simp] theorem State.relayDisp_turn (k : Nat) (d : Nat × Word) : (s.relayDisp k d).turn = s.turn := rfl
@[simp] theorem State.relayDisp_nodes (k : Nat) (d : Nat × Word) : (s.relayDisp k d).nodes = s.nodes := rfl
@[simp] theorem State.relayDisp_translations (k : Nat) (d : Nat × Word) : (s.relayDisp k d).translations = s.translations := rfl
@[simp] theorem State.relayDisp_teams (k : Nat) (d : Nat × Word) : (s.relayDisp k d).teams = s.teams := rfl
@[simp] theorem State.relayDisp_requests (k : Nat) (d : Nat × Word) : (s.relayDisp k d).requests = s.requests := rfl
@[simp] theorem State.relayDisp_jobs (k : Nat) (d : Nat × Word) : (s.relayDisp k d).jobs = s.jobs := rfl
@[simp] theorem State.relayDisp_executors (k : Nat) (d : Nat × Word) : (s.relayDisp k d).executors = s.executors := rfl
@[simp] theorem State.relayDisp_calls (k : Nat) (d : Nat × Word) : (s.relayDisp k d).calls = s.calls := rfl
@[simp] theorem State.relayDisp_drays (k : Nat) (d : Nat × Word) : (s.relayDisp k d).drays = s.drays := rfl
@[simp] theorem State.relayDisp_halves (k : Nat) (d : Nat × Word) : (s.relayDisp k d).halves = s.halves := rfl
@[simp] theorem State.relayDisp_stable (k : Nat) (d : Nat × Word) : (s.relayDisp k d).stable = s.stable := rfl
@[simp] theorem State.relayDisp_posts (k : Nat) (d : Nat × Word) : (s.relayDisp k d).posts = s.posts := rfl
@[simp] theorem State.relayDisp_ran (k : Nat) (d : Nat × Word) : (s.relayDisp k d).ran = s.ran := rfl
@[simp] theorem State.relayDisp_fresh (k : Nat) (d : Nat × Word) : (s.relayDisp k d).fresh = s.fresh := rfl
@[simp] theorem State.relayDisp_mgmt (k : Nat) (d : Nat × Word) : (s.relayDisp k d).mgmt = s.mgmt := rfl
@[simp] theorem State.relayDisp_mailbox (k : Nat) (d : Nat × Word) : (s.relayDisp k d).mailbox = s.mailbox := rfl
@[simp] theorem State.relayDisp_meas (k : Nat) (d : Nat × Word) : (s.relayDisp k d).meas = s.meas := rfl
@[simp] theorem State.relayDisp_found (k : Nat) (d : Nat × Word) : (s.relayDisp k d).found = s.found := rfl
@[simp] theorem State.relayDisp_ucie (k : Nat) (d : Nat × Word) : (s.relayDisp k d).ucie = s.ucie := rfl
@[simp] theorem State.relayDisp_fabricOn (k : Nat) (d : Nat × Word) : (s.relayDisp k d).fabricOn = s.fabricOn := rfl
@[simp] theorem State.relayDisp_life (k : Nat) (d : Nat × Word) : (s.relayDisp k d).life = s.life := rfl
@[simp] theorem State.relayDisp_lifeMram (k : Nat) (d : Nat × Word) : (s.relayDisp k d).lifeMram = s.lifeMram := rfl
@[simp] theorem State.relayDisp_relayed (k : Nat) (d : Nat × Word) : (s.relayDisp k d).relayed =
    Cells.modify s.relayed k fun r => { r with disp := some d } := rfl
@[simp] theorem State.relayDisp_relaySeq (k : Nat) (d : Nat × Word) : (s.relayDisp k d).relaySeq = s.relaySeq := rfl
@[simp] theorem State.relayDisp_peerHint (k : Nat) (d : Nat × Word) : (s.relayDisp k d).peerHint = s.peerHint := rfl
@[simp] theorem State.relayDisp_relayHint (k : Nat) (d : Nat × Word) : (s.relayDisp k d).relayHint = s.relayHint := rfl

end Sys2Proof.Machine
end

