-- ==== Sys2Proof/Machine/ZyasText.lean ====
section
/-!
DEFINITION. The source text of zyas: errors, lines, comments and tokens (spec/11_assembler.md R143 to R147).
A source file is its list of byte values. Names keep their case in their tokens; matching folds it (R146).
-/

namespace Sys2Proof.Machine.Zyas

/-- The conditions that the chapter of the assembly language calls errors (R143). Each is reported, and none stops a machine. -/
inductive Why where
  /-- A byte outside the text of R144. -/
  | badByte
  /-- A line of more than 1,024 characters (R144). -/
  | lineTooLong
  /-- A hash sign outside a string or a comment (R145). -/
  | hashSign
  /-- Text that is no token of R146. -/
  | badToken
  /-- A literal that breaks R147. -/
  | badLiteral
  /-- A string that breaks R147. -/
  | badString
  /-- A line that the grammar of R148 does not derive. -/
  | grammar
  /-- A symbol defined twice (R149, R161). -/
  | symbolTwice
  /-- A register name or keyword used as a symbol (R146). -/
  | symbolReserved
  /-- A symbol that nothing defines (R161). -/
  | undefinedSymbol
  /-- A symbol that depends on itself (R161). -/
  | selfDependent
  /-- A place that lies in no section: a label or the symbol `.` (R149, R161). -/
  | noSection
  /-- A range whose end lies below its start (R150). -/
  | rangeBackwards
  /-- A V register at or above the allotment (R150). -/
  | aboveAllotment
  /-- S56 to S63 in a lane instruction (R170). -/
  | highUniform
  /-- A name that is no mnemonic or directive. -/
  | unknownName
  /-- Operands that the instruction's description does not give (R151). -/
  | operand
  /-- A value outside its field (R161). -/
  | fieldRange
  /-- An option given twice (R151). -/
  | optionTwice
  /-- An option that the instruction, or the form written, does not accept (R151, R247, R251). -/
  | optionRefused
  /-- A required option left out (R151). -/
  | optionMissing
  /-- More than 24 instructions in a run (R152, R164). -/
  | runTooLong
  /-- A trailer with an empty run (R152). -/
  | emptyRun
  /-- A code section that does not end in a trailer (R152). -/
  | noTrailer
  /-- A run-closing instruction that is not the last of its run (R152, R175). -/
  | notLast
  /-- A slot named twice in one list (R153). -/
  | slotTwice
  /-- A T register read before its run has written it (R154). -/
  | tUnwritten
  /-- A branch target that is not the first instruction of a run (R155). -/
  | branchTarget
  /-- A switch marker on IMMX or RUNEND (R156). -/
  | switchMarker
  /-- An instruction, trailer or `.immx` outside `.code` (R157, R163). -/
  | outsideCode
  /-- A data directive outside `.const` and `.data` (R157, R160). -/
  | outsideData
  /-- Not exactly one `.kernel` and one `.endkernel`, or no instruction after `.kernel` (R158). -/
  | kernel
  /-- A launch directive or unit given twice (R158), or a tensor identifier or key given twice (R159). -/
  | repeated
  /-- A missing `.allot` (R158), or a missing fmt or dims (R159). -/
  | missing
  /-- An argument outside the limits of its directive (R158 to R160). -/
  | limits
  /-- Stage ranges that overlap (R158). -/
  | stageOverlap
  /-- Scratchpad and lane slices above 512 KiB (R76, R158). -/
  | scratchTooLarge
  /-- A template that R136 would refuse (R159). -/
  | template
  /-- Division or remainder by zero (R161). -/
  | divideByZero
  /-- A shift by a negative amount (R161). -/
  | negativeShift
  /-- The bounds of `bits` out of order (R161). -/
  | bitsBounds
  /-- A relocatable label used otherwise than R162 admits. -/
  | relocatable
  /-- An immediate outside its range, or one that needs an IMMX under `.immx off` (R163). -/
  | immediate
  /-- An explicit IMMX not before an instruction with an immediate field (R165). -/
  | immxPlace
  /-- An immediate after an explicit IMMX that is not raw field bits (R163, R165). -/
  | immxRaw
  /-- Sizes of data that never settle. -/
  | unsettled
  /-- What follows from an error that has been reported where it stands: it is in no report. -/
  | reported
  deriving DecidableEq, Repr

/-- One report: the line of the file and the condition (R143). -/
structure Err where
  line : Nat
  why : Why
  deriving DecidableEq, Repr

/-- A reading that goes on after an error, so that every error of a statement is reported (R143): the errors so far are its
state. -/
abbrev Chk := StateM (List Why)

/-- An error, and the value with which reading goes on. -/
def badAs {α : Type} (w : Why) (x : α) : Chk α := do
  modify fun l => l ++ [w]
  return x

def bad {α : Type} [Inhabited α] (w : Why) : Chk α := badAs w default

/-- A value goes on to a check unless its own reading has met an error. -/
def sound {α : Type} (x : Chk α) (f : α → Chk α) : Chk α := do
  let n := (← get).length
  let v ← x
  if (← get).length = n then f v else return v

/-- What has been read, and the errors found. -/
def checked {α : Type} (x : Chk α) : α × List Why := x.run []

/-- The tokens (R146). A float literal is the exact quotient of its decimal digits. -/
inductive Tok where
  | name (s : String)
  | dir (s : String)
  | int (n : Nat)
  | float (n d : Nat)
  | str (bytes : List Nat)
  | punc (s : String)
  /-- Text in error, which has been reported. -/
  | wrong
  deriving DecidableEq, Repr

def isDigit (c : Nat) : Bool := 48 ≤ c && c ≤ 57
def isLetter (c : Nat) : Bool := (65 ≤ c && c ≤ 90) || (97 ≤ c && c ≤ 122)
/-- A letter, digit or underscore. -/
def isWord (c : Nat) : Bool := isDigit c || isLetter c || c = 95
/-- The bytes of source text within a line (R144). -/
def isText (c : Nat) : Bool := c = 9 || c = 13 || (32 ≤ c && c ≤ 126)

def text (l : List Nat) : String := String.ofList (l.map Char.ofNat)

/-- A name with its capitals folded (R146). -/
def lower (s : String) : String := String.ofList (s.toList.map fun c => if 65 ≤ c.toNat && c.toNat ≤ 90 then Char.ofNat (c.toNat + 32) else c)

/-- How many characters a name takes: it stops before two periods, which are the range operator (R146, R148). -/
def nameLen : List Nat → Nat
  | [] => 0
  | c :: r => if isWord c || (c = 46 && r.head? ≠ some 46) then nameLen r + 1 else 0

/-- The value of one digit, above every base for another character. -/
def digit (c : Nat) : Nat := if isDigit c then c - 48 else if 97 ≤ c && c ≤ 122 then c - 87 else if 65 ≤ c && c ≤ 90 then c - 55 else 99

/-- Digits of a base, an underscore only between two of them (R147); `after` says that a digit stands before. -/
def digitsFrom (base : Nat) (after : Bool) (acc : Nat) : List Nat → Option Nat
  | [] => if after then some acc else none
  | c :: r =>
    if c = 95 then if after then digitsFrom base false acc r else none
    else if digit c < base then digitsFrom base true (acc * base + digit c) r else none

def digits (base : Nat) (l : List Nat) : Option Nat := digitsFrom base false 0 l

/-- An exponent: its sign, its digits and the text after it; nothing where no digit follows (R147). -/
def exponent (l : List Nat) : Option (Bool × List Nat × List Nat) :=
  let body := l.drop 1
  let signed := body.head? = some 43 || body.head? = some 45
  let ds := if signed then body.drop 1 else body
  let run := ds.takeWhile isDigit
  if (l.head? = some 101 || l.head? = some 69) && !run.isEmpty then some (body.head? = some 45, run, ds.drop run.length) else none

/-- A literal from its first digit on, and the text after it (R147). DESIGN CHOICE (log entry 53): `1.` is a float literal and
`.5` is none; an underscore may stand between digits of the whole and of the fraction, not of the exponent. -/
def number (l : List Nat) : Chk (Tok × List Nat) :=
  let run := l.takeWhile isWord
  let based (b : Nat) : Chk (Tok × List Nat) :=
    match digits b (run.drop 2) with
    | some n => pure (.int n, l.drop run.length)
    | none => badAs .badLiteral (.wrong, l.drop run.length)
  if l.take 2 = [48, 120] then based 16
  else if l.take 2 = [48, 98] then based 2
  else
    let whole := l.takeWhile fun c => isDigit c || c = 95
    let r := l.drop whole.length
    let point := r.head? = some 46 && (r.drop 1).head? ≠ some 46
    let frac := if point then (r.drop 1).takeWhile fun c => isDigit c || c = 95 else []
    let r := if point then r.drop (1 + frac.length) else r
    let ex := exponent r
    let rest := match ex with | some (_, _, t) => t | none => r
    if rest.head?.any isWord then badAs .badLiteral (.wrong, rest.dropWhile isWord)
    else
      match digits 10 whole, (if frac.isEmpty then some 0 else digits 10 frac) with
      | some w, some f =>
        let places := (frac.filter isDigit).length
        let m := w * 10 ^ places + f
        match ex with
        | some (neg, e, _) =>
          let e := (digits 10 e).getD 0
          pure (if neg then .float m (10 ^ (places + e)) else .float (m * 10 ^ e) (10 ^ places), rest)
        | none => pure (if point then .float m (10 ^ places) else .int w, rest)
      | _, _ => badAs .badLiteral (.wrong, rest)

/-- The escapes of one character (R147). -/
def escapeOf (c : Nat) : Option Nat :=
  match c with
  | 92 => some 92 | 34 => some 34 | 110 => some 10 | 116 => some 9 | 48 => some 0
  | _ => none

/-- A string after its opening quote, and the text after its closing one (R147). DESIGN CHOICE (log entry 53): a tab inside a
string is the character 0x09. -/
def string (acc : List Nat) : List Nat → Chk (List Nat × List Nat)
  | [] => badAs .badString (acc.reverse, [])
  | 34 :: r => pure (acc.reverse, r)
  | 92 :: 120 :: a :: b :: r => do
    if digit a < 16 && digit b < 16 then string ((16 * digit a + digit b) :: acc) r
    else do
      let _ : Nat ← bad .badString
      string acc (a :: b :: r)
  | 92 :: c :: r => match escapeOf c with
    | some b => string (b :: acc) r
    | none => do
      let _ : Nat ← bad .badString
      string acc r
  | c :: r =>
    if isText c then string (c :: acc) r
    else do
      let _ : Nat ← bad .badByte
      string acc r

/-- The operators of two characters (R161), and the range operator (R146). -/
def pairs : List String := ["<<", ">>", "==", "!=", "<=", ">=", "&&", "||", ".."]

/-- The punctuation of one character (R146). -/
def singles : List Nat := ":,=[]()+-*/%~!<>&^|.".toList.map Char.toNat

/-- The tokens of a line, up to its comment (R145, R146); a character in error is one token in error. The first number bounds the
steps. -/
def lexFrom : Nat → List Nat → Chk (List Tok)
  | 0, _ => pure []
  | _ + 1, [] => pure []
  | n + 1, c :: r =>
    if c = 59 || (c = 47 && r.head? = some 47) then pure []
    else if !isText c then do
      let t ← badAs .badByte Tok.wrong
      return t :: (← lexFrom n r)
    else if c = 32 || c = 9 then lexFrom n r
    else if c = 35 then do
      let t ← badAs .hashSign Tok.wrong
      return t :: (← lexFrom n r)
    else if c = 34 then do
      let (s, r) ← string [] r
      return .str s :: (← lexFrom n r)
    else if isLetter c || c = 95 then do
      let k := nameLen (c :: r)
      return .name (text ((c :: r).take k)) :: (← lexFrom n ((c :: r).drop k))
    else if isDigit c then do
      let (t, r) ← number (c :: r)
      return t :: (← lexFrom n r)
    else if c = 46 && r.head?.any isLetter then do
      let w := r.takeWhile fun c => isLetter c || isDigit c
      return .dir (lower (text w)) :: (← lexFrom n (r.drop w.length))
    else if (pairs.contains (text ((c :: r).take 2))) then do
      return .punc (text ((c :: r).take 2)) :: (← lexFrom n (r.drop 1))
    else if singles.contains c then do
      return .punc (text [c]) :: (← lexFrom n r)
    else do
      let t ← badAs .badToken Tok.wrong
      return t :: (← lexFrom n r)

/-- The lines of a file: each ends at LF, and a CR directly before an LF is dropped (R144). -/
def linesFrom (cur : List Nat) : List Nat → List (List Nat)
  | [] => if cur.isEmpty then [] else [cur.reverse]
  | 10 :: r => (if cur.head? = some 13 then cur.drop 1 else cur).reverse :: linesFrom [] r
  | c :: r => linesFrom (c :: cur) r

/-- The tokens of one line (R144 to R147). -/
def lexLine (l : List Nat) : Chk (List Tok) := do
  if 1024 < l.length then bad .lineTooLong
  lexFrom (l.length + 1) l

end Sys2Proof.Machine.Zyas
end

