-- ==== Sys2Proof/Machine/ZyasExpr.lean ====
section
/-!
DEFINITION. Expressions of zyas: their grammar, their exact values and relocatable labels (spec/11_assembler.md R148, R161,
R162).
-/

namespace Sys2Proof.Machine.Zyas

/-- The sections of a file (R157). -/
inductive Sec where
  | code | const | data
  deriving DecidableEq, Repr

/-- The binary operators (R161). -/
inductive Op where
  | mul | div | mod | add | sub | shl | shr | and | xor | or | eq | ne | lt | le | gt | ge | both | either
  deriving DecidableEq, Repr

/-- The unary operators (R161). -/
inductive Un where
  | neg | inv | not
  deriving DecidableEq, Repr

inductive Expr where
  | num (n : Nat)
  /-- The symbol `.`. -/
  | dot
  | sym (s : String)
  | un (o : Un) (x : Expr)
  | bin (o : Op) (x y : Expr)
  | bits (x hi lo : Expr)
  deriving DecidableEq, Repr, Inhabited

/-- An operator's token and its level (R161). -/
def opOf (s : String) : Option (Op × Nat) :=
  match s with
  | "*" => some (.mul, 2) | "/" => some (.div, 2) | "%" => some (.mod, 2)
  | "+" => some (.add, 3) | "-" => some (.sub, 3)
  | "<<" => some (.shl, 4) | ">>" => some (.shr, 4)
  | "&" => some (.and, 5) | "^" => some (.xor, 6) | "|" => some (.or, 7)
  | "==" => some (.eq, 8) | "!=" => some (.ne, 8) | "<" => some (.lt, 8) | "<=" => some (.le, 8) | ">" => some (.gt, 8)
  | ">=" => some (.ge, 8)
  | "&&" => some (.both, 9) | "||" => some (.either, 10)
  | _ => none

/-- Reads an expression of at most a level from the tokens, and gives the tokens after it. With a left part in hand it goes
on with the operators of that level and tighter, so that equal ones group from the left (R161). The first number bounds the
steps. -/
def parseFrom : Nat → Nat → Option Expr → List Tok → Option (Expr × List Tok)
  | 0, _, _, _ => none
  | _ + 1, _, none, [] => none
  | n + 1, l, none, t :: r =>
    match t with
    | .int k => parseFrom n l (some (.num k)) r
    | .punc "." => parseFrom n l (some .dot) r
    | .punc "-" => (parseFrom n 1 none r).bind fun p => parseFrom n l (some (.un .neg p.1)) p.2
    | .punc "~" => (parseFrom n 1 none r).bind fun p => parseFrom n l (some (.un .inv p.1)) p.2
    | .punc "!" => (parseFrom n 1 none r).bind fun p => parseFrom n l (some (.un .not p.1)) p.2
    | .punc "(" => (parseFrom n 10 none r).bind fun p =>
        match p.2 with
        | .punc ")" :: r => parseFrom n l (some p.1) r
        | _ => none
    | .name s =>
      match s == "bits", r with
      | true, .punc "(" :: r => (parseFrom n 10 none r).bind fun x =>
          match x.2 with
          | .punc "," :: r => (parseFrom n 10 none r).bind fun hi =>
              match hi.2 with
              | .punc "," :: r => (parseFrom n 10 none r).bind fun lo =>
                  match lo.2 with
                  | .punc ")" :: r => parseFrom n l (some (.bits x.1 hi.1 lo.1)) r
                  | _ => none
              | _ => none
          | _ => none
      | _, r => parseFrom n l (some (.sym s)) r
    | _ => none
  | _ + 1, _, some x, [] => some (x, [])
  | n + 1, l, some x, t :: r =>
    match t with
    | .punc s =>
      match opOf s with
      | some (o, k) =>
        if k ≤ l then (parseFrom n (k - 1) none r).bind fun p => parseFrom n l (some (.bin o x p.1)) p.2 else some (x, t :: r)
      | none => some (x, t :: r)
    | _ => some (x, t :: r)

/-- Tokens without those in error. -/
def sane (ts : List Tok) : List Tok := ts.filter (· ≠ .wrong)

/-- The error of tokens that cannot be read: what text in error has left of a statement is reported already. -/
def unread (ts : List Tok) : Why := if ts.contains .wrong then .reported else .grammar

/-- The tokens are one expression, text in error aside. -/
def parseExpr (ts : List Tok) : Chk Expr :=
  match parseFrom (2 * ts.length + 2) 10 none (sane ts) with
  | some (e, []) => pure e
  | _ => bad (unread ts)

/-- The symbols that an expression names. -/
def Expr.syms : Expr → List String
  | .num _ => [] | .dot => []
  | .sym s => [s]
  | .un _ x => x.syms
  | .bin _ x y => x.syms ++ y.syms
  | .bits x hi lo => x.syms ++ hi.syms ++ lo.syms

/-! ### Values -/

/-- A value: its number, from the base of a data section where it is relocatable (R162). -/
structure Val where
  n : Int
  rel : Option Sec := none
  deriving DecidableEq, Repr, Inhabited

/-- Bitwise AND on infinite two's complement (R161). -/
def intAnd : Int → Int → Int
  | .ofNat a, .ofNat b => .ofNat (a &&& b)
  | .ofNat a, .negSucc b => .ofNat (a - (a &&& b))
  | .negSucc a, .ofNat b => .ofNat (b - (a &&& b))
  | .negSucc a, .negSucc b => .negSucc (a ||| b)

/-- ~x = −x − 1 (R161). -/
def intNot (x : Int) : Int := -x - 1

def intOr (a b : Int) : Int := intNot (intAnd (intNot a) (intNot b))
def intXor (a b : Int) : Int := intOr a b - intAnd a b

def truth (b : Bool) : Int := if b then 1 else 0

/-- The operators on constants: division and remainder are those of R15 (R161). -/
def Op.ints (o : Op) (a b : Int) : Chk Int :=
  match o with
  | .mul => pure (a * b)
  | .div => if b = 0 then badAs .divideByZero 1 else pure (a / b)
  | .mod => if b = 0 then badAs .divideByZero 1 else pure (a % b)
  | .add => pure (a + b)
  | .sub => pure (a - b)
  | .shl => if b < 0 then bad .negativeShift else pure (a * 2 ^ b.toNat)
  | .shr => if b < 0 then bad .negativeShift else pure (a / 2 ^ b.toNat)
  | .and => pure (intAnd a b)
  | .xor => pure (intXor a b)
  | .or => pure (intOr a b)
  | .eq => pure (truth (a = b))
  | .ne => pure (truth (a ≠ b))
  | .lt => pure (truth (a < b))
  | .le => pure (truth (a ≤ b))
  | .gt => pure (truth (b < a))
  | .ge => pure (truth (b ≤ a))
  | .both => pure (truth (a ≠ 0 && b ≠ 0))
  | .either => pure (truth (a ≠ 0 || b ≠ 0))

/-- The operators on values: only a relocatable value plus or minus a constant, and the difference of two in one section, are
admitted (R162). -/
def Op.apply (o : Op) (a b : Val) : Chk Val :=
  match a.rel, b.rel with
  | none, none => do return { n := ← o.ints a.n b.n }
  | some x, none => if o = .add || o = .sub then do return { n := ← o.ints a.n b.n, rel := some x } else bad .relocatable
  | none, some y => if o = .add then pure { n := a.n + b.n, rel := some y } else bad .relocatable
  | some x, some y => if o = .sub && x = y then pure { n := a.n - b.n } else bad .relocatable

/-- A value that must be a constant. -/
def Val.const (v : Val) : Chk Int := if v.rel.isSome then bad .relocatable else pure v.n

/-- The value of an expression, where `look` gives the symbols and `dot` the symbol `.` (R161, R162). -/
def Expr.eval (look : String → Chk Val) (dot : Chk Int) : Expr → Chk Val
  | .num n => pure { n := n }
  | .dot => do return { n := ← dot }
  | .sym s => look s
  | .un o x => do
    let v ← (← x.eval look dot).const
    return { n := match o with | .neg => -v | .inv => intNot v | .not => truth (v = 0) }
  | .bin o x y => do
    let a ← x.eval look dot
    let b ← y.eval look dot
    o.apply a b
  | .bits x hi lo => do
    let v ← (← x.eval look dot).const
    let h ← (← hi.eval look dot).const
    let l ← (← lo.eval look dot).const
    if l < 0 || h < l then bad .bitsBounds else return { n := v / 2 ^ l.toNat % 2 ^ (h - l + 1).toNat }

end Sys2Proof.Machine.Zyas
end

