-- ==== Sys2Proof/Machine/ZyasForms.lean ====
section
/-!
DEFINITION. Operands and options of zyas, and the instruction that each assembly form writes (spec/11_assembler.md R146, R148,
R150, R151, R153; spec/13_encoding.md R169, R170, R173; the assembly forms of spec/14 to spec/18 and spec/27).
A register that its field can code is accepted: what the device traps as ILLEGAL is no error of the assembler unless a rule
says so (log entry 51).
-/

namespace Sys2Proof.Machine.Zyas

/-! ### Registers and keywords -/

/-- The registers by kind (R150). -/
inductive Reg where
  | v (n : Nat) | s (n : Nat) | t (n : Nat) | m (n : Nat) | w (n : Nat) | pd (n : Nat) | e (n : Nat)
  | exec
  /-- A system register by its number (R215). -/
  | sys (n : Nat)
  deriving DecidableEq, Repr, Inhabited

/-- The system registers (R215). -/
def sysNames : List (String × Nat) :=
  [("coord", 0x0000), ("teamcrd", 0x0001), ("lanexy", 0x0002), ("ctxctl", 0x0003), ("owner", 0x0004), ("memgrant", 0x0005),
   ("mstr", 0x0006), ("tags", 0x0008), ("vi", 0x0009), ("tbase", 0x0010), ("frbuf", 0x0011), ("slice", 0x0018),
   ("etol", 0x0020), ("ecap", 0x0021)]

/-- The number in a register name after its kind, below a limit and without a leading zero. -/
def numbered (limit : Nat) (l : List Char) : Option Nat :=
  match digits 10 (l.map Char.toNat) with
  | some n => if l.all Char.isDigit && (l.length = 1 || l.head? ≠ some '0') && n < limit then some n else none
  | none => none

/-- The register that a name names, in either case (R146, R150). -/
def regOf (s : String) : Option Reg :=
  let x := lower s
  match x.toList with
  | 'v' :: r => ((numbered 192 r).map .v).orElse fun _ => (sysNames.lookup x).map .sys
  | 's' :: r => ((numbered 64 r).map .s).orElse fun _ => (sysNames.lookup x).map .sys
  | 't' :: r => ((numbered 8 r).map .t).orElse fun _ => (sysNames.lookup x).map .sys
  | 'm' :: r => ((numbered 8 r).map .m).orElse fun _ => (sysNames.lookup x).map .sys
  | 'w' :: r => (numbered 8 r).map .w
  | 'p' :: 'd' :: r => (numbered 8 r).map .pd
  | 'e' :: r => ((numbered 16 r).map .e).orElse fun _ => if x = "exec" then some .exec else (sysNames.lookup x).map .sys
  | _ => (sysNames.lookup x).map .sys

/-- A table of keywords with their codes. -/
abbrev Keys := List (String × Nat)

def hintKeys : Keys := [("default", 0), ("stream", 1), ("sticky", 2), ("bypass", 3)]
def scopeKeys : Keys := [("coach", 0), ("team", 1), ("core", 2), ("cluster", 3), ("tower", 4), ("chip", 5), ("system", 6)]
def orderKeys : Keys := [("plain", 0), ("acq", 1), ("rel", 2), ("ar", 3)]
def modeKeys : Keys := [("rne", 0), ("rz", 1), ("rp", 2), ("rn", 3)]
/-- Directions (R270). -/
def dirKeys : Keys := [("north", 0), ("south", 1), ("west", 2), ("east", 3)]
/-- The axis of a direction (R270). -/
def axisKeys : Keys := [("north", 0), ("south", 0), ("west", 1), ("east", 1)]
/-- Combinations (R270). -/
def foldKeys : Keys := [("add", 0), ("max", 1), ("min", 2)]
def foldingKeys : Keys := [("stacked", 0), ("crinkled", 1)]
/-- The spaces, by their WH codes (R148, R169). -/
def spaceKeys : Keys := [("global", 0), ("lane", 4), ("core", 5), ("cluster", 6), ("chip", 7)]
/-- Copy layers (R92, R256). -/
def layerKeys : Keys := [("scratch", 0), ("overhead", 1), ("cluster", 2), ("chip", 3), ("global", 4)]
/-- Transforms (R93, R256). -/
def xformKeys : Keys := [("none", 0), ("scale", 1), ("add", 2), ("cast", 3), ("radd", 4), ("rmax", 5), ("rmin", 6)]
/-- Formats of CVT (R185, R236). -/
def cvtKeys : Keys :=
  [("fp32", 0), ("bf16", 1), ("fp16", 2), ("e4m3", 3), ("e5m2", 4), ("int8", 5), ("int16", 6), ("int32", 7)]

/-- The keywords of R151 and R147, which no symbol may use (R146). -/
def keywords : List String :=
  (hintKeys ++ scopeKeys ++ orderKeys ++ modeKeys ++ dirKeys ++ foldKeys ++ foldingKeys).map Prod.fst ++ ["inf", "nan"]

/-- A name that may be a symbol (R146). -/
def symbolName (s : String) : Bool := (regOf s).isNone && !keywords.contains (lower s)

/-! ### Operands -/

/-- A positional operand (R148). -/
inductive Arg where
  | reg (r : Reg)
  /-- A name that is no register: a keyword or a symbol, as the form takes it. -/
  | word (s : String)
  | range (a b : Nat)
  /-- V[VI + k]. -/
  | vi (k : Expr)
  /-- A space, its base register where one is named, and the offset or address. -/
  | mem (space : Nat) (base : Option Reg) (off : Expr)
  | expr (e : Expr)
  /-- An operand in error, which has been reported: any form takes it. -/
  | wrong
  deriving DecidableEq, Repr, Inhabited

/-- The items of a list, separated by a token outside parentheses and brackets; `depth` counts those open. -/
def splitAt' (sep : String) : Nat → List Tok → List Tok → List (List Tok)
  | _, cur, [] => [cur.reverse]
  | d, cur, .punc p :: r =>
    if p = sep && d = 0 then cur.reverse :: splitAt' sep 0 [] r
    else splitAt' sep (if p = "(" || p = "[" then d + 1 else if p = ")" || p = "]" then d - 1 else d) (.punc p :: cur) r
  | d, cur, t :: r => splitAt' sep d (t :: cur) r

/-- The operands of a statement; none of them may be empty (R148). -/
def groups (sep : String) (ts : List Tok) : Chk (List (List Tok)) :=
  if ts.isEmpty then pure []
  else (splitAt' sep 0 [] ts).mapM fun g => if g.isEmpty then badAs .grammar [.wrong] else pure g

/-- A signed offset after a register: what follows the sign is one expression (R148). -/
def offsetOf : List Tok → Chk Expr
  | [] => pure (.num 0)
  | .punc "+" :: r => parseExpr r
  | .punc "-" :: r => do return .un .neg (← parseExpr r)
  | _ => bad .grammar

/-- Drops the closing bracket that ends an operand. -/
def unclose (r : List Tok) : Chk (List Tok) :=
  if r.getLast? = some (.punc "]") then pure r.dropLast else bad .grammar

/-- One positional operand without text in error (R148). -/
def saneArg (ts : List Tok) : Chk Arg :=
  match ts with
  | [.name s] => pure (match regOf s with | some r => .reg r | none => .word s)
  | [.name a, .punc "..", .name b] =>
    match regOf a, regOf b with
    | some (.v a), some (.v b) => pure (.range a b)
    | _, _ => bad .grammar
  | .punc "[" :: .name sp :: .punc ":" :: r => do
    let inner ← unclose r
    match spaceKeys.lookup (lower sp), inner with
    | some w, .name b :: off =>
      match regOf b with
      | some g => return .mem w (some g) (← offsetOf off)
      | none => return .mem w none (← parseExpr inner)
    | some w, _ => return .mem w none (← parseExpr inner)
    | none, _ => bad .grammar
  | .name v :: .punc "[" :: .name x :: r => do
    if lower v ≠ "v" || lower x ≠ "vi" then bad .grammar
    return .vi (← offsetOf (← unclose r))
  | _ => do return .expr (← parseExpr ts)

/-- One positional operand (R148); what text in error leaves of it, if it can be read. -/
def parseArg (ts : List Tok) : Chk Arg :=
  match checked (saneArg (sane ts)) with
  | (a, []) => pure a
  | (_, e) => do
    if !ts.contains .wrong then modify fun l => l ++ e
    return .wrong

/-- The error of an operand that a form does not take there. -/
def Arg.why (a : Arg) : Why := if a = .wrong then .reported else .operand

/-- An operand as an expression. -/
def Arg.asExpr : Arg → Chk Expr
  | .word s => pure (.sym s)
  | .expr e => pure e
  | a => bad a.why

/-! ### Options -/

/-- Options with their values' tokens. -/
abbrev Opts := List (String × List Tok)

/-- Operands and options of an instruction: options stand last, each key once (R151). -/
def splitOpts : List (List Tok) → Chk (List (List Tok) × Opts)
  | [] => pure ([], [])
  | g :: r => do
    let (ps, os) ← splitOpts r
    match g with
    | .name k :: .punc "=" :: v =>
      if v.isEmpty then badAs .grammar (ps, (lower k, [.wrong]) :: os)
      else if !ps.isEmpty then badAs .grammar (ps, (lower k, v) :: os)
      else if os.any fun o => o.1 = lower k then badAs .optionTwice (ps, os)
      else return (ps, (lower k, v) :: os)
    | _ => return (g :: ps, os)

/-- What an instruction is read with: the values of expressions under the present layout, and the allotment. -/
structure Ctx where
  ev : Expr → Chk Val
  allot : Nat

/-- Refuses every key outside a list (R151). -/
def Opts.only (o : Opts) (keys : List String) : Chk Unit :=
  if o.all fun p => keys.contains p.1 then pure () else bad .optionRefused

/-- The keyword value of an option. -/
def Opts.key? (o : Opts) (k : String) (t : Keys) : Chk (Option Nat) :=
  match o.lookup k with
  | none => pure none
  | some ts => match sane ts with
    | [.name s] => match t.lookup (lower s) with
      | some n => pure (some n)
      | none => badAs .operand (some 0)
    | _ => badAs (if ts.contains .wrong then .reported else .operand) (some 0)

def Opts.key (o : Opts) (k : String) (t : Keys) : Chk Nat := do return (← o.key? k t).getD 0

/-- A keyword value that must be given (R151). -/
def Opts.need (o : Opts) (k : String) (t : Keys) : Chk Nat := do
  match ← o.key? k t with
  | some n => return n
  | none => bad .optionMissing

/-- The number of an expression, from `lo` to `hi` (R161). -/
def Ctx.num (c : Ctx) (lo hi : Int) (e : Expr) : Chk Int :=
  sound (do (← c.ev e).const) fun v => if lo ≤ v && v ≤ hi then pure v else badAs .fieldRange lo

/-- The numeric value of an option, 0 to `hi`. -/
def Opts.num? (o : Opts) (c : Ctx) (k : String) (hi : Nat) : Chk (Option Nat) :=
  match o.lookup k with
  | none => pure none
  | some ts => do return some (← c.num 0 hi (← parseExpr ts)).toNat

/-- An option of one bit, 0 by default. -/
def Opts.bit (o : Opts) (c : Ctx) (k : String) : Chk (BitVec 1) := do return BitVec.ofNat 1 ((← o.num? c k 1).getD 0)

/-- An option of one bit that must be given (R151). -/
def Opts.needBit (o : Opts) (c : Ctx) (k : String) : Chk (BitVec 1) := do
  match ← o.num? c k 1 with
  | some n => return BitVec.ofNat 1 n
  | none => bad .optionMissing

def Opts.tag (o : Opts) (c : Ctx) : Chk (BitVec 6) := do
  match ← o.num? c "tag" 63 with
  | some n => return BitVec.ofNat 6 n
  | none => bad .optionMissing

/-! ### Operand fields -/

/-- A V register below the allotment (R150). -/
def Ctx.v (c : Ctx) (n : Nat) : Chk Nat := if n < c.allot then pure n else bad .aboveAllotment

/-- The 8-bit register field of an operand in a lane or a uniform instruction (R170). -/
def Ctx.field (c : Ctx) (lane : Bool) (a : Arg) : Chk (BitVec 8) :=
  match a with
  | .reg (.v n) => do return BitVec.ofNat 8 (← c.v n)
  | .reg (.s n) => if lane && 56 ≤ n then bad .highUniform else pure (BitVec.ofNat 8 (192 + n))
  | .reg (.t n) => if lane then pure (BitVec.ofNat 8 (248 + n)) else bad .operand
  | a => bad a.why

/-- V0 to V63 in a 6-bit field (R169). -/
def Ctx.v6 (c : Ctx) (a : Arg) : Chk (BitVec 6) :=
  match a with
  | .reg (.v n) => do if (← c.v n) < 64 then return BitVec.ofNat 6 n else bad .fieldRange
  | a => bad a.why

def s6 (a : Arg) : Chk (BitVec 6) := match a with | .reg (.s n) => pure (BitVec.ofNat 6 n) | a => bad a.why
def mask3 (a : Arg) : Chk (BitVec 3) := match a with | .reg (.m n) => pure (BitVec.ofNat 3 n) | a => bad a.why
def plane3 (a : Arg) : Chk (BitVec 3) := match a with | .reg (.pd n) => pure (BitVec.ofNat 3 n) | a => bad a.why
def env4 (a : Arg) : Chk (BitVec 4) := match a with | .reg (.e n) => pure (BitVec.ofNat 4 n) | a => bad a.why

/-- A keyword operand. -/
def keyArg (t : Keys) (a : Arg) : Chk Nat :=
  match a with
  | .word s => match t.lookup (lower s) with
    | some n => pure n
    | none => bad .operand
  | a => bad a.why

/-- A number operand, from `lo` to `hi`. -/
def Ctx.numArg (c : Ctx) (lo hi : Int) (a : Arg) : Chk Int :=
  match a with
  | .wrong => badAs .reported lo
  | a => sound (do (← c.ev (← a.asExpr)).const) fun v => if lo ≤ v && v ≤ hi then pure v else badAs .fieldRange lo

def Ctx.nat (c : Ctx) (w : Nat) (hi : Nat) (a : Arg) : Chk (BitVec w) := do
  return BitVec.ofNat w (← c.numArg 0 hi a).toNat

/-- The code k of V[VI + k] (R239), of which only the range is checked (R240). -/
def Ctx.viArg (c : Ctx) (a : Arg) : Chk (BitVec 8) :=
  match a with
  | .vi e => do return BitVec.ofInt 8 (← c.num (-128) 127 e)
  | a => bad a.why

/-- A system register's number (R214). -/
def sysArg (a : Arg) : Chk (BitVec 16) := match a with | .reg (.sys n) => pure (BitVec.ofNat 16 n) | a => bad a.why

/-! ### Drafts -/

/-- An instruction as written: its immediate field is zero and its immediate's value stands beside it. -/
structure Draft where
  instr : Instr
  imm : Option Val := none
  /-- An address in absolute form, which always takes a prefixing IMMX (R163). -/
  absolute : Bool := false
  /-- The symbol that a branch or call names as its target (R155). -/
  target : Option String := none
  /-- The registers that it reads and writes, by their field values, for the T registers (R154). -/
  reads : List (BitVec 8) := []
  writes : List (BitVec 8) := []
  deriving DecidableEq, Repr, Inhabited

def plain (i : Instr) : Draft := { instr := i }

/-- The `n` registers that a field names: a pair or block of T registers stays within them (R154, R170). -/
def regs (f : BitVec 8) (n : Nat) : List (BitVec 8) :=
  f :: if 248 ≤ f.toNat then ((List.range n).map (f.toNat + ·)).filterMap fun k =>
    if f.toNat < k && k < 256 then some (BitVec.ofNat 8 k) else none else []

/-- Registers of an address: a pair in GLOBAL, one in any other space (R242). -/
def baseRegs (space : Nat) (f : BitVec 8) : List (BitVec 8) := regs f (if space = 0 then 2 else 1)

/-- Registers that the data of a load or a store takes, by the last letter of its mnemonic (R245, R247, R248). -/
def dataRegs (m : String) (f : BitVec 8) : List (BitVec 8) :=
  regs f (match m.toList.getLast? with | some 'd' => 2 | some 'q' => 4 | _ => 1)

/-- Three registers (R192, R224). -/
abbrev Rrr := Bool → BitVec 8 → BitVec 8 → BitVec 8 → Instr

def uniformRrr : List (String × Rrr) :=
  [("uadd", .uadd), ("usub", .usub), ("umul", .umul), ("umulh", .umulh), ("umulhu", .umulhu), ("udiv", .udiv), ("urem", .urem),
   ("uand", .uand), ("uor", .uor), ("uxor", .uxor), ("ushl", .ushl), ("ushr", .ushr), ("usar", .usar), ("umin", .umin),
   ("umax", .umax), ("uceq", .uceq), ("uclt", .uclt), ("ucltu", .ucltu), ("usel", .usel), ("uaddp", .uaddp)]

def laneRrr : List (String × Rrr) :=
  [("iadd", .iadd), ("isub", .isub), ("imul", .imul), ("imulh", .imulh), ("imulhu", .imulhu), ("imin", .imin), ("imax", .imax),
   ("iand", .iand), ("ior", .ior), ("ixor", .ixor), ("ishl", .ishl), ("ishr", .ishr), ("isar", .isar), ("iceq", .iceq),
   ("iclt", .iclt), ("icltu", .icltu), ("p8add", .p8add), ("p8sub", .p8sub), ("p8max", .p8max), ("p8min", .p8min),
   ("p16add", .p16add), ("p16sub", .p16sub), ("p16mul", .p16mul), ("fadd", .fadd), ("fsub", .fsub), ("fmul", .fmul),
   ("fmin", .fmin), ("fmax", .fmax), ("fceq", .fceq), ("fclt", .fclt), ("fcle", .fcle), ("hadd2", .hadd2), ("badd2", .badd2),
   ("lpull", .lpull)]

/-- The lane forms that read their D register too (R225, R232, R234). -/
def laneRmw : List (String × Rrr) := [("isel", .isel), ("ffma", .ffma), ("hfma2", .hfma2), ("bfma2", .bfma2)]

/-- The immediate majors of R173, their fields zero. -/
def uniformImm : List (String × Rrr) := [("uadd", .uaddImm), ("uand", .uandImm), ("uor", .uorImm), ("uaddp", .uaddpi)]
def laneImm : List (String × Rrr) := [("iadd", .iaddImm), ("iand", .iandImm), ("ior", .iorImm)]

/-- Shifts by an expression of 6 bits (R197, R227) and of 5 bits (R230). -/
def shifts : List (String × Bool × (Bool → BitVec 8 → BitVec 8 → BitVec 6 → Instr)) :=
  [("ushl", false, .ushlImm), ("ushr", false, .ushrImm), ("usar", false, .usarImm),
   ("ishl", true, .ishlImm), ("ishr", true, .ishrImm), ("isar", true, .isarImm)]
def packedShifts : List (String × (Bool → BitVec 8 → BitVec 8 → BitVec 5 → Instr)) :=
  [("p8shl", .p8shl), ("p8shr", .p8shr), ("p8sar", .p8sar), ("p16shl", .p16shl), ("p16shr", .p16shr), ("p16sar", .p16sar)]

/-- Functions of one operand (R235). -/
def functions : List (String × (Bool → BitVec 8 → BitVec 8 → Instr)) :=
  [("exp2", .exp2), ("log2", .log2), ("rcp", .rcp), ("rsqrt", .rsqrt), ("sin", .sin), ("cos", .cos)]

/-- The three-operand forms: by R173 the last operand chooses between a register and an immediate major. -/
def formAlu (c : Ctx) (sw : Bool) (m : String) (d a b : Arg) : Chk Draft := do
  let lane := (laneRrr ++ laneRmw).any (fun p => p.1 = m) || packedShifts.any fun p => p.1 = m
  let fd ← c.field lane d
  let fa ← c.field lane a
  let lanes (i : Draft) (reads : List (BitVec 8)) : Draft := if lane then { i with reads := reads, writes := [fd] } else i
  match b, packedShifts.lookup m with
  | _, some f => return lanes (plain (f sw fd fa (← c.nat 5 31 b))) [fa]
  | .reg r, none =>
    let fb ← c.field lane (.reg r)
    match (uniformRrr ++ laneRrr).lookup m, laneRmw.lookup m with
    | some f, _ => return lanes (plain (f sw fd fa fb)) [fa, fb]
    | none, some f => return lanes (plain (f sw fd fa fb)) [fd, fa, fb]
    | none, none => bad .operand
  | _, none =>
    match shifts.lookup m, (uniformImm ++ laneImm).lookup m with
    | some (_, f), _ => return lanes (plain (f sw fd fa (← c.nat 6 63 b))) [fa]
    | none, some f => return lanes { instr := f sw fd fa 0, imm := some (← c.ev (← b.asExpr)) } [fa]
    | none, none => badAs b.why (lanes (plain (.iadd sw fd fa 0)) [fa])

/-! ### Memory forms -/

/-- MEM-plain and MEM-ordered instructions (R169), from D, A, WH and ABS or SC. -/
abbrev MemPlain := Bool → BitVec 8 → BitVec 8 → BitVec 3 → BitVec 1 → Instr
abbrev MemOrdered := Bool → BitVec 8 → BitVec 8 → BitVec 3 → BitVec 3 → Instr

/-- The loads and stores of R245 with their ordered twins (R247): whether lane, whether a store. -/
def memForms : List (String × Bool × Bool × MemPlain × Option MemOrdered) :=
  [("ldb", true, false, .ldb, none), ("ldh", true, false, .ldh, none), ("ldw", true, false, .ldw, some .ldwAcq),
   ("ldd", true, false, .ldd, some .lddAcq), ("ldq", true, false, .ldq, none), ("stb", true, true, .stb, none),
   ("sth", true, true, .sth, none), ("stw", true, true, .stw, some .stwRel), ("std", true, true, .std, some .stdRel),
   ("stq", true, true, .stq, none), ("uldb", false, false, .uldb, none), ("uldh", false, false, .uldh, none),
   ("uldw", false, false, .uldw, some .uldwAcq), ("uldd", false, false, .uldd, some .ulddAcq),
   ("uldq", false, false, .uldq, none), ("ustb", false, true, .ustb, none), ("usth", false, true, .usth, none),
   ("ustw", false, true, .ustw, some .ustwRel), ("ustd", false, true, .ustd, some .ustdRel), ("ustq", false, true, .ustq, none)]

/-- The load-consumes (R248). -/
def consumeForms : List (String × Bool × MemOrdered) :=
  [("ldcw", true, .ldcw), ("ldcd", true, .ldcd), ("uldcw", false, .uldcw), ("uldcd", false, .uldcd)]

/-- The atomics (R249). -/
def laneAtoms : List (String × (Bool → BitVec 6 → BitVec 8 → BitVec 3 → BitVec 2 → BitVec 3 → Instr)) :=
  [("aadd", .aadd), ("amin", .amin), ("amax", .amax), ("aand", .aand), ("aor", .aor), ("axor", .axor), ("axchg", .axchg),
   ("acas", .acas)]
def uniformAtoms : List (String × (Bool → BitVec 6 → BitVec 6 → BitVec 3 → BitVec 2 → BitVec 3 → Instr)) :=
  [("uaadd", .uaadd), ("uamin", .uamin), ("uamax", .uamax), ("uaand", .uaand), ("uaor", .uaor), ("uaxor", .uaxor),
   ("uaxchg", .uaxchg), ("uacas", .uacas)]

/-- WH of a space and a hint: only GLOBAL carries a hint (R169, R245). -/
def whOf (space hint : Nat) : BitVec 3 := BitVec.ofNat 3 (if space = 0 then hint else space)

/-- A memory operand with a base register: its space, the register and the offset. -/
def baseOf (a : Arg) : Chk (Nat × Arg × Expr) :=
  match a with
  | .mem sp (some r) off => pure (sp, .reg r, off)
  | a => badAs a.why (0, .wrong, .num 0)

/-- Loads and stores (R245, R247): `order=` chooses between the plain and the ordered major. -/
def formMem (c : Ctx) (sw : Bool) (m : String) (lane store : Bool) (f : MemPlain) (g : Option MemOrdered) (d a : Arg) (o : Opts) :
    Chk Draft := do
  let fd ← c.field lane d
  let hint ← o.key "hint" hintKeys
  let order ← o.key "order" orderKeys
  let uses (i : Draft) (base : List (BitVec 8)) : Draft :=
    if !lane then i else if store then { i with reads := dataRegs m fd ++ base } else { i with reads := base, writes := dataRegs m fd }
  if order = 0 then do
    o.only ["hint", "order"]
    match a with
    | .mem sp (some r) off =>
      let fr ← c.field lane (.reg r)
      return uses { instr := f sw fd fr (whOf sp hint) 0, imm := some (← c.ev off) } (baseRegs sp fr)
    | .mem sp none e => return uses { instr := f sw fd 0 (whOf sp hint) 1, imm := some (← c.ev e), absolute := true } []
    | a => badAs a.why (uses (plain (f sw fd 0 (whOf 0 hint) 0)) [])
  else do
    o.only ["hint", "order", "scope"]
    match g with
    | none => bad .optionRefused
    | some g =>
      if order ≠ (if store then 2 else 1) then bad .optionRefused
      let sc ← o.need "scope" scopeKeys
      let (sp, r, off) ← baseOf a
      let fr ← c.field lane r
      return uses { instr := g sw fd fr (whOf sp hint) (BitVec.ofNat 3 sc), imm := some (← c.ev off) } (baseRegs sp fr)

/-- Load-consumes (R248). -/
def formConsume (c : Ctx) (sw : Bool) (m : String) (lane : Bool) (g : MemOrdered) (d a : Arg) (o : Opts) : Chk Draft := do
  o.only ["hint", "scope"]
  let fd ← c.field lane d
  let hint ← o.key "hint" hintKeys
  let sc ← o.need "scope" scopeKeys
  let (sp, r, off) ← baseOf a
  let fr ← c.field lane r
  let i : Draft := { instr := g sw fd fr (whOf sp hint) (BitVec.ofNat 3 sc), imm := some (← c.ev off) }
  return if lane then { i with reads := baseRegs sp fr, writes := dataRegs m fd } else i

/-- The order and the scope of an atomic: a scope stands with an order other than plain, and only with one (R251). -/
def atomOrder (o : Opts) : Chk (BitVec 2 × BitVec 3) := do
  o.only ["hint", "order", "scope"]
  let order ← o.key "order" orderKeys
  if order = 0 then do
    o.only ["hint", "order"]
    return (0, 0)
  else return (BitVec.ofNat 2 order, BitVec.ofNat 3 (← o.need "scope" scopeKeys))

/-- Atomics (R249 to R251). -/
def formAtom (c : Ctx) (sw : Bool) (m : String) (d a : Arg) (o : Opts) : Chk Draft := do
  let (ord, sc) ← atomOrder o
  let hint ← o.key "hint" hintKeys
  let (sp, r, off) ← baseOf a
  match laneAtoms.lookup m, uniformAtoms.lookup m with
  | some f, _ =>
    let fr ← c.field true r
    return { instr := f sw (← c.v6 d) fr (whOf sp hint) ord sc, imm := some (← c.ev off), reads := baseRegs sp fr }
  | none, some f => return { instr := f sw (← s6 d) (← s6 r) (whOf sp hint) ord sc, imm := some (← c.ev off) }
  | none, none => bad .operand

/-! ### Control, masks and barriers -/

/-- A branch: its value is the code offset that it names, and a symbol, in parentheses or not, is kept for R155. DESIGN CHOICE
(log entry 52): an operand that is an expression other than a symbol, of which the forms of the manual show none, is a code
offset too, without an explicit IMMX and without the check that a run starts there. -/
def branch (c : Ctx) (i : Instr) (l : Arg) : Chk Draft := do
  let e ← l.asExpr
  return { instr := i, imm := some (← c.ev e), target := match e with | .sym s => some s | _ => none }

/-- The branches that test a register (R201, R241). -/
def testForms : List (String × Bool × (Bool → BitVec 8 → BitVec 16 → Instr)) :=
  [("bz", false, .bz), ("bnz", false, .bnz), ("bvz", true, .bvz), ("bvnz", true, .bvnz)]

def formTest (c : Ctx) (sw lane : Bool) (f : Bool → BitVec 8 → BitVec 16 → Instr) (d l : Arg) : Chk Draft := do
  let fd ← c.field lane d
  return { (← branch c (f sw fd 0) l) with reads := if lane then [fd] else [] }

/-- The CTL group and system-register access (R199, R202 to R214, R252 to R254, R258, R259, R267, R268). -/
def formControl (c : Ctx) (sw : Bool) (m : String) (ops : List Arg) : Chk Draft :=
  let u := c.field false
  match m, ops with
  | "umovi", [d, x] => do return { instr := .umovi sw (← u d) 0, imm := some (← c.ev (← x.asExpr)) }
  | "bra", [l] => branch c (.bra sw 0) l
  | "call", [l] => branch c (.call sw 0) l
  | "callr", [r] => do return plain (.callr sw (← u r))
  | "brr", [r] => do return plain (.brr sw (← u r))
  | "ret", [r] => do return plain (.ret sw (← u r))
  | "ret", [] => pure (plain (.ret sw 255))
  | "end", [] => pure (plain (.endLanes sw))
  | "trap", [r, x] => do return plain (.trap sw (← u r) (← c.nat 10 1023 x))
  | "rfe", [] => pure (plain (.rfe sw))
  | "replay", [k, r] => do
    let k ← keyArg [("token", 0), ("page", 1)] k
    let fr ← u r
    return plain (if k = 0 then .replayToken sw fr else .replayPage sw fr)
  | "icinv", [s] => do return plain (.icinv sw (BitVec.ofNat 3 (← keyArg scopeKeys s)))
  | "fence", [k, s] => do
    let k ← keyArg [("acq", 1), ("rel", 2), ("ar", 3)] k
    return plain (.fence sw (BitVec.ofNat 2 k) (BitVec.ofNat 3 (← keyArg scopeKeys s)))
  | "opfence", [] => pure (plain (.opfence sw))
  | "waitany", [k, r] => do return plain (.waitany sw (← u r) (← s6 k))
  | "waitall", [r] => do return plain (.waitall sw (← u r))
  | "ffrdy", [k, r] => do return plain (.ffrdy sw (← u r) (← s6 k))
  | "rcwait", [k, r] => do return plain (.rcwait sw (← u r) (← s6 k))
  | "rcprobe", [k, r] => do return plain (.rcprobe sw (← u r) (← s6 k))
  | "srrd", [d, x] => do return plain (.srrd sw (← u d) (← sysArg x))
  | "srwr", [x, r] => do return plain (.srwr sw (← u r) (← sysArg x))
  | _, _ => bad .operand

/-- The MSK and BAR groups (R208, R210). -/
def formMask (c : Ctx) (sw : Bool) (m : String) (ops : List Arg) : Chk Draft :=
  let u := c.field false
  match m, ops with
  | "exrd", [r] => do return plain (.exrd sw (← u r))
  | "exwr", [r] => do return plain (.exwr sw (← u r))
  | "exld", [a] => do return plain (.exld sw (← mask3 a))
  | "exsv", [a] => do return plain (.exsv sw (← mask3 a))
  | "mand", [a, b, x] => do return plain (.mand sw (← mask3 a) (← mask3 b) (← mask3 x))
  | "mor", [a, b, x] => do return plain (.mor sw (← mask3 a) (← mask3 b) (← mask3 x))
  | "mxor", [a, b, x] => do return plain (.mxor sw (← mask3 a) (← mask3 b) (← mask3 x))
  | "mnot", [a, b] => do return plain (.mnot sw (← mask3 a) (← mask3 b))
  | "mrd", [r, a] => do return plain (.mrd sw (← u r) (← mask3 a))
  | "mwr", [a, r] => do return plain (.mwr sw (← u r) (← mask3 a))
  | "mpop", [r, a] => do return plain (.mpop sw (← u r) (← mask3 a))
  | "bararv", [b, .reg r] => do return plain (.bararv sw (← u (.reg r)) 0 0 (← c.nat 4 15 b))
  | "barsync", [b, .reg r] => do return plain (.barsync sw (← u (.reg r)) 0 0 (← c.nat 4 15 b))
  | "bararv", [b, n] => do return plain (.bararv sw 0 1 (BitVec.ofInt 5 ((← c.numArg 1 32 n) - 1)) (← c.nat 4 15 b))
  | "barsync", [b, n] => do return plain (.barsync sw 0 1 (BitVec.ofInt 5 ((← c.numArg 1 32 n) - 1)) (← c.nat 4 15 b))
  | _, _ => bad .operand

/-! ### Engines and the matrix group -/

/-- An element size of GSJOB in bytes (R260). -/
def sizeKeys : List (Int × Nat) := [(1, 0), (2, 1), (4, 2), (8, 3), (16, 4), (32, 5), (64, 6), (128, 7)]

/-- COPY, GSJOB, RCALL and the MATX group (R256, R260, R262, R278). -/
def formEngine (c : Ctx) (sw : Bool) (m : String) (ops : List Arg) (o : Opts) : Chk Draft :=
  let u := c.field false
  match m, ops with
  | "copy", [b, s, d, x] => do
    o.only ["tag"]
    return plain (.copy sw (← u b) (BitVec.ofNat 3 (← keyArg layerKeys s)) (BitVec.ofNat 3 (← keyArg layerKeys d))
      (BitVec.ofNat 3 (← keyArg xformKeys x)) (← o.tag c))
  | "gsjob", [b, dir, iw, es, dense] => do
    o.only ["tag"]
    let dir ← keyArg [("gather", 0), ("scatter", 1)] dir
    let iw ← keyArg [("i16", 0), ("i32", 1)] iw
    let dl ← keyArg (layerKeys.take 4) dense
    match sizeKeys.lookup (← c.numArg 1 128 es) with
    | some k => return plain (.gsjob sw (← u b) (BitVec.ofNat 1 dir) (BitVec.ofNat 2 iw) (BitVec.ofNat 3 k) (BitVec.ofNat 3 dl) (← o.tag c))
    | none => bad .fieldRange
  | "rcall", [b, n, r] => do
    o.only ["scope"]
    return plain (.rcall sw (← u b) (← c.nat 5 31 n) (← c.nat 4 15 r) (BitVec.ofNat 3 (← o.need "scope" scopeKeys)))
  | "mma", [b, f] => do
    o.only ["rm", "za", "rb"]
    return plain (.mma sw (← u b) (← u f) (← o.bit c "rb") (← o.bit c "za") (BitVec.ofNat 2 (← o.key "rm" modeKeys)))
  | "mloop", [b] => do
    o.only ["rm", "za"]
    return plain (.mloop sw (← u b) (← o.bit c "za") (BitVec.ofNat 2 (← o.key "rm" modeKeys)))
  | "mdrain", [b] => do
    o.only ["rm", "sat", "tm"]
    return plain (.mdrain sw (← u b) (← o.bit c "tm") (← o.needBit c "sat") (BitVec.ofNat 2 (← o.key "rm" modeKeys)))
  | "mwait", [] => do o.only []; return plain (.mwait sw)
  | "mvstack", [b] => do o.only []; return plain (.mvstack sw (← u b))
  | "quant2", [b] => do o.only []; return plain (.quant2 sw (← u b))
  | "tidset", [x, w, v] => do o.only []; return plain (.tidset sw (← u v) (← u x) (← c.nat 4 15 w))
  | "tidget", [d, x, w] => do o.only []; return plain (.tidget sw (← u d) (← u x) (← c.nat 4 15 w))
  | _, _ => bad .operand

/-! ### Lane moves, planes, envelopes and softmax -/

/-- IMOVI, conversions and the moves between lanes and through VI (R228, R236, R237, R239). -/
def formLane (c : Ctx) (sw : Bool) (m : String) (ops : List Arg) (o : Opts) : Chk Draft :=
  let f := c.field true
  match m, ops with
  | "imovi", [d, x] => do
    o.only []
    let fd ← f d
    return { instr := .imovi sw fd 0, imm := some (← c.ev (← x.asExpr)), writes := [fd] }
  | "cvt", [d, a, t, s] => do
    o.only ["rm"]
    let fd ← f d
    let fa ← f a
    let rm := BitVec.ofNat 2 (← o.key "rm" modeKeys)
    return { instr := .cvt sw fd fa rm (BitVec.ofNat 3 (← keyArg cvtKeys t)) (BitVec.ofNat 3 (← keyArg cvtKeys s)), reads := [fa], writes := [fd] }
  | "cvts", [d, a, t, s] => do
    o.only ["rm"]
    let fd ← f d
    let fa ← f a
    let rm := BitVec.ofNat 2 (← o.key "rm" modeKeys)
    return { instr := .cvts sw fd fa rm (BitVec.ofNat 3 (← keyArg cvtKeys t)) (BitVec.ofNat 3 (← keyArg cvtKeys s)), reads := [fa], writes := [fd] }
  | "vrd", [d, k] => do
    o.only []
    let fd ← f d
    return { instr := .vrd sw fd (← c.viArg k), writes := [fd] }
  | "vwr", [k, a] => do
    o.only []
    let fa ← f a
    return { instr := .vwr sw fa (← c.viArg k), reads := [fa] }
  | "lpush", [d, a, x, k] => do
    o.only []
    let fx ← f x
    return { instr := .lpush sw (← c.v6 d) (← c.v6 a) fx (← mask3 k), reads := [fx] }
  | _, _ => bad .operand

/-- The register of `fill=`: S0 to S7 (R270). -/
def Opts.fill (o : Opts) : Chk (BitVec 3 × BitVec 1) :=
  match o.lookup "fill" with
  | none => pure (0, 0)
  | some ts => match sane ts with
    | [.name s] => match regOf s with
      | some (.s k) => if k < 8 then pure (BitVec.ofNat 3 k, 1) else bad .fieldRange
      | _ => bad .operand
    | _ => bad (if ts.contains .wrong then .reported else .operand)

/-- The plane group (R270). -/
def formPlane (c : Ctx) (sw : Bool) (m : String) (ops : List Arg) (o : Opts) : Chk Draft :=
  match m, ops with
  | "pshift", [d, a, dir, n] => do
    o.only ["fill"]
    let (k, fl) ← o.fill
    return plain (.pshift sw (← plane3 d) (← plane3 a) k (BitVec.ofNat 2 (← keyArg dirKeys dir)) fl (← c.nat 8 255 n))
  | "prot", [d, a, dir, n] => do
    o.only []
    return plain (.prot sw (← plane3 d) (← plane3 a) (BitVec.ofNat 2 (← keyArg dirKeys dir)) (← c.nat 8 255 n))
  | "pspread", [d, a, dir, r] => do
    o.only []
    return plain (.pspread sw (← plane3 d) (← plane3 a) (BitVec.ofNat 1 (← keyArg axisKeys dir)) (← c.nat 10 1023 r))
  | "pfold", [d, a, dir, op] => do
    o.only []
    return plain (.pfold sw (← plane3 d) (← plane3 a) (BitVec.ofNat 2 (← keyArg foldKeys op)) (BitVec.ofNat 2 (← keyArg dirKeys dir)))
  | "prefold", [d, a] => do o.only []; return plain (.prefold sw (← plane3 d) (← plane3 a))
  | "padd", [d, a, b] => do o.only []; return plain (.padd sw (← plane3 d) (← plane3 a) (← plane3 b))
  | "psub", [d, a, b] => do o.only []; return plain (.psub sw (← plane3 d) (← plane3 a) (← plane3 b))
  | "pmul", [d, a, b] => do o.only []; return plain (.pmul sw (← plane3 d) (← plane3 a) (← plane3 b))
  | "pmax", [d, a, b] => do o.only []; return plain (.pmax sw (← plane3 d) (← plane3 a) (← plane3 b))
  | "pmin", [d, a, b] => do o.only []; return plain (.pmin sw (← plane3 d) (← plane3 a) (← plane3 b))
  | "pdset", [d, x] => do
    o.only []
    let fx ← c.field true x
    return { instr := .pdset sw (← plane3 d) fx, reads := regs fx 2 }
  | "pdget", [x, a] => do
    o.only []
    let fx ← c.field true x
    return { instr := .pdget sw (← plane3 a) fx, writes := regs fx 2 }
  | _, _ => bad .operand

/-- The base register of ENVLD and ENVST, which take no offset, and WH (R362, R372). -/
def Ctx.envMem (c : Ctx) (a : Arg) (o : Opts) : Chk (BitVec 3 × BitVec 8 × List (BitVec 8)) := do
  o.only ["hint"]
  let hint ← o.key "hint" hintKeys
  let (sp, r, off) ← baseOf a
  if off ≠ .num 0 then bad .operand
  let fr ← c.field true r
  return (whOf sp hint, fr, baseRegs sp fr)

/-- The envelope and softmax groups (R290, R362). -/
def formEnv (c : Ctx) (sw : Bool) (m : String) (ops : List Arg) (o : Opts) : Chk Draft :=
  let f := c.field true
  match m, ops with
  | "envclr", [d] => do o.only []; return plain (.envclr sw (← env4 d) 0 0)
  | "envclr", [d, r] => do
    o.only []
    let fr ← f r
    return { instr := .envclr sw (← env4 d) fr 1, reads := regs fr 2 }
  | "envins", [d, a] => do
    o.only []
    let fa ← f a
    return { instr := .envins sw (← env4 d) fa, reads := regs fa 2 }
  | "envsum", [d, a, b] => do o.only []; return plain (.envsum sw (← env4 a) (← env4 d) (← env4 b))
  | "envmax", [d, a, b] => do o.only []; return plain (.envmax sw (← env4 a) (← env4 d) (← env4 b))
  | "envconv", [d, a, b] => do o.only []; return plain (.envconv sw (← env4 a) (← env4 d) (← env4 b))
  | "envleg", [d, a] => do o.only []; return plain (.envleg sw (← env4 a) (← env4 d))
  | "envsimp", [d, a] => do o.only []; return plain (.envsimp sw (← env4 a) (← env4 d))
  | "enveval", [d, a, x] => do
    o.only []
    let fd ← f d
    let fx ← f x
    return { instr := .enveval sw fd fx (← env4 a), reads := [fx], writes := [fd] }
  | "envld", [d, a] => do
    let (wh, r, rs) ← c.envMem a o
    return { instr := .envld sw wh (← env4 d) r, reads := rs }
  | "envst", [a, d] => do
    let (wh, r, rs) ← c.envMem a o
    return { instr := .envst sw wh (← env4 d) r, reads := rs }
  | "smxacc", [p, a, n] => do
    o.only []
    let fp ← f p
    let fa ← f a
    let k ← c.numArg 1 16 n
    return { instr := .smxacc sw fp fa (BitVec.ofInt 4 (k - 1)), reads := regs fp 2 ++ regs fa k.toNat, writes := regs fp 2 }
  | "smxfin", [d, p] => do
    o.only []
    let fd ← f d
    let fp ← f p
    return { instr := .smxfin sw fd fp, reads := regs fp 2, writes := regs fd 2 }
  | _, _ => bad .operand

/-! ### Every form -/

/-- The mnemonics of each group below the tables. -/
def controlNames : List String :=
  ["umovi", "bra", "call", "callr", "brr", "ret", "end", "trap", "rfe", "replay", "icinv", "fence", "opfence", "waitany",
   "waitall", "ffrdy", "rcwait", "rcprobe", "srrd", "srwr"]
def maskNames : List String :=
  ["exrd", "exwr", "exld", "exsv", "mand", "mor", "mxor", "mnot", "mrd", "mwr", "mpop", "bararv", "barsync"]
def engineNames : List String :=
  ["copy", "gsjob", "rcall", "mma", "mloop", "mdrain", "mwait", "mvstack", "quant2", "tidset", "tidget"]
def laneNames : List String := ["imovi", "cvt", "cvts", "vrd", "vwr", "lpush"]
def planeNames : List String :=
  ["pshift", "prot", "pspread", "pfold", "prefold", "padd", "psub", "pmul", "pmax", "pmin", "pdset", "pdget"]
def envNames : List String :=
  ["envclr", "envins", "envsum", "envmax", "envconv", "envleg", "envsimp", "enveval", "envld", "envst", "smxacc", "smxfin"]
def aluNames : List String := (uniformRrr ++ laneRrr ++ laneRmw).map Prod.fst ++ packedShifts.map Prod.fst

/-- A range of registers that R150 refuses is an operand in error. -/
def Ctx.inRange (c : Ctx) (a : Arg) : Chk Arg := do
  match a with
  | .range x y =>
    if y < x then bad .rangeBackwards
    if c.allot ≤ max x y then bad .aboveAllotment
    return if y < x || c.allot ≤ max x y then .wrong else a
  | a => return a

/-- The instruction that a mnemonic with operands in range and options writes (R151, R173). -/
def formOf (c : Ctx) (sw : Bool) (m : String) (ops : List Arg) (o : Opts) : Chk Draft :=
  if aluNames.contains m then do
    o.only []
    match ops with
    | [d, a, b] => formAlu c sw m d a b
    | _ => bad .operand
  else if controlNames.contains m then do
    o.only []
    formControl c sw m ops
  else if maskNames.contains m then do
    o.only []
    formMask c sw m ops
  else if engineNames.contains m then formEngine c sw m ops o
  else if laneNames.contains m then formLane c sw m ops o
  else if planeNames.contains m then formPlane c sw m ops o
  else if envNames.contains m then formEnv c sw m ops o
  else
    match functions.lookup m, memForms.lookup m, consumeForms.lookup m, testForms.lookup m, ops with
    | some f, _, _, _, [d, a] => do
      o.only []
      let fd ← c.field true d
      let fa ← c.field true a
      return { instr := f sw fd fa, reads := [fa], writes := [fd] }
    | _, some (lane, false, f, g), _, _, [d, a] => formMem c sw m lane false f g d a o
    | _, some (lane, true, f, g), _, _, [a, d] => formMem c sw m lane true f g d a o
    | _, _, some (lane, g), _, [d, a] => formConsume c sw m lane g d a o
    | _, _, _, some (lane, f), [d, l] => do
      o.only []
      formTest c sw lane f d l
    | none, none, none, none, [d, a] =>
      if (laneAtoms.map Prod.fst ++ uniformAtoms.map Prod.fst).contains m then formAtom c sw m d a o else bad .unknownName
    | none, none, none, none, _ =>
      if (laneAtoms.map Prod.fst ++ uniformAtoms.map Prod.fst).contains m then bad .operand else bad .unknownName
    | _, _, _, _, _ => bad .operand

/-- The instruction that a mnemonic with its operands and options writes (R150, R151, R173). -/
def form (c : Ctx) (sw : Bool) (m : String) (ops : List Arg) (o : Opts) : Chk Draft := do
  formOf c sw m (← ops.mapM c.inRange) o

end Sys2Proof.Machine.Zyas
end

