-- ==== Sys2Proof/Machine/ZyasSource.lean ====
section
/-!
DEFINITION. Reading a zyas file: its statements, labels, sections and directives, line by line (spec/11_assembler.md R148, R149,
R151 to R153, R156 to R158, R160, R161, R163, R165).
-/

namespace Sys2Proof.Machine.Zyas

/-- A statement of the code section. -/
inductive Body where
  | trailer (post wait : Nat)
  | immx (e : Expr)
  | ins (sw : Bool) (m : String) (ops : List Arg) (opts : Opts)
  /-- A line in error of which no statement can be read; it keeps its place. -/
  | wrong
  deriving DecidableEq, Repr, Inhabited

structure CodeItem where
  line : Nat
  body : Body
  /-- `.immx auto` governs it (R163). -/
  auto : Bool := true
  /-- The line of the explicit IMMX directly before it (R165). -/
  immx : Option Nat := none
  /-- A generated IMMX stands before it (R164). -/
  pre : Bool := false
  deriving DecidableEq, Repr

/-- A directive that places data (R160). -/
structure DataItem where
  line : Nat
  dir : String
  args : List (List Tok)
  deriving DecidableEq, Repr

/-- Where something stands: a section and how many statements it holds so far. -/
structure Place where
  sec : Sec
  ix : Nat
  deriving DecidableEq, Repr

/-- A symbol of `.equ` (R161). -/
structure Equ where
  name : String
  line : Nat
  e : Expr
  at_ : Option Place
  deriving DecidableEq, Repr

/-- A directive with its line and arguments. -/
structure Dir where
  line : Nat
  args : List (List Tok)
  /-- Where it stands, for the symbol `.` in its arguments (R161). -/
  at_ : Option Place := none
  deriving DecidableEq, Repr

/-- What has been read. Lists of items stand in reverse order until the end of the file. -/
structure Src where
  sec : Option Sec := none
  auto : Bool := true
  code : List CodeItem := []
  const : List DataItem := []
  data : List DataItem := []
  labels : List (String × Place) := []
  equs : List Equ := []
  /-- The launch directives (R158). -/
  launch : List (String × Dir) := []
  tensors : List Dir := []
  kernels : Nat := 0
  ends : Nat := 0
  /-- The first item of `.code` placed after `.kernel` (R158). -/
  entry : Option Nat := none
  /-- An explicit IMMX whose next statement has not come yet (R165). -/
  immx : Option Nat := none
  /-- Statements in a section that does not take them, symbols not defined by their `.equ`: read for their errors only (R143). -/
  strayCode : List (CodeItem × Option Place) := []
  strayData : List (DataItem × Option Place) := []
  strayEqus : List Equ := []
  errs : List Err := []
  deriving DecidableEq, Repr

def Src.err (s : Src) (line : Nat) (w : Why) : Src := { s with errs := { line := line, why := w } :: s.errs }

/-- Every error of a line, the last one first as `errs` holds them. -/
def Src.errsOn (s : Src) (line : Nat) (l : List Why) : Src := l.foldl (fun s w => s.err line w) s

/-- The place of the next statement, label or `.` (R149, R161). -/
def Src.place (s : Src) : Option Place :=
  s.sec.map fun x => { sec := x, ix := match x with | .code => s.code.length | .const => s.const.length | .data => s.data.length }

/-- A symbol may take a name that is none of R146's and that nothing has defined (R149, R161). -/
def Src.newName (s : Src) (n : String) : Chk Unit := do
  if !symbolName n then bad .symbolReserved
  if s.labels.any (fun l => l.1 = n) || s.equs.any (fun q => q.name = n) then bad .symbolTwice

/-- A label on a line (R149). -/
def Src.label (s : Src) (line : Nat) (n : String) : Src :=
  let e := (checked (s.newName n)).2 ++ if s.place.isNone then [Why.noSection] else []
  match e, s.place with
  | [], some p => { s with labels := (n, p) :: s.labels }
  | e, _ => s.errsOn line e

/-- Another statement follows an explicit IMMX that is no instruction (R165). -/
def Src.noImmx (s : Src) : Src :=
  match s.immx with
  | some l => { s.err l .immxPlace with immx := none }
  | none => s

/-- A slot list: `none`, or slots joined by plus signs (R148, R153). -/
def slotsFrom : Nat → Nat → List Tok → Chk (Nat × List Tok)
  | 0, m, _ => badAs .grammar (m, [])
  | n + 1, m, .name s :: r => do
    let m ← match regOf s with
      | some (.w k) => if m / 2 ^ k % 2 = 1 then badAs .slotTwice m else pure (m + 2 ^ k)
      | _ => badAs .grammar m
    match r with
    | .punc "+" :: r => slotsFrom n m r
    | r => return (m, r)
  | _ + 1, m, _ => badAs .grammar (m, [])

def slots (ts : List Tok) : Chk (Nat × List Tok) :=
  match ts with
  | .name s :: r => if lower s = "none" then pure (0, r) else slotsFrom (ts.length + 1) 0 ts
  | _ => bad .grammar

/-- What follows RUNEND, without text in error: `post=` and then `wait=`, each of which may be left out (R148, R153). -/
def saneTrailer (ts : List Tok) : Chk (Nat × Nat) := do
  let part (k : String) (ts : List Tok) : Chk (Nat × List Tok) :=
    match ts with
    | .name x :: .punc "=" :: r => if lower x = k then slots r else pure (0, ts)
    | _ => pure (0, ts)
  let (p, r) ← part "post" ts
  let (w, r) ← part "wait" r
  if !r.isEmpty then bad .grammar
  return (p, w)

/-- What follows RUNEND (R148, R153); what text in error leaves of it. -/
def trailerOf (ts : List Tok) : Chk (Nat × Nat) := do
  let (x, e) := checked (saneTrailer (sane ts))
  modify fun l => l ++ e.filter fun w => w ≠ .grammar || !ts.contains .wrong
  return x

/-- The body of an instruction, IMMX or trailer (R148, R151, R156). -/
def bodyOf (sw : Bool) (m : String) (ts : List Tok) : Chk Body := do
  let m := lower m
  if sw && (m = "runend" || m = "immx") then bad .switchMarker
  if m = "runend" then do
    let (p, w) ← trailerOf ts
    return .trailer p w
  else
    let (ps, os) ← splitOpts (← groups "," ts)
    if m = "immx" then
      match ps, os with
      | [e], [] => return .immx (← parseExpr e)
      | _, _ => badAs .operand (.immx (.num 0))
    else return .ins sw m (← ps.mapM parseArg) os

/-- An instruction, IMMX or trailer on a line (R152, R157, R165). -/
def Src.instr (s : Src) (line : Nat) (sw : Bool) (m : String) (ts : List Tok) : Src :=
  let (b, e) := checked (bodyOf sw m ts)
  if s.sec ≠ some .code then
    let s := (s.noImmx.err line .outsideCode).errsOn line e
    { s with strayCode := ({ line := line, body := b }, s.place) :: s.strayCode }
  else
    let place (s : Src) (i : CodeItem) : Src :=
      { s with code := i :: s.code, entry := if s.entry.isNone && s.kernels ≠ 0 then some s.code.length else s.entry }
    let s := s.errsOn line e
    match b with
    | .wrong => place { s with immx := none } { line := line, body := .wrong, auto := s.auto }
    | .ins a b c d =>
      place { s with immx := none } { line := line, body := .ins a b c d, auto := s.auto, immx := s.immx }
    | .immx e => { place s.noImmx { line := line, body := .immx e, auto := s.auto } with immx := some line }
    | b => { place s.noImmx { line := line, body := b, auto := s.auto } with entry := s.entry }

/-- The launch directives that may stand once (R158); `.stage` may repeat. -/
def launchNames : List String :=
  ["teams", "coaches", "allot", "scratch", "overhead", "slice", "cgroup", "tags", "revision", "compat", "units"]

/-- The integer data directives: bytes, least and greatest value (R160). -/
def intDirs : List (String × Nat × Int × Int) :=
  [("byte", 1, -128, 255), ("half", 2, -32768, 65535), ("word", 4, -2 ^ 31, 2 ^ 32 - 1), ("dword", 8, -2 ^ 63, 2 ^ 64 - 1)]

/-- The float data directives: bytes and format (R160). -/
def floatDirs : List (String × Nat × Fmt) :=
  [("fp32", 4, fp32), ("bf16", 2, bf16), ("fp16", 2, fp16), ("e4m3", 1, e4m3), ("e5m2", 1, e5m2)]

def dataNames : List String := intDirs.map Prod.fst ++ floatDirs.map Prod.fst ++ ["ascii", "zero", "align"]

/-- A directive (R157 to R161, R163); what is read of one in error stands. DESIGN CHOICE (log entry 52): the data directives
that R157 keeps out of `.code` are those of R160, and a `.tensor` may stand there; `.kernel` and `.endkernel` may come in any
order, and statements may follow both, since R158 only counts them. -/
def Src.directive (s : Src) (line : Nat) (d : String) (ts : List Tok) : Chk Src := do
  let args ← groups "," ts
  let bare (s : Src) : Chk Src := if args.isEmpty then pure s else badAs .grammar s
  match d with
  | "code" => bare { s with sec := some .code }
  | "const" => bare { s with sec := some .const }
  | "data" => bare { s with sec := some .data }
  | "kernel" =>
    match args with
    | [[.name _]] => if s.kernels = 0 then return { s with kernels := 1 } else badAs .kernel s
    | _ => badAs .grammar { s with kernels := 1 }
  | "endkernel" => do
    let s ← bare s
    if s.ends = 0 then return { s with ends := 1 } else badAs .kernel s
  | "equ" =>
    match args with
    | [[.name n], e] => do
      let fresh := (checked (s.newName n)).2
      s.newName n
      let x ← parseExpr e
      let q : Equ := { name := n, line := line, e := x, at_ := s.place }
      return if fresh.isEmpty then { s with equs := q :: s.equs } else { s with strayEqus := q :: s.strayEqus }
    | _ => badAs .grammar s
  | "immx" =>
    if s.sec ≠ some .code then bad .outsideCode
    match args with
    | [[.name x]] =>
      if lower x = "auto" then return { s with auto := true }
      else if lower x = "off" then return { s with auto := false }
      else badAs .operand s
    | _ => badAs .grammar s
  | "stage" => return { s with launch := (d, { line := line, args := args, at_ := s.place }) :: s.launch }
  | "tensor" => return { s with tensors := { line := line, args := args, at_ := s.place } :: s.tensors }
  | _ =>
    let item : DataItem := { line := line, dir := d, args := args }
    if launchNames.contains d then
      let s' := { s with launch := (d, { line := line, args := args, at_ := s.place }) :: s.launch }
      if s.launch.any fun p => p.1 = d then badAs .repeated s' else pure s'
    else if dataNames.contains d then
      match s.sec with
      | some .const => pure { s with const := item :: s.const }
      | some .data => pure { s with data := item :: s.data }
      | _ => badAs .outsideData { s with strayData := (item, s.place) :: s.strayData }
    else badAs .unknownName s

/-- A line of which no statement can be read keeps the place of one in the code section. -/
def Src.lost (s : Src) (line : Nat) (l : List Why) : Src :=
  let s := { s.errsOn line l with immx := none }
  if s.sec = some .code then { s with code := { line := line, body := .wrong, auto := s.auto } :: s.code } else s

/-- The statement of a line (R148). -/
def Src.statement (s : Src) (line : Nat) (ts : List Tok) : Src :=
  match ts with
  | [] => s
  | .dir d :: r =>
    let s := s.noImmx
    let (x, e) := checked (s.directive line d r)
    x.errsOn line e
  | .punc "!" :: .name m :: r => s.instr line true m r
  | .name m :: r => s.instr line false m r
  | _ => s.lost line [.grammar]

/-- The statement of a line, which may begin after text in error. -/
def Src.rest (s : Src) (line : Nat) (ts : List Tok) : Src :=
  let r := ts.dropWhile (· = .wrong)
  if r.isEmpty && !ts.isEmpty then s.lost line [] else s.statement line r

/-- One line: a label and a statement, each optional (R148); text in error is reported, and the rest of the line read (R143). -/
def Src.line (s : Src) (line : Nat) (l : List Nat) : Src :=
  let (ts, e) := checked (lexLine l)
  let s := s.errsOn line e
  match ts.dropWhile (· = .wrong) with
  | .name n :: .punc ":" :: r => (s.label line n).rest line r
  | _ => s.rest line ts

/-- The lines of a file from a line number on. -/
def Src.lines (s : Src) (line : Nat) : List (List Nat) → Src
  | [] => s
  | l :: r => (s.line line l).lines (line + 1) r

/-- A whole file as read, its items in source order. -/
def read (src : List Nat) : Src :=
  let s := (({} : Src).lines 1 (linesFrom [] src)).noImmx
  { s with code := s.code.reverse, const := s.const.reverse, data := s.data.reverse, launch := s.launch.reverse,
           tensors := s.tensors.reverse, labels := s.labels.reverse, equs := s.equs.reverse, strayCode := s.strayCode.reverse,
           strayData := s.strayData.reverse, strayEqus := s.strayEqus.reverse }

end Sys2Proof.Machine.Zyas
end

