-- ==== Sys2Proof/Machine/Zyas.lean ====
section
/-!
DEFINITION. The zyas assembler: from the bytes of a source file to the bytes of a code object, or the list of its errors
(spec/11_assembler.md R143, R149, R152 to R155, R158 to R165; spec/29_portable_isa.md R375 to R377).
-/

namespace Sys2Proof.Machine.Zyas

/-! ### Positions and symbols -/

/-- The offset of every item of each section, and of its end. -/
structure Pos where
  code : List Nat := []
  const : List Nat := []
  data : List Nat := []
  deriving DecidableEq, Repr

def Pos.at_ (p : Pos) (x : Place) : Nat :=
  (match x.sec with | .code => p.code | .const => p.const | .data => p.data).getD x.ix 0

/-- The symbol `.` at a place: the offset of the next byte of its section (R161). -/
def Pos.dot (p : Pos) (x : Option Place) : Chk Int :=
  match x with
  | some l => pure (p.at_ l)
  | none => badAs .noSection 1

/-- The value of a symbol (R161, R162): a code label is a constant, another label is relocatable. The number bounds the chain of
`.equ` symbols, which ends unless a symbol depends on itself. An error of a symbol is reported where the symbol is defined.
DESIGN CHOICE (log entry 53): an `.equ` whose expression is relocatable defines a relocatable symbol. -/
def Src.symbol (s : Src) (p : Pos) : Nat → String → Chk Val
  | 0, _ => badAs .reported { n := 1 }
  | n + 1, x =>
    match s.labels.lookup x with
    | some l => pure { n := p.at_ l, rel := if l.sec = .code then none else some l.sec }
    | none => match s.equs.find? fun q => q.name = x with
      | some q => match checked (q.e.eval (s.symbol p n) (p.dot q.at_)) with
        | (v, []) => pure v
        | (v, _) => badAs .reported v
      | none => badAs .undefinedSymbol { n := 1 }

/-- The symbols that an expression depends on, through at most `n` symbols of `.equ`. -/
def Src.reach (s : Src) : Nat → List String → List String
  | 0, l => l
  | n + 1, l => s.reach n ((l ++ l.flatMap fun x => match s.equs.find? fun q => q.name = x with
      | some q => q.e.syms
      | none => []).eraseDups)

/-- The errors of an `.equ` (R161). -/
def Src.equErrs (s : Src) (p : Pos) (q : Equ) : List Why :=
  (checked (q.e.eval (s.symbol p (s.equs.length + 1)) (p.dot q.at_))).2
    ++ if (s.reach s.equs.length q.e.syms).contains q.name then [.selfDependent] else []

/-- The value of an expression, where `dot` gives the offset of the next byte in the current section. -/
def Src.ev (s : Src) (p : Pos) (dot : Chk Int) (e : Expr) : Chk Val := e.eval (s.symbol p (s.equs.length + 1)) dot

/-! ### Launch directives -/

/-- The number of an argument of a directive that stands at `at_` (R158, R161). -/
def Src.number (s : Src) (p : Pos) (at_ : Option Place) (lo hi : Int) (ts : List Tok) : Chk Nat := do
  let v ← sound (do (← s.ev p (p.dot at_) (← parseExpr ts)).const) fun v =>
    if lo ≤ v && v ≤ hi then pure v else badAs .limits lo
  return v.toNat

/-- The errors of a directive, each with its line (R143). -/
def errsAt (line : Nat) (l : List Why) : List Err := l.map fun w => { line := line, why := w }

/-- The number of one launch directive, a multiple of `step`, or its default; with the errors found (R158). -/
def Src.launchOne (s : Src) (p : Pos) (lo hi step dflt : Nat) (x : Dir) : Nat × List Err :=
  match x.args with
  | [ts] =>
    match checked (s.number p x.at_ lo hi ts) with
    | (n, []) => if n % step = 0 then (n, []) else (dflt, errsAt x.line [.limits])
    | (_, e) => (dflt, errsAt x.line e)
  | _ => (dflt, errsAt x.line [.grammar])

/-- A launch directive of one number, or its default; with the errors found, those of a repeated one too (R158). -/
def Src.launchNat (s : Src) (p : Pos) (d : String) (lo hi step dflt : Nat) : Nat × List Err :=
  let l := (s.launch.filter fun x => x.1 = d).map fun x => s.launchOne p lo hi step dflt x.2
  ((l.head?.map Prod.fst).getD dflt, l.flatMap Prod.snd)

/-- The allotment (R150, R158): every register is admitted where none is given. -/
def Src.allot (s : Src) (p : Pos) : Nat := (s.launchNat p "allot" 16 192 16 192).1

/-! ### Immediates -/

/-- The instruction with raw bits in its immediate field. -/
def setField (i : Instr) (n : Nat) : Instr :=
  match i with
  | .uaddImm sw d a _ => .uaddImm sw d a (BitVec.ofNat 8 n)
  | .uandImm sw d a _ => .uandImm sw d a (BitVec.ofNat 8 n)
  | .uorImm sw d a _ => .uorImm sw d a (BitVec.ofNat 8 n)
  | .iaddImm sw d a _ => .iaddImm sw d a (BitVec.ofNat 8 n)
  | .iandImm sw d a _ => .iandImm sw d a (BitVec.ofNat 8 n)
  | .iorImm sw d a _ => .iorImm sw d a (BitVec.ofNat 8 n)
  | .uaddpi sw d a _ => .uaddpi sw d a (BitVec.ofNat 8 n)
  | .umovi sw d _ => .umovi sw d (BitVec.ofNat 16 n)
  | .imovi sw d _ => .imovi sw d (BitVec.ofNat 16 n)
  | .bz sw d _ => .bz sw d (BitVec.ofNat 16 n)
  | .bnz sw d _ => .bnz sw d (BitVec.ofNat 16 n)
  | .bvz sw d _ => .bvz sw d (BitVec.ofNat 16 n)
  | .bvnz sw d _ => .bvnz sw d (BitVec.ofNat 16 n)
  | .bra sw _ => .bra sw (BitVec.ofNat 18 n)
  | .call sw _ => .call sw (BitVec.ofNat 18 n)
  | i => i

/-- The immediate that a draft's value gives at the address of its own word: a branch counts words (R171, R201). -/
def Field.value (f : Field) (v : Val) (pc : Nat) : Chk Int :=
  if !f.branch then pure v.n
  else if v.rel.isSome then bad .branchTarget
  else if (v.n - pc) % 4 = 0 then pure ((v.n - pc) / 4)
  else bad .branchTarget

/-- What an instruction of the code section is read with, at an offset. -/
def Src.ctx (s : Src) (p : Pos) (off : Nat) : Ctx := { ev := s.ev p (pure (off : Int)), allot := s.allot p }

/-- The draft of an instruction under a layout. -/
def Src.draft (s : Src) (p : Pos) (off : Nat) (i : CodeItem) : Chk Draft :=
  match i.body with
  | .ins sw m ops opts => form (s.ctx p off) sw m ops opts
  | _ => bad .grammar

/-- An instruction needs a generated IMMX under a layout (R163, R164). -/
def Src.needsImmx (s : Src) (p : Pos) (off : Nat) (i : CodeItem) : Bool :=
  i.auto && i.immx.isNone && !i.pre && match checked (s.draft p off i) with
    | (d, []) => match fieldOf d.instr, d.imm with
      | some f, some v => v.rel.isSome || d.absolute || match checked (f.value v off) with
        | (x, []) => !f.fits x
        | _ => false
      | _, _ => false
    | _ => false

/-! ### Layout -/

/-- Bytes of a data directive at an offset (R160); nothing where its arguments are in error. -/
def Src.dataSize (s : Src) (p : Pos) (off : Nat) (i : DataItem) : Nat :=
  let arg : Chk Int := match i.args with
    | [ts] => do (← s.ev p (pure (off : Int)) (← parseExpr ts)).const
    | _ => bad .grammar
  match intDirs.lookup i.dir, floatDirs.lookup i.dir, i.dir, checked arg with
  | some (n, _), _, _, _ => n * i.args.length
  | _, some (n, _), _, _ => n * i.args.length
  | _, _, "ascii", _ => (i.args.map fun g => match g with | [.str b] => b.length | _ => 0).sum
  | _, _, "zero", (n, []) => n.toNat
  | _, _, "align", (n, []) => ((-(off : Int)) % n).toNat
  | _, _, _, _ => 0

/-- The offsets of items of given sizes, and of their end. -/
def offsets {α : Type} (size : Nat → α → Nat) (off : Nat) : List α → List Nat
  | [] => [off]
  | i :: r => off :: offsets size (off + size off i) r

/-- The offsets of every section, where the symbols stand as in the layout before (R157, R164). -/
def Src.placed (s : Src) (p : Pos) : Pos :=
  { code := offsets (fun _ (i : CodeItem) => if i.pre then 8 else 4) 0 s.code,
    const := offsets (s.dataSize p) 0 s.const, data := offsets (s.dataSize p) 0 s.data }

/-- The layout for given prefixing IMMX words: the one that its own symbols give back; or the last one tried, where none
settles. -/
def Src.settle (s : Src) : Nat → Pos → Bool × Pos
  | 0, p => (false, p)
  | n + 1, p => if s.placed p = p then (true, p) else s.settle n (s.placed p)

/-- Adds the IMMX that each instruction needs under a layout (R164). -/
def Src.grown (s : Src) (p : Pos) : List CodeItem :=
  (s.code.zip p.code).map fun x => if s.needsImmx p x.2 x.1 then { x.1 with pre := true } else x.1

/-- The layout of R164: from no generated IMMX, until no further one is needed; and whether it has settled. -/
def Src.layout (s : Src) : Nat → Bool × Src × Pos
  | 0 => (false, s, s.placed {})
  | n + 1 =>
    match s.settle (s.const.length + s.data.length + s.equs.length + 3) {} with
    | (false, p) => (false, s, p)
    | (true, p) => if s.grown p = s.code then (true, s, p) else { s with code := s.grown p }.layout n

/-! ### The code section -/

/-- Instructions that close their run (R175). -/
def closes (i : Instr) : Bool :=
  match i with
  | .bra _ _ => true | .call _ _ => true | .callr _ _ => true | .brr _ _ => true | .ret _ _ => true | .bz _ _ _ => true
  | .bnz _ _ _ => true | .bvz _ _ _ => true | .bvnz _ _ _ => true | .endLanes _ => true | .trap _ _ _ => true | .rfe _ => true
  | .icinv _ _ => true | .barsync _ _ _ _ _ => true | .waitany _ _ _ => true | .waitall _ _ => true | .rcwait _ _ _ => true
  | _ => false

/-- Instructions of the envelope unit (R158, R358). -/
def usesEnv (i : Instr) : Bool :=
  match encode i with
  | some w => fld w.toNat 31 1 = 0 && fld w.toNat 24 6 = 0x3B
  | none => false

/-- Instructions that use the accumulator store (R158, R277). -/
def usesAcc (i : Instr) : Bool :=
  match i with
  | .mma _ _ _ _ _ _ => true | .mloop _ _ _ _ => true | .mdrain _ _ _ _ _ => true | .quant2 _ _ => true
  | _ => false

/-- The words of an instruction at an offset, and the section that its immediate is relocated to (R163, R165). -/
def finish (i : CodeItem) (d : Draft) (off : Nat) : Chk (List Word × Option Sec) :=
  let word (x : Instr) : Word := (encode x).getD 0
  match fieldOf d.instr, d.imm with
  | some f, some v =>
    if i.immx.isSome then
      if v.rel.isNone && decide (0 ≤ v.n) && decide (v.n < 2 ^ f.width) then return ([word (setField d.instr v.n.toNat)], none)
      else badAs .immxRaw ([0], none)
    else do
      let x ← f.value v (if i.pre then off + 4 else off)
      let raw := wrapInt (f.width + 24) x
      let w := word (setField d.instr (fld raw 0 f.width))
      let ws := if i.pre then [word (.immx (BitVec.ofNat 24 (raw / 2 ^ f.width))), w] else [w]
      if if i.pre then !f.fitsBoth x else v.rel.isSome || d.absolute || !f.fits x then badAs .immediate (ws, none)
      else return (ws, if i.pre then v.rel else none)
  | _, _ => if i.immx.isSome then badAs .immxPlace ([word d.instr], none) else pure ([word d.instr], none)

/-- A relocation entry of R377. -/
def relocWord (kind : Nat) (target : Sec) (off : Nat) : DWord :=
  BitVec.ofNat 64 (pack [(2, kind), (2, if target = .const then 1 else 2), (28, 0), (32, off)])

/-- The run being read and what has been written. -/
structure Run where
  /-- Words of the run so far (R152). -/
  count : Nat := 0
  /-- The T registers written in it (R154). -/
  written : List (BitVec 8) := []
  /-- The line of its run-closing instruction (R175). -/
  closer : Option Nat := none
  words : List Word := []
  relocs : List DWord := []
  errs : List Err := []
  env : Bool := false
  acc : Bool := false
  deriving DecidableEq, Repr

def Run.err (r : Run) (line : Nat) (w : Why) : Run := { r with errs := r.errs ++ [{ line := line, why := w }] }

def Run.errsOn (r : Run) (line : Nat) (l : List Why) : Run := { r with errs := r.errs ++ errsAt line l }

/-- Counts words into the run: 24 at most, and none after a run-closing instruction (R152, R164, R175). -/
def Run.more (r : Run) (line n : Nat) : Run :=
  let r := match r.closer with | some l => { r.err l .notLast with closer := none } | none => r
  let r := if r.count ≤ 24 && 24 < r.count + n then r.err line .runTooLong else r
  { r with count := r.count + n }

/-- The T registers that a field list names (R170). -/
def temps (l : List (BitVec 8)) : List (BitVec 8) := l.filter fun x => 248 ≤ x.toNat

/-- A label that a branch names is the first instruction of a run (R155). -/
def Src.startsRun (s : Src) (x : Place) : Bool :=
  let isTrl (k : Nat) : Bool := match s.code[k]? with | some i => (match i.body with | .trailer _ _ => true | _ => false) | none => false
  x.sec = .code && decide (x.ix < s.code.length) && !isTrl x.ix && (x.ix = 0 || isTrl (x.ix - 1))

/-- The label that a symbol names: itself, or the label that it stands for through `.equ` (R155, R161). The number bounds the
chain. -/
def Src.labelOf (s : Src) : Nat → String → Option Place
  | 0, _ => none
  | n + 1, x => (s.labels.lookup x).orElse fun _ =>
    match s.equs.find? fun q => q.name = x with
    | some q => match q.e with | .sym y => s.labelOf n y | _ => none
    | none => none

/-- One item of the code section at its offset (R152 to R156, R163 to R165). -/
def Src.emit (s : Src) (p : Pos) (r : Run) (x : CodeItem × Nat) : Run :=
  let (i, off) := x
  match i.body with
  | .wrong => { r.more i.line 1 with words := r.words ++ [0] }
  | .trailer post wait =>
    let r := if r.count = 0 then r.err i.line .emptyRun else r
    { r with count := 0, written := [], closer := none,
             words := r.words ++ [(encode (.runend (BitVec.ofNat 8 post) (BitVec.ofNat 8 wait))).getD 0] }
  | .immx e =>
    let r := r.more i.line 1
    match checked (do (← s.ev p (pure (off : Int)) e).const) with
    | (_, w :: l) => r.errsOn i.line (w :: l)
    | (v, []) =>
      if 0 ≤ v && v < 2 ^ 24 then { r with words := r.words ++ [(encode (.immx (BitVec.ofInt 24 v))).getD 0] }
      else r.err i.line .fieldRange
  | .ins _ _ _ _ =>
    let r := r.more i.line (if i.pre then 2 else 1)
    let (d, errs) := checked (s.draft p off i)
    let r := r.errsOn i.line errs
    let r := (temps d.reads).eraseDups.foldl (fun r t => if r.written.contains t then r else r.err i.line .tUnwritten) r
    let astray := i.immx.isNone && (d.target.bind (s.labelOf (s.equs.length + 1))).any fun l => !s.startsRun l
    let r := if astray then r.err i.line .branchTarget else r
    let r := { r with written := r.written ++ temps d.writes, closer := if closes d.instr then some i.line else none,
                      env := r.env || usesEnv d.instr, acc := r.acc || usesAcc d.instr }
    if errs.isEmpty then
      let ((ws, rel), e) := checked (finish i d off)
      let e := e.filter fun w => !astray || w ≠ .branchTarget
      let r := e.foldl (fun r w => r.err (if w = .immxPlace then i.immx.getD i.line else i.line) w) r
      { r with words := r.words ++ ws,
               relocs := r.relocs ++ match rel with | some t => [relocWord 2 t off] | none => [] }
    else
      let r := match i.immx with
        | some l => if d.instr ≠ default && (fieldOf d.instr).isNone then r.err l .immxPlace else r
        | none => r
      { r with words := r.words ++ [0] }

/-! ### The data sections -/

/-- The bits of a float or integer literal with an optional minus sign (R147, R159, R160). -/
def literalBits (f : Fmt) (toks : List Tok) : Chk Nat :=
  let ts := sane toks
  let neg := ts.head? = some (.punc "-")
  let bad (_ : Why) : Chk Nat := badAs (if toks.contains .wrong then .reported else .operand) 0
  match if neg then ts.drop 1 else ts with
  | [.int n] => pure (roundRat f 0 false neg n 1)
  | [.float n d] => pure (roundRat f 0 false neg n d)
  | [.name s] => if lower s = "inf" then pure (infBits f neg) else if lower s = "nan" then pure (canonNaN f) else bad .operand
  | _ => bad .operand

/-- The bytes of a data directive at its offset, and the relocations of its dwords (R160, R162, R377). DESIGN CHOICE (log
entry 52): the symbol dot is the offset of the directive's first byte in each of its values (R161). -/
def Src.dataBytes (s : Src) (p : Pos) (sec : Sec) (off : Nat) (i : DataItem) : Chk (List Byte × List DWord) := do
  match intDirs.lookup i.dir, floatDirs.lookup i.dir, i.dir, i.args with
  | some (n, lo, hi), _, _, args =>
    let vs ← args.mapM fun g => sound (do s.ev p (pure (off : Int)) (← parseExpr g)) fun v => do
      if v.rel.isSome && n ≠ 8 then bad .relocatable
      if v.n < lo || hi < v.n then bad .limits
      return v
    let rel := (vs.zipIdx).filterMap fun x => x.1.rel.map fun t => relocWord (if sec = .const then 0 else 1) t (off + 8 * x.2)
    return (vs.flatMap fun v => leBytes n (wrapInt (8 * n) v.n), rel)
  | none, some (n, f), _, args => do
    let vs ← args.mapM (literalBits f)
    return (vs.flatMap (leBytes n), [])
  | none, none, "ascii", args => do
    let vs ← args.mapM fun g => match sane g with
      | [.str b] => (pure b : Chk (List Nat))
      | _ => bad (if g.contains .wrong then .reported else .operand)
    return (vs.flatten.map (BitVec.ofNat 8), [])
  | none, none, d, [g] => do
    let n ← sound (do (← s.ev p (pure (off : Int)) (← parseExpr g)).const) fun n =>
      if if d = "zero" then 0 ≤ n else 1 ≤ n && n ≤ 65536 && 2 ^ n.toNat.log2 = n.toNat then pure n else badAs .limits 1
    return (List.replicate (if d = "zero" then n.toNat else s.dataSize p off i) 0, [])
  | none, none, _, _ => bad .grammar

/-- A data section: its bytes, relocations and errors. -/
def Src.section_ (s : Src) (p : Pos) (sec : Sec) (items : List DataItem) (offs : List Nat) : List Byte × List DWord × List Err :=
  (items.zip offs).foldl (fun acc x =>
    let ((b, r), e) := checked (s.dataBytes p sec x.2 x.1)
    (acc.1 ++ b, acc.2.1 ++ r, acc.2.2 ++ errsAt x.1.line e)) ([], [], [])

/-! ### Tensor templates -/

/-- The FMT codes by keyword (R135, R159). -/
def fmtKeys : Keys :=
  [("int4", 0), ("int8", 1), ("int16", 2), ("int32", 3), ("fp16", 4), ("bf16", 5), ("fp32", 6), ("e4m3", 7), ("e5m2", 8),
   ("cb4", 9), ("e8m0", 10)]

/-- The block sizes (R135, R159). -/
def blockSizes : List (Nat × Nat) := [(16, 1), (32, 2), (64, 3), (128, 4)]

/-- A keyword of a table among an option's tokens. -/
def keyToks (t : Keys) (ts : List Tok) : Chk Nat :=
  match sane ts with
  | [.name s] => match t.lookup (lower s) with
    | some n => pure n
    | none => bad .operand
  | _ => bad (if ts.contains .wrong then .reported else .operand)

/-- BLK of a block size (R135, R159). -/
def Src.block (s : Src) (p : Pos) (at_ : Option Place) (ts : List Tok) : Chk Nat := do
  if (checked (keyToks [("none", 0)] ts)).2.isEmpty then return 0
  sound (s.number p at_ 0 128 ts) fun n => match blockSizes.lookup n with
    | some b => pure b
    | none => bad .limits

/-- One template: its identifier and its 16 words (R135, R159). -/
def Src.tensor (s : Src) (p : Pos) (d : Dir) : Chk (Nat × List DWord) := do
  match d.args with
  | [] => bad .grammar
  | idt :: kvs =>
    let id ← s.number p d.at_ 0 255 idt
    let (pos, o) ← splitOpts kvs
    if !pos.isEmpty then bad .grammar
    o.only ["fmt", "dims", "strides", "block", "bax", "fold", "sspc", "sbase", "cb"]
    let items (k : String) : Chk (List (List Tok)) := match o.lookup k with | some ts => groups ":" ts | none => pure []
    let one (k : String) (hi : Int) : Chk Nat := match o.lookup k with | some ts => s.number p d.at_ 0 hi ts | none => pure 0
    let key (k : String) (t : Keys) : Chk Nat := match o.lookup k with | some ts => keyToks t ts | none => pure 0
    if (o.lookup "fmt").isNone || (o.lookup "dims").isNone then bad .missing
    let fmt ← key "fmt" fmtKeys
    let dims ← (← items "dims").mapM (s.number p d.at_ 1 (2 ^ 20))
    let strides ← (← items "strides").mapM (s.number p d.at_ 0 (2 ^ 48 - 1))
    if 4 < dims.length || ((o.lookup "strides").isSome && strides.length + 1 ≠ dims.length) then bad .limits
    let blk ← match o.lookup "block" with | some ts => s.block p d.at_ ts | none => pure 0
    let bax ← one "bax" (dims.length - 1)
    let fold ← key "fold" foldingKeys
    let sspc ← key "sspc" layerKeys
    let sbase ← one "sbase" (2 ^ 56 - 1)
    let cb ← (← items "cb").mapM (literalBits bf16)
    if !cb.isEmpty && (cb.length ≠ 16 || fmt ≠ 9) then bad .limits
    let ext (k : Nat) : Nat := dims.getD k 1 - 1
    let book (k : Nat) : Nat := pack [(16, cb.getD (4 * k + 3) 0), (16, cb.getD (4 * k + 2) 0), (16, cb.getD (4 * k + 1) 0), (16, cb.getD (4 * k) 0)]
    let words : List Nat :=
      [pack [(1, 1), (1, fold), (4, fmt), (2, dims.length - 1), (3, blk), (2, bax), (51, 0)], pack [(5, 0), (3, sspc), (56, sbase)],
       pack [(4, 0), (20, ext 2), (20, ext 1), (20, ext 0)], ext 3, strides.getD 0 0, strides.getD 1 0, strides.getD 2 0, 0,
       book 0, book 1, book 2, book 3, 0, 0, 0, 0]
    let t := words.map (BitVec.ofNat 64)
    if (← get).isEmpty && !tidOk t then bad .template
    return (id, t)

/-- The identifier that a `.tensor` names, where it is in order. -/
def Src.tensorId (s : Src) (p : Pos) (d : Dir) : Option Nat :=
  d.args.head?.bind fun ts => match checked (s.number p d.at_ 0 255 ts) with | (n, []) => some n | _ => none

/-- Every template, each identifier once (R159). -/
def Src.templates (s : Src) (p : Pos) : List (Nat × List DWord) × List Err :=
  let again (ix : Nat) (d : Dir) : Bool :=
    (s.tensorId p d).any fun n => (s.tensors.take ix).any fun x => s.tensorId p x = some n
  (s.tensors.zipIdx).foldl (fun acc x =>
    let (t, e) := checked (s.tensor p x.1)
    let e := e ++ if again x.2 x.1 then [.repeated] else []
    (if e.isEmpty then acc.1 ++ [t] else acc.1, acc.2 ++ errsAt x.1.line e)) ([], [])

/-! ### Teams, stages and units -/

/-- The team grid: one to three extents (R158). -/
def Src.grid (s : Src) (p : Pos) : List Nat × List Err :=
  let l := (s.launch.filter fun x => x.1 = "teams").map fun x =>
    let d := x.2
    let (l, e) := checked (d.args.mapM (s.number p d.at_ 1 1024))
    (l, errsAt d.line ((if d.args.isEmpty || 3 < d.args.length then [.grammar] else []) ++ e))
  ((l.head?.map Prod.fst).getD [], l.flatMap Prod.snd)

/-- The stages of the coaches: (coach, stage), from disjoint ranges below the coach count (R158). -/
def Src.stages (s : Src) (p : Pos) (coaches : Nat) : List (Nat × Nat) × List Err :=
  (s.launch.filter fun x => x.1 = "stage").foldl (fun acc x =>
    let bad (l : List Why) := (acc.1, acc.2 ++ errsAt x.2.line l)
    match x.2.args with
    | [a, b, c] =>
      let read : Chk (Nat × Nat × Nat) := do
        return (← s.number p x.2.at_ 0 7 a, ← s.number p x.2.at_ 0 (coaches - 1) b, ← s.number p x.2.at_ 0 (coaches - 1) c)
      match checked read with
      | ((st, lo, hi), []) =>
        if hi < lo then bad [.limits]
        else
          let range := (List.range (hi + 1 - lo)).map (· + lo)
          if range.any fun k => acc.1.any fun q => q.1 = k then bad [.stageOverlap]
          else (acc.1 ++ range.map fun k => (k, st), acc.2)
      | (_, e) => bad e
    | _ => bad [.grammar]) ([], [])

/-- The units that `.units` names, each once (R158). -/
def Src.units (s : Src) : List Nat × List Err :=
  let l := (s.launch.filter fun x => x.1 = "units").map fun x =>
    let rs := x.2.args.map fun ts => checked (keyToks [("env", 0), ("acc", 1)] ts)
    let l : List Nat := (rs.filter fun r => r.2.isEmpty).map Prod.fst
    (l, errsAt x.2.line ((if rs.isEmpty then [.grammar] else []) ++ rs.flatMap Prod.snd
      ++ if l.eraseDups.length = l.length then [] else [.repeated]))
  ((l.head?.map Prod.fst).getD [], l.flatMap Prod.snd)

/-! ### Statements out of place -/

/-- The errors of statements that stand in a section which does not take them, besides that one (R143, R157). -/
def Src.strays (s : Src) (p : Pos) : List Err :=
  let dot (x : Option Place) : Nat := (x.map p.at_).getD 0
  (s.strayCode.flatMap fun x => match x.1.body with
    | .ins .. => errsAt x.1.line (checked (s.draft p (dot x.2) x.1)).2
    | _ => [])
  ++ s.strayData.flatMap fun x => errsAt x.1.line (checked (s.dataBytes p .data (dot x.2) x.1)).2

/-! ### The object -/

/-- The next multiple of 8. -/
def up8 (n : Nat) : Nat := (n + 7) / 8 * 8

/-- Bytes up to a multiple of 8. -/
def to8 (l : List Byte) : List Byte := l ++ List.replicate (up8 l.length - l.length) 0

/-- A code object of a native program (R375 to R377): the header, then the code, .const and .data sections, the relocations and
the templates, each at the next multiple of 8 (log entry 52). -/
def object (w1 w2 : Nat) (stage : Nat → Nat) (entry : Nat) (code const data : List Byte) (relocs : List DWord)
    (ts : List (Nat × List DWord)) : List Byte :=
  let dwords (l : List DWord) : List Byte := l.flatMap fun x => leBytes 8 x.toNat
  let tpl := ts.flatMap fun t => leBytes 8 t.1 ++ dwords t.2
  let o5 := 128
  let o6 := up8 (o5 + code.length)
  let o7 := up8 (o6 + const.length)
  let o8 := up8 (o7 + data.length)
  let o9 := o8 + 8 * relocs.length
  let two (hi lo : Nat) : Nat := pack [(32, hi), (32, lo)]
  let stages (k : Nat) : Nat := ((List.range 16).map fun c => stage (16 * k + c) * 2 ^ (3 * c)).sum
  let header : List Nat :=
    [pack [(32, 0x4C453943), (16, 1), (16, 0)], w1, w2, stages 0, stages 1, two code.length o5, two const.length o6,
     two data.length o7, two relocs.length o8, two ts.length o9, pack [(6, 0), (26, entry), (18, 0), (14, 0)], 0, 0, 0, 0, 0]
  header.flatMap (leBytes 8) ++ to8 code ++ to8 const ++ to8 data ++ dwords relocs ++ tpl

/-- The code object of a source that has been read and laid out, with every error found (R143, R152, R158). -/
def Src.build (s : Src) (p : Pos) (last : Nat) : List Err × List Byte :=
  let run := (s.code.zip p.code).foldl (s.emit p) {}
  let const := s.section_ p .const s.const p.const
  let data := s.section_ p .data s.data p.data
  let tpl := s.templates p
  let equs := (s.equs ++ s.strayEqus).flatMap fun q => errsAt q.line (s.equErrs p q)
  let closed := match s.code.getLast? with
    | some i => (match i.body with | .trailer _ _ => [] | _ => [{ line := i.line, why := .noTrailer }])
    | none => [{ line := last, why := .noTrailer }]
  let kernel : List Err := if s.kernels = 1 && s.ends = 1 && s.entry.isSome then [] else [{ line := last, why := .kernel }]
  let n (d : String) (lo hi step dflt : Nat) := s.launchNat p d lo hi step dflt
  let allot := n "allot" 16 192 16 16
  let missing : List Err := if (s.launch.lookup "allot").isSome then [] else [{ line := last, why := .missing }]
  let coaches := n "coaches" 1 32 1 1
  let scratch := n "scratch" 0 128 1 0
  let overhead := n "overhead" 0 56 1 0
  let slice := n "slice" 0 8192 256 0
  let cgroup := n "cgroup" 0 8 1 0
  let tags := n "tags" 0 64 1 0
  let revision := n "revision" 1 3 1 3
  let compat := n "compat" 0 1 1 0
  let grid := s.grid p
  let stages := s.stages p coaches.1
  let units := s.units
  let spad : List Err :=
    if scratch.1 * 4096 + coaches.1 * 32 * slice.1 ≤ 2 ^ 19 then [] else [{ line := last, why := .scratchTooLarge }]
  let w1 := pack [(2, 0), (2, revision.1), (1, compat.1), (1, bit (run.env || units.1.contains 0)), (1, bit (run.acc || units.1.contains 1)),
    (8, allot.1), (6, slice.1 / 256), (8, scratch.1), (6, overhead.1), (4, cgroup.1), (7, tags.1), (18, 0)]
  let w2 := pack [(5, coaches.1 - 1), (10, grid.1.getD 0 1 - 1), (10, grid.1.getD 1 1 - 1), (10, grid.1.getD 2 1 - 1), (29, 0)]
  (run.errs ++ s.strays p ++ closed ++ const.2.2 ++ data.2.2 ++ tpl.2 ++ equs ++ kernel ++ missing ++ allot.2 ++ coaches.2 ++ scratch.2
    ++ overhead.2 ++ slice.2 ++ cgroup.2 ++ tags.2 ++ revision.2 ++ compat.2 ++ grid.2 ++ stages.2 ++ units.2 ++ spad,
   object w1 w2 (fun c => (stages.1.lookup c).getD 0) (p.at_ { sec := .code, ix := s.entry.getD 0 })
     (run.words.flatMap fun w => leBytes 4 w.toNat) const.1 data.1 (const.2.1 ++ data.2.1 ++ run.relocs) tpl.1)

end Sys2Proof.Machine.Zyas

namespace Sys2Proof.Machine

open Zyas in
/-- The assembler (R143): a source file, by its name and its bytes, gives one code object, or every error with its file and
line and no object. -/
def zyas (file : String) (source : List Byte) : Except (List (String × Err)) (List Byte) :=
  let s := Zyas.read (source.map BitVec.toNat)
  let last := (linesFrom [] (source.map BitVec.toNat)).length
  let (settled, t, p) := s.layout (s.code.length + 1)
  let out := t.build p last
  match (t.errs.reverse ++ out.1 ++ errsAt last (if settled then [] else [.unsettled])).filter fun e => e.why ≠ .reported with
  | [] => .ok out.2
  | errs => .error (errs.map fun e => (file, e))

end Sys2Proof.Machine
end

