-- ==== Sys2Proof/Laws/Zyas.lean ====
section
/-!
SUPPORT. Lemmas about the assembler: its bitwise operators, the parts of an immediate and the places of sections.
-/

namespace Sys2Proof.Laws

open Sys2Proof.Machine Sys2Proof.Machine.Zyas

/-- ~ is an involution (R161). -/
theorem intNot_intNot (x : Int) : intNot (intNot x) = x := by unfold intNot; omega

/-- AND commutes on infinite two's complement (R161). -/
theorem intAnd_comm (a b : Int) : intAnd a b = intAnd b a := by
  cases a <;> cases b <;> simp [intAnd, Nat.and_comm, Nat.or_comm]

/-- OR commutes (R161). -/
theorem intOr_comm (a b : Int) : intOr a b = intOr b a := by simp [intOr, intAnd_comm]

/-- The bits that an IMMX supplies and those of the field make up the immediate (R163). -/
theorem immediate_parts (f : Field) (raw : Nat) : raw / 2 ^ f.width * 2 ^ f.width + fld raw 0 f.width = raw := by
  simp [fld, Nat.mul_comm, Nat.div_add_mod]

/-- Every section of an object starts at a multiple of 8 (R375). -/
theorem up8_spec (n : Nat) : up8 n % 8 = 0 ∧ n ≤ up8 n ∧ up8 n < n + 8 := by unfold up8; omega

theorem to8_length (l : List Byte) : (to8 l).length = up8 l.length := by
  have := (up8_spec l.length).2.1
  simp [to8]; omega

/-- A relocatable value is never a constant (R162). -/
theorem const_ok {v : Val} {n : Int} (h : checked v.const = (n, [])) : v.rel = none ∧ v.n = n := by
  cases hr : v.rel with
  | none => simp [Val.const, hr, checked, StateT.run, pure, StateT.pure] at h; exact ⟨rfl, h⟩
  | some x => simp [Val.const, hr, checked, StateT.run, bad, badAs, bind, StateT.bind, modify, modifyGet,
      MonadStateOf.modifyGet, StateT.modifyGet, pure, StateT.pure] at h

end Sys2Proof.Laws
end

