-- ==== Sys2Proof/Tests/Slice0.lean ====
section
/-!
SUPPORT. The model's own tests, all on small states built by the helpers below: words of the encoding tables and what they
decode to, instructions that WellFormed refuses, and witnesses: for each clause of a statement that has hypotheses, a
concrete state and operands that meet all of them together.
-/

namespace Sys2Proof.Tests

open Sys2Proof Sys2Proof.Machine Sys2Proof.Claims

/-! ### Helper states -/

/-- Coach 0 of team 0 in the middle of a run, with its storage tables and a trailer after the issuing word. -/
def stateOf (t : Team) (c : Coach) (g : SubGroup) : State :=
  { State.placeNative State.reset 0 with
    cur := .coach 0 0, due := [], teams := [(0, { t with coaches := [{ c with subs := [g] }] })] }

/-- The issuer of that state. -/
def hereOf (t : Team) (c : Coach) (g : SubGroup) : Here :=
  { tick := 0, team := 0, t := { t with coaches := [{ c with subs := [g] }] }, ci := 0, c := { c with subs := [g] }, g := g }

/-- A team with every unit and grant. -/
def team0 : Team :=
  { oid := 1, code := 0x1000, codeLen := 8, grants := { spsz := 256, lssz := 32, tagn := 64 }, envu := true, accu := true,
    tags := -1 }

/-- A coach with 64 V registers, which may execute all that the helpers have written. -/
def coach0 : Coach := { allot := 64, runNo := 1, acq := [(0, 64)], ic := [(0, 64)] }

/-- Its sub-group after `n` words of a run. -/
def sub0 (n : Nat) : SubGroup := { id := 0, pc := 0, mem := 0xFFFFFFFF, exec := 0xFFFFFFFF, run := some { no := 1, words := n } }

def s0 : State := stateOf team0 coach0 (sub0 1)
def h0 : Here := hereOf team0 coach0 (sub0 1)

theorem issues_s0 : Issues true s0 h0 := ⟨rfl, fun _ => rfl, by decide⟩
theorem issues_s0' : Issues false s0 h0 := ⟨rfl, nofun, by decide⟩

/-- A result that the kernel evaluates. -/
theorem ok_of {α β : Type} {x : Except α β} {y : β} (h : x.toOption = some y) : x = .ok y := by
  cases x <;> simp_all [Except.toOption]

theorem isOk_of {α β : Type} {x : Except α β} (h : x.toOption.isSome = true) : ∃ y, x = .ok y := by
  cases x <;> simp_all [Except.toOption]

theorem isError_of {α β : Type} {x : Except α β} (h : x.toOption.isSome = false) : ∃ y, x = .error y := by
  cases x <;> simp_all [Except.toOption]

/-! ### Registers that may be used -/

theorem forall_pair {α : Type} {p : α → Prop} {a b : α} (ha : p a) (hb : p b) : ∀ c ∈ [a, b], p c := by
  simp [ha, hb]


theorem vFree_of {h : Here} {n : Nat} (hb : h.c.board = []) (hn : n < h.c.allot) : VFree h n :=
  ⟨hn, by simp [Coach.boarded, hb]⟩

theorem vsFree_of {h : Here} {b n : Nat} (hb : h.c.board = []) (hn : b + n ≤ h.c.allot) : VsFree h b n :=
  fun _ hi => vFree_of hb (by omega)

theorem usable_of {h : Here} {f : BitVec 8} (hb : h.c.board = []) (hf : 192 ≤ f.toNat ∨ f.toNat < h.c.allot) : Usable h f :=
  fun hl => vFree_of hb (by omega)

theorem usablePair_of {h : Here} {f : BitVec 8} (hb : h.c.board = []) (he : f.toNat % 2 = 0)
    (hf : 192 ≤ f.toNat ∨ f.toNat + 2 ≤ h.c.allot) : UsablePair h f :=
  ⟨he, fun hl => vsFree_of hb (by omega)⟩

theorem laneDest_of {h : Here} {f : BitVec 8} (hb : h.c.board = []) (hf : 248 ≤ f.toNat ∨ f.toNat < h.c.allot ∧ f.toNat < 192) :
    LaneDest h f :=
  hf.elim Or.inr fun hv => Or.inl ⟨hv.2, vFree_of hb hv.1⟩

theorem uniBlock_of {h : Here} {f : BitVec 8} {n : Nat} (hb : h.c.board = []) (he : f.toNat % n = 0)
    (hf : 192 ≤ f.toNat ∨ f.toNat + n ≤ h.c.allot ∧ f.toNat + n ≤ 192) : UniBlock h f n :=
  ⟨he, fun hl => ⟨by omega, vsFree_of hb (by omega)⟩⟩

theorem laneBase_of {h : Here} {f : BitVec 8} {n : Nat} (he : f.toNat % n = 0)
    (hf : 192 ≤ f.toNat ∧ f.toNat < 248 ∧ f.toNat + n ≤ 248) : LaneBlock h f n false :=
  ⟨he, Or.inr (Or.inl ⟨hf.1, hf.2.1, rfl, hf.2.2⟩)⟩

theorem laneBlock_of {h : Here} {f : BitVec 8} {n : Nat} {dst : Bool} (hb : h.c.board = []) (he : f.toNat % n = 0)
    (hf : 248 ≤ f.toNat ∨ f.toNat < 192 ∧ f.toNat + n ≤ h.c.allot ∧ f.toNat + n ≤ 192) : LaneBlock h f n dst :=
  ⟨he, hf.elim (fun ht => Or.inr (Or.inr ht)) fun hv => Or.inl ⟨hv.1, hv.2.2, vsFree_of hb hv.2.1⟩⟩

theorem vPair_of {h : Here} {f : BitVec 8} (hb : h.c.board = []) (he : f.toNat % 2 = 0)
    (hf : f.toNat < 192 ∧ f.toNat + 2 ≤ h.c.allot) : VPair h f :=
  ⟨he, hf.1, vsFree_of hb hf.2⟩

/-! ### Witnesses of the statements: arithmetic, moves and masks -/

theorem witness_UniformArithmeticResults :
    (∃ f, uniformBinary (.udiv false 255 63 192) = some (false, 255, 63, 192, f))
    ∧ (∃ f, uniformImmediate (.uorImm true 0 255 255) = some (true, 0, 255, f))
    ∧ Issues true s0 h0 ∧ Usable h0 255 ∧ Usable h0 63 ∧ Usable h0 192 ∧ Usable h0 0 ∧ UsablePair h0 62 ∧ UsablePair h0 254 :=
  ⟨⟨_, rfl⟩, ⟨_, rfl⟩, issues_s0, usable_of rfl (by decide), usable_of rfl (by decide), usable_of rfl (by decide),
    usable_of rfl (by decide), usablePair_of rfl (by decide) (by decide), usablePair_of rfl (by decide) (by decide)⟩

theorem witness_LaneArithmeticResults :
    (∃ f, laneBinary (.fadd false 63 0 192) = some (false, 63, 0, 192, f))
    ∧ (∃ f, laneMultiplyAdd (.ffma false 255 63 248) = some (false, 255, 63, 248, f))
    ∧ (∃ f, laneImmediate (.cvt false 63 0 3 7 7) = some (false, 63, 0, f))
    ∧ (∃ n, specialFunction (.cos false 63 192) = some (false, 63, 192, n))
    ∧ Issues false s0 h0 ∧ LaneDest h0 63 ∧ LaneDest h0 255 ∧ Usable h0 0 ∧ Usable h0 63 ∧ Usable h0 192 ∧ Usable h0 248 :=
  ⟨⟨_, rfl⟩, ⟨_, rfl⟩, ⟨_, rfl⟩, ⟨_, rfl⟩, issues_s0', laneDest_of rfl (by decide), laneDest_of rfl (by decide),
    usable_of rfl (by decide), usable_of rfl (by decide), usable_of rfl (by decide), usable_of rfl (by decide)⟩

theorem witness_LaneMovesComplete :
    Issues false s0 h0 ∧ LaneDest h0 255 ∧ Usable h0 255 ∧ viNumber h0 63 = (63 : Nat) ∧ VFree h0 63
    ∧ VFree h0 (0 : BitVec 6).toNat ∧ VFree h0 (63 : BitVec 6).toNat :=
  ⟨issues_s0', laneDest_of rfl (by decide), usable_of rfl (by decide), by decide, vFree_of rfl (by decide),
    vFree_of rfl (by decide), vFree_of rfl (by decide)⟩

theorem witness_MaskInstructionResults :
    (∃ f, maskEffect (.exwr false 63) = some (false, some 63, f)) ∧ (∃ f, maskEffect (.mnot true 7 0) = some (true, none, f))
    ∧ Issues false s0 h0 ∧ ∀ x, some (63 : BitVec 8) = some x → Usable h0 x :=
  ⟨⟨_, rfl⟩, ⟨_, rfl⟩, issues_s0', by rintro x ⟨⟩; exact usable_of rfl (by decide)⟩

/-! ### Witnesses of the statements: system registers and control -/

/-- A coach within its handler. -/
def inHandler : Coach :=
  { coach0 with saved := some { fault := { trap := { cause := .trap }, pc := 0, word := 0, pre := none, resume := 4, exec := 1, mem := 1,
                                           run := 1, sub := 7 },
                                token := 0, s := [], t := [], tt := [], tw := [], vi := 0, subs := [], parents := [] } }

/-- A team with a handler's image. -/
def teamH : Team := { team0 with image := some { vbase := 1, len := 4096, pool := 0 } }
def sH : State := stateOf teamH inHandler (sub0 1)
def hH : Here := hereOf teamH inHandler (sub0 1)
theorem issues_sH : Issues false sH hH := ⟨rfl, nofun, by decide⟩

/-- A call of a remote function that executor `ex` runs. -/
def callOf (ex : Nat) (g : SubGroup) : Call :=
  { token := 1, ex := ex, team := 0, coach := 0, oid := 1, deadline := 100, nret := 2, payload := [], entry := 0,
    caller := { team0 with coaches := [] }, fn := some { coach0 with allot := 0, subs := [g] }, started := true }

def stateR (ex : Nat) (g : SubGroup) : State :=
  { State.placeNative State.reset 0 with
    cur := .remote ex, due := [], executors := [(ex, { running := some 9 })], calls := [(9, callOf ex g)] }
def hereR (ex : Nat) (g : SubGroup) : Here :=
  { tick := 0, team := 0, t := { team0 with coaches := [] }, ci := 0, c := { coach0 with allot := 0, subs := [g] }, g := g,
    remote := some ex }
def sR : State := stateR 0x100 (sub0 1)
def hR : Here := hereR 0x100 (sub0 1)
theorem issues_sR : Issues true sR hR := ⟨rfl, fun _ => rfl, by decide⟩

theorem trailer_s0 : TrailerFollows s0 h0 := ⟨0xBF000000, ok_of (by decide +kernel), rfl⟩
theorem trailer_sH : TrailerFollows sH hH := ⟨0xBF000000, ok_of (by decide +kernel), rfl⟩

theorem witness_SystemRegisterMoves :
    Issues true s0 h0 ∧ h0.remote = none ∧ (0x21, false, 0x400) ∈ coachReads h0 ∧ Usable h0 63
    ∧ (0x11, true, 0) ∈ coachReads h0 ∧ UsablePair h0 62 ∧ (0x02, false, 0) ∈ coachReads h0 ∧ Usable h0 192
    ∧ VFree h0 (63 : BitVec 8).toNat
    ∧ Issues true sR hR ∧ hR.remote = some 0x100 ∧ (0x08, true, 0) ∈ remoteReads hR 0x100
    ∧ Issues false s0 h0 ∧ (0x09, { h0 with c := { h0.c with vi := BitVec.ofNat 8 (h0.u 63).1.toNat } })
        ∈ coachWrites s0 h0 (h0.u 63).1.toNat
    ∧ isWide 0x11 = true ∧ (0x11, { h0 with c := { h0.c with act := BitVec.ofNat 2 (h0.uPair 62).1.toNat } })
        ∈ coachWrites s0 h0 (h0.uPair 62).1.toNat :=
  ⟨issues_s0, rfl, by decide, usable_of rfl (by decide), by decide, usablePair_of rfl (by decide) (by decide), by decide,
    usable_of rfl (by decide), vFree_of rfl (by decide), issues_sR, rfl, by decide, issues_s0', by decide, rfl, by decide⟩

theorem witness_RunClosingEffectsAreKept :
    (∃ k, transferOf h0 (.bz false 63 0x7FFF) = some (false, true, some 63, k))
    ∧ transferOf h0 (.bnz false 63 0x7FFF) = some (false, true, some 63, .none)
    ∧ (∃ k, transferOf hR (.endLanes false) = some (false, true, none, k))
    ∧ (∃ k, transferOf h0 (.bvnz false 192 0) = some (false, false, some 192, k))
    ∧ Issues true s0 h0 ∧ Issues true sR hR ∧ Issues false s0 h0 ∧ TrailerFollows s0 h0 ∧ TrailerFollows sR hR
    ∧ (∀ x, some (63 : BitVec 8) = some x → Usable h0 x) ∧ UsablePair h0 192 ∧ TagsBelow h0 192
    ∧ Issues false sH hH ∧ TrailerFollows sH hH ∧ hH.c.saved.isSome = true :=
  ⟨⟨_, rfl⟩, rfl, ⟨_, rfl⟩, ⟨_, rfl⟩, issues_s0, issues_sR, issues_s0', trailer_s0, ⟨0xBF000000, ok_of (by decide +kernel), rfl⟩,
    by rintro x ⟨⟩; exact usable_of rfl (by decide), usablePair_of rfl (by decide) (by decide), rfl, issues_sH, trailer_sH, rfl⟩

/-- The issuer at a trailer whose run keeps `k`. -/
def atTrailer (k : Closer) : SubGroup :=
  { sub0 1 with run := some { no := 1, words := 2, closer := k, closerPc := 0, closerWords := 1 } }
def sT (k : Closer) : State := stateOf team0 coach0 (atTrailer k)
def hT (k : Closer) : Here := hereOf team0 coach0 (atTrailer k)

theorem witness_TrailerEffects : (∀ k, (sT k).here = some (hT k) ∧ 0 < (hT k).run.words ∧ (hT k).run.closer = k ∧ (hT k).g.rest = false)
    ∧ (∀ k, ((sT k).segment ((hT k).post 0)).2 = 8) ∧ (4 : Nat) < 8 ∧ 4 % 4 = 0 :=
  ⟨fun _ => ⟨rfl, Nat.succ_pos 1, rfl, rfl⟩, fun _ => rfl, by decide, rfl⟩

theorem noWait_of {w : Walk} (h : (match w with | .waits _ => true | _ => false) = false) : ∀ ch, w ≠ .waits ch := by
  rintro ch rfl; cases h

/-- The same place with an IMMX as the issuing word and UADD_IMM after it. -/
def sX : State := s0.writeLocs 1 (.sto 0x1000) (leBytes 4 0xB0000000 ++ leBytes 4 0x95C0C001)

theorem witness_PrefixesFencesAndReplays :
    (∃ w, s0.here = some h0 ∧ h0.run.words < 23 ∧ sX.here = some h0 ∧ sX.fetch h0 (h0.g.pc + 4) = .ok w ∧ takesImmx 0xFF w = true)
    ∧ Issues true s0 h0 ∧ Issues false s0 h0 ∧ Issues false sH hH ∧ hH.c.saved.isSome = true ∧ Usable hH 63 ∧ UsablePair hH 62
    ∧ ∀ ch, sH.walkLeaf hH.t.oid (hH.uPair (62 : BitVec 8).toNat).1.toNat ≠ .waits ch :=
  ⟨⟨0x95C0C001, rfl, by decide, rfl, ok_of (by decide +kernel), rfl⟩, issues_s0, issues_s0', issues_sH, rfl, usable_of rfl (by decide),
    usablePair_of rfl (by decide) (by decide), noWait_of (by decide +kernel)⟩

/-- A coach that awaits a call whose disposition its core holds. -/
def h1 : Here := hereOf team0 { coach0 with s := [(0, 1)], disps := [(1, 1, 0)] } (sub0 1)
def s1 : State := stateOf team0 { coach0 with s := [(0, 1)], disps := [(1, 1, 0)] } (sub0 1)

theorem witness_ReadyTagsAndProbes :
    Issues false s0 h0 ∧ UsablePair h0 62 ∧ TagsBelow h0 62 ∧ Issues false s1 h1 ∧ Usable h1 192
    ∧ s1.heldDisp h1.c (h1.u (192 : BitVec 8).toNat).1 = some (1, 0)
    ∧ s1.callOf h1.c (h1.u (192 : BitVec 8).toNat).1 = none
    ∧ Usable h0 192 ∧ s0.heldDisp h0.c (h0.u (192 : BitVec 8).toNat).1 = none ∧ ((h0.u (192 : BitVec 8).toNat).1, 4, 1) ∉ h0.c.disps :=
  ⟨issues_s0', usablePair_of rfl (by decide) (by decide), rfl, ⟨rfl, nofun, by decide⟩, usable_of rfl (by decide), rfl, rfl,
    usable_of rfl (by decide), rfl, nofun⟩

/-- The same sub-group left over by a fault, which stops before a barrier instruction (R48). -/
def hRest : Here := hereOf team0 coach0 { sub0 1 with rest := true }
def sRest : State := stateOf team0 coach0 { sub0 1 with rest := true }

/-- Barrier 15 has one arrival of the two that it expects. -/
def team1 : Team := { team0 with barriers := [(15, { count := 1, expected := 2 })] }
def sB : State := stateOf team1 { coach0 with s := [(0, 1)] } (sub0 1)
def hB : Here := hereOf team1 { coach0 with s := [(0, 1)] } (sub0 1)

theorem witness_BarrierArrivals :
    (Issues false s0 h0 ∧ h0.meets = none ∧ barrierCount h0 0 1 0 = 1 ∧ ∃ k done, h0.arriveSub 15 1 false = .ok (k, done))
    ∧ (Issues false s1 h1 ∧ h1.meets = none ∧ Usable h1 192 ∧ barrierCount h1 192 0 31 = 1 ∧ TrailerFollows s1 h1
      ∧ ∃ k done, h1.arriveSub 0 1 true = .ok (k, done))
    ∧ (Alone h0 ∧ 1 ≠ 0 ∧ 1 ≤ h0.t.coaches.length ∧ (h0.t.barrier 15).count = 0)
    ∧ (Alone h0 ∧ Usable h0 192 ∧ barrierCount h0 192 0 31 = 0 ∧ h0.t.coaches.length < barrierCount h0 0 1 31)
    ∧ (sRest.here = some hRest ∧ ∃ k, hRest.meets = some k)
    ∧ (Issues false sB hB ∧ hB.meets = none ∧ Alone hB ∧ Usable hB 192 ∧ 0 < (hB.t.barrier 15).count
      ∧ barrierCount hB 192 0 31 ≠ (hB.t.barrier 15).expected ∧ TrailerFollows sB hB) :=
  ⟨⟨issues_s0', rfl, rfl, _, _, rfl⟩, ⟨⟨rfl, nofun, by decide⟩, rfl, usable_of rfl (by decide), rfl, ⟨0xBF000000, ok_of (by decide +kernel), rfl⟩, _, _, rfl⟩,
    ⟨⟨rfl, rfl, rfl⟩, by decide, by decide, rfl⟩, ⟨⟨rfl, rfl, rfl⟩, usable_of rfl (by decide), rfl, by decide⟩,
    ⟨rfl, _, rfl⟩, ⟨rfl, nofun, by decide⟩, rfl, ⟨rfl, rfl, rfl⟩, usable_of rfl (by decide), by decide, by decide, ⟨0xBF000000, ok_of (by decide +kernel), rfl⟩⟩

/-! ### Witnesses of the statements: loads, stores and atomics -/

/-- A coach whose pair S0, S1 is the address 0x1000; lanes 0 and 31 are active. -/
def coachM : Coach := { coach0 with s := [(0, 0x1000)] }
def subM : SubGroup := { sub0 1 with exec := 0x80000001 }
def sM : State := stateOf team0 coachM subM
def hM : Here := hereOf team0 coachM subM
def found (l : Nat) : Checked := { lane := l, ea := 0x1000, loc := .sto 0x1000, leaf := placedLeaf }

theorem issues_sM : Issues true sM hM := ⟨rfl, fun _ => rfl, by decide⟩
theorem issues_sM' : Issues false sM hM := ⟨rfl, nofun, by decide⟩
theorem access_sM (acc : Access) (n : Nat) (hn : n = 4 ∨ n = 16) : UniAccess sM hM 5 n acc (found 0) := by
  rcases hn with rfl | rfl <;> cases acc <;> exact ⟨rfl, by decide +kernel⟩
theorem accesses_sM (acc : Access) (n : Nat) (hn : n = 4 ∨ n = 16) :
    LaneAccesses sM hM 5 n acc (fun l => (hM.addrL 5 192 false l).1) [found 0, found 31] := by
  rcases hn with rfl | rfl <;> cases acc <;> 
    exact ⟨rfl, forall_pair ⟨rfl, by decide +kernel⟩ ⟨rfl, by decide +kernel⟩⟩
theorem base_sM : UniBase hM 5 192 false := fun _ => uniBlock_of rfl (by decide) (by decide)
theorem laneBase_sM : LaneBase hM 5 192 false := fun _ => laneBase_of (by decide) (by decide)

theorem witness_UniformLoadsAndStoresComplete :
    uniformLoad (.uldq false 60 192 0 0) = some (false, 60, 192, 0, false, 16, false, none)
    ∧ uniformLoad (.uldcw false 255 192 0 0) = some (false, 255, 192, 0, false, 4, true, none)
    ∧ uniformLoad (.uldwAcq false 255 192 0 0) = some (false, 255, 192, 0, false, 4, false, some 0)
    ∧ uniformStore (.ustq false 252 192 0 0) = some (false, 252, 192, 0, false, 16, none)
    ∧ uniformStore (.ustwRel false 255 192 0 5) = some (false, 255, 192, 0, false, 4, some 5)
    ∧ spaceOfWh (0 : BitVec 3).toNat = 5 ∧ Issues true sM hM ∧ UniBlock hM 60 (registersOf 16) ∧ UniBlock hM 252 (registersOf 16)
    ∧ UniBlock hM 255 (registersOf 4) ∧ UniBase hM 5 192 false ∧ (found 0).ea = (hM.addrU 5 192 false).1
    ∧ UniAccess sM hM 5 16 .load (found 0) ∧ UniAccess sM hM 5 4 .load (found 0) ∧ UniAccess sM hM 5 16 .store (found 0) :=
  ⟨rfl, rfl, rfl, rfl, rfl, rfl, issues_sM, uniBlock_of rfl (by decide) (by decide), uniBlock_of rfl (by decide) (by decide),
    uniBlock_of rfl (by decide) (by decide), base_sM, rfl, access_sM _ _ (.inr rfl), access_sM _ _ (.inl rfl),
    access_sM _ _ (.inr rfl)⟩

theorem witness_UniformAtomicsComplete :
    (∃ f, uniformAtomic (.uacas false 62 0 0 3 0) = some (false, 62, 0, 0, true, some 0, some 0, 7, f))
    ∧ spaceOfWh (0 : BitVec 3).toNat = 5 ∧ Issues true sM hM ∧ (0 : BitVec 6).toNat % 2 = 0
    ∧ (found 0).ea = (hM.addrU 5 (BitVec.ofNat 8 (192 + (0 : BitVec 6).toNat)) false).1
    ∧ UniAccess sM hM 5 4 .atomic (found 0) :=
  ⟨⟨_, rfl⟩, rfl, issues_sM, rfl, rfl, access_sM _ _ (.inl rfl)⟩

theorem witness_LaneLoadsComplete :
    laneLoads (.ldq false 60 192 0 0) = some (false, 60, 192, 0, false, 16, false, none) ∧ spaceOfWh (0 : BitVec 3).toNat = 5
    ∧ Issues false sM hM ∧ LaneBlock hM 60 (registersOf 16) true ∧ LaneBase hM 5 192 false
    ∧ LaneAccesses sM hM 5 16 .load (fun l => (hM.addrL 5 192 false l).1) [found 0, found 31] :=
  ⟨rfl, rfl, issues_sM', laneBlock_of rfl (by decide) (by decide), laneBase_sM, accesses_sM _ _ (.inr rfl)⟩

theorem witness_LaneStoresComplete :
    laneStores (.stq false 252 192 0 0) = some (false, 252, 192, 0, false, 16, none) ∧ spaceOfWh (0 : BitVec 3).toNat = 5
    ∧ Issues false sM hM ∧ LaneBlock hM 252 (registersOf 16) false ∧ LaneBase hM 5 192 false
    ∧ LaneAccesses sM hM 5 16 .store (fun l => (hM.addrL 5 192 false l).1) [found 0, found 31] :=
  ⟨rfl, rfl, issues_sM', laneBlock_of rfl (by decide) (by decide), laneBase_sM, accesses_sM _ _ (.inr rfl)⟩

theorem witness_LaneAtomicsComplete :
    (∃ f, laneAtomics (.acas false 62 192 0 0 0) = some (false, 62, 192, 0, true, none, none, 7, f)) ∧ spaceOfWh (0 : BitVec 3).toNat = 5
    ∧ Issues false sM hM ∧ VsFree hM (62 : BitVec 6).toNat 2 ∧ LaneBase hM 5 192 false
    ∧ LaneAccesses sM hM 5 4 .atomic (fun l => (hM.addrL 5 192 false l).1) [found 0, found 31] :=
  ⟨⟨_, rfl⟩, rfl, issues_sM', vsFree_of rfl (by decide), laneBase_sM, accesses_sM _ _ (.inl rfl)⟩

/-! ### Witnesses of the statements: engine requests, calls and matrix jobs -/

/-- The issuer with argument registers S0, S1, … and identifiers; `n` coaches in the team, the others idle. -/
def coachE (args : Cells Word) (tids : Cells DWord) : Coach := { coach0 with s := args, tids := tids }
def sE (args : Cells Word) (tids : Cells DWord) : State := stateOf team0 (coachE args tids) (sub0 1)
def hE (args : Cells Word) (tids : Cells DWord) : Here := hereOf team0 (coachE args tids) (sub0 1)
theorem issues_sE (args : Cells Word) (tids : Cells DWord) : Issues false (sE args tids) (hE args tids) :=
  ⟨rfl, nofun, Nat.lt_of_sub_pos (Nat.succ_pos 22)⟩
theorem tagFree_sE (args : Cells Word) (tids : Cells DWord) (t : Nat) (ht : t < 64) : TagFree (hE args tids) t :=
  ⟨ht, by show (-1 : DWord).getLsbD t = true; revert t; decide⟩

/-- A page of owner 1 that waits to move. -/
def waiting : Swap := { id := 5, oid := 1, va := 0, size := 0x10000, leafAt := 0x40000, old := 0, new := 0x1000000000 }
def moving (s : State) : State := { s with swaps := [waiting] }

/-- Identifier 0 is 1 x 1 INT8, 1 a vector of one FP16, 2 is 1 x 1 FP16, 4 and 5 are 1 x 1 E4M3 in blocks of 32 along rows
and columns. -/
def tids0 : Cells DWord :=
  [(0, 0x8500000000000000), (4, 1), (16, 0x9000000000000000), (32, 0x9100000000000000), (36, 2),
    (64, 0x9D40000000000000), (68, 1), (80, 0x9D48000000000000), (84, 1)]

/-- Arguments of a COPY of 16 bytes from GLOBAL to the scratchpad in class 3, of one of an FP16 element of the scratchpad to
an FP16 element of GLOBAL, of a GSJOB of one index, and of an MVSTACK of one column. -/
def argsC : Cells Word := [(0, 0x1000), (4, 16), (5, 0x300)]
def argsX : Cells Word := [(2, 0x1000), (4, 2), (5, 0x01010300)]
def argsG : Cells Word := [(0, 0x1000), (3, 64), (4, 1), (5, 1), (6, 0x300)]
def argsV : Cells Word := [(0, 0x01020000), (1, 0x33F), (3, 0x1000), (5, 64)]
def inGlobal (n : Nat) : List Piece := [{ off := 0, len := n, loc := .sto 0x1000 }]
def inCore (o n : Nat) : List Piece := [{ off := 0, len := n, loc := .core 0 o }]

theorem argsG0 : (hE argsG tids0).arg64 192 0 = 0x1000 := rfl
theorem argsG2 : ((hE argsG tids0).arg 192 2).toNat = 0 := rfl
theorem argsG3 : ((hE argsG tids0).arg 192 3).toNat = 64 := rfl
theorem argsG4 : ((hE argsG tids0).arg 192 4).toNat = 1 := rfl
theorem argsG5 : ((hE argsG tids0).arg 192 5).toNat = 1 := rfl
theorem argsV3 : (hE argsV tids0).arg64 192 3 = 0x1000 := rfl

theorem witness_EngineRequestsAnswered :
    (Issues false (sE argsC tids0) (hE argsC tids0) ∧ TagFree (hE argsC tids0) (63 : BitVec 6).toNat
      ∧ CopyArgs (hE argsC tids0) 192 4 0 0
      ∧ (sE argsC tids0).wholeRange (hE argsC tids0).agent 4 .load 0x1000 16 = .ok (inGlobal 16)
      ∧ (sE argsC tids0).wholeRange (hE argsC tids0).agent 0 .store 0 16 = .ok (inCore 0 16)
      ∧ ∃ s', (sE argsC tids0).tryAdmit 1 3 (pathTransit 0 (inGlobal 16 ++ inCore 0 16)) [(0, 2 ^ 30)]
          (byteNeeds (inGlobal 16) (inCore 0 16)) = .ok s')
    ∧ (Issues false (moving (sE argsX tids0)) (hE argsX tids0) ∧ TagFree (hE argsX tids0) (0 : BitVec 6).toNat
      ∧ CopyArgs (hE argsX tids0) 192 0 4 1
      ∧ (moving (sE argsX tids0)).wholeRange (hE argsX tids0).agent 0 .load 0 2 = .ok (inCore 0 2)
      ∧ (moving (sE argsX tids0)).wholeRange (hE argsX tids0).agent 4 .store 0x1000 2 = .ok (inGlobal 2)
      ∧ ∃ k, (moving (sE argsX tids0)).tryAdmit 1 3 1 ((moving (sE argsX tids0)).snapshot 1 4 0x1000 2) [] = .error k)
    ∧ (Issues false (sE argsG tids0) (hE argsG tids0) ∧ TagFree (hE argsG tids0) (0 : BitVec 6).toNat
      ∧ GsArgs (sE argsG tids0) (hE argsG tids0) 192 1 2
      ∧ GsRanges (sE argsG tids0) (hE argsG tids0) 192 false 1 2 0 (inGlobal 4) (inCore 0 4) (inCore 64 4)
      ∧ GsRanges (sE argsG tids0) (hE argsG tids0) 192 true 1 2 0 (inGlobal 4) (inCore 0 4) (inCore 64 4))
    ∧ (Issues false (sE argsV tids0) (hE argsV tids0) ∧ TagFree (hE argsV tids0) (fld ((hE argsV tids0).arg 192 1).toNat 0 6)
      ∧ MvArgs (sE argsV tids0) (hE argsV tids0) 192
      ∧ MvRanges (sE argsV tids0) (hE argsV tids0) 192 (inCore 0 2) [] (inGlobal 2) [] (inCore 64 4)) := by
  refine ⟨⟨issues_sE _ _, tagFree_sE _ _ _ (by decide), ?_, ok_of (by decide +kernel), ok_of (by decide +kernel),
      isOk_of (by decide +kernel)⟩,
    ⟨⟨rfl, nofun, by decide⟩, tagFree_sE _ _ _ (by decide), ?_, ok_of (by decide +kernel), ok_of (by decide +kernel),
      isError_of (by decide +kernel)⟩,
    ⟨issues_sE _ _, tagFree_sE _ _ _ (by decide), ?_, ?_, ?_⟩, ⟨issues_sE _ _, tagFree_sE _ _ _ (by decide), ?_, ?_⟩⟩
  · exact ⟨by decide, by decide, by decide, by decide, by decide, fun hx => absurd rfl hx, by decide, by decide, by decide⟩
  · exact ⟨by decide, by decide, by decide, by decide, by decide, fun _ => by decide, by decide, by decide, by decide⟩
  · exact ⟨by decide, by decide, by decide, by rw [argsG0, argsG5]; decide +kernel, by rw [argsG0, argsG5]; decide +kernel,
      by rw [argsG0, argsG5]; decide +kernel, by decide, by decide, by decide⟩
  · exact ⟨ok_of (by decide +kernel), ok_of (by decide +kernel), ok_of (by decide +kernel)⟩
  · exact ⟨ok_of (by decide +kernel), ok_of (by decide +kernel), ok_of (by decide +kernel)⟩
  · exact ⟨by decide, by decide, by decide, by decide, by decide, by decide, fun _ _ => rfl, by decide +kernel,
      by decide +kernel, rfl, rfl⟩
  · exact ⟨ok_of (by decide +kernel), ok_of (by decide +kernel), ok_of (by decide +kernel), ok_of (by decide +kernel),
      ok_of (by decide +kernel)⟩
/-- An RCALL of class 0 of the function at offset 4 on the data at GLOBAL 0x1000, whose executor is 0. -/
def argsR : Cells Word := [(0, 0x1000), (2, 0x10000004)]
theorem argsR0 : (hE argsR []).arg64 192 0 = 0x1000 := rfl

theorem callFree_sE : (sE argsR []).movingIn (hE argsR []).t.oid ((hE argsR []).arg64 192 0) 1 = false
    ∧ walkWaits ((sE argsR []).walksOf (hE argsR []).t.oid ((hE argsR []).arg64 192 0) 1) = []
    ∧ (sE argsR []).anyHost (hE argsR []).t.oid ((hE argsR []).arg64 192 0) 1 = false := by
  rw [argsR0]; exact ⟨rfl, by decide +kernel, by decide +kernel⟩

/-- The calendar of executor 0 is taken for the next seven slots. -/
def taken7 (s : State) : State := { s with calendar := [{ res := 0x20, slot := 0, len := 7, amount := 1 }] }

theorem callFree_taken7 : (taken7 (sE argsR [])).movingIn (hE argsR []).t.oid ((hE argsR []).arg64 192 0) 1 = false
    ∧ walkWaits ((taken7 (sE argsR [])).walksOf (hE argsR []).t.oid ((hE argsR []).arg64 192 0) 1) = []
    ∧ (taken7 (sE argsR [])).anyHost (hE argsR []).t.oid ((hE argsR []).arg64 192 0) 1 = false := by
  rw [argsR0]; exact ⟨rfl, by decide +kernel, by decide +kernel⟩

theorem witness_RemoteCallsAnswered :
    Issues false (sE argsR []) (hE argsR []) ∧ CallArgs (sE argsR []) (hE argsR []) 192
    ∧ (sE argsR []).wholeRange (hE argsR []).agent (callLayer (hE argsR []) 192) .load ((hE argsR []).arg64 192 0) 1 = .ok (inGlobal 1)
    ∧ pieceLoc (inGlobal 1) 0 = some (.sto 0x1000)
    ∧ 0 = executorOf 4 0 (.sto 0x1000) ∧ callClass (hE argsR []) 192 = 0
    ∧ (∃ s', (sE argsR []).tryAdmit 1 0 (callTransit 0 0) [] (callNeeds 0 0 16 8) = .ok s')
    ∧ Issues false (taken7 (sE argsR [])) (hE argsR []) ∧ CallArgs (taken7 (sE argsR [])) (hE argsR []) 192
    ∧ ∃ k, (taken7 (sE argsR [])).tryAdmit 1 0 (callTransit 0 0) [] (callNeeds 0 0 16 8) = .error k := by
  have hp : (taken7 (sE argsR [])).placeAll 0 (windowSlots 0 (callTransit 0 0)) (callNeeds 0 0 16 8) = none := rfl
  refine ⟨issues_sE _ _, ⟨by decide, by decide, by decide, fun _ => callFree_sE, by decide⟩, ok_of (by decide +kernel), rfl,
    rfl, rfl, isOk_of (by decide +kernel), ⟨rfl, nofun, by decide⟩, ⟨by decide, by decide, by decide, fun _ => callFree_taken7, by decide⟩, ?_⟩
  refine ⟨(taken7 (sE argsR [])).hint (windowSlots 0 (callTransit 0 0)) (callNeeds 0 0 16 8), ?_⟩
  unfold State.tryAdmit
  rw [if_neg (by decide)]
  show (match (taken7 (sE argsR [])).placeAll 0 (windowSlots 0 (callTransit 0 0)) (callNeeds 0 0 16 8) with
    | some s => Except.ok s
    | none => .error ((taken7 (sE argsR [])).hint (windowSlots 0 (callTransit 0 0)) (callNeeds 0 0 16 8))) = _
  rw [hp]

/-- A block of a matrix instruction on identifier 0 for the participants `pm`, of whose fragments the results lie at 64. -/
def argsP (pm : Word) : Cells Word := [(0, 0), (1, pm), (2, 64)]
def argsL : Cells Word := [(0, 0), (1, 1), (2, 1), (4, 64)]

/-- Coach 0 of a team of `n` coaches with 192 V registers. -/
def coachP (args : Cells Word) : Coach := { coachE args tids0 with allot := 192, subs := [sub0 1] }
def teamP (n : Nat) (args : Cells Word) : Team := { team0 with coaches := List.replicate n (coachP args) }
def stateP (n : Nat) (args : Cells Word) : State :=
  { State.placeNative State.reset 0 with cur := .coach 0 0, due := [], teams := [(0, teamP n args)] }
def hereP (n : Nat) (args : Cells Word) : Here :=
  { tick := 0, team := 0, t := teamP n args, ci := 0, c := coachP args, g := sub0 1 }

theorem witness_CollectiveJobsMeet :
    (Issues false (stateP 1 (argsP 1)) (hereP 1 (argsP 1)) ∧ (hereP 1 (argsP 1)).t.accu = true ∧ Whole (hereP 1 (argsP 1))
      ∧ CollectiveArgs (hereP 1 (argsP 1)) 192 ∧ fragment (hereP 1 (argsP 1)) 192 = 128
      ∧ VsFree (hereP 1 (argsP 1)) (0 : BitVec 8).toNat 128
      ∧ (0 : BitVec 8).toNat % 128 = 0 ∧ (0 : BitVec 8).toNat < 192 ∧ (0 : BitVec 8).toNat + 128 ≤ (hereP 1 (argsP 1)).c.allot
      ∧ (stateP 1 (argsP 1)).scaleRange (hereP 1 (argsP 1)).agent .load (matA (hereP 1 (argsP 1)) 192) = .ok []
      ∧ (stateP 1 (argsP 1)).scaleRange (hereP 1 (argsP 1)).agent .load (matB (hereP 1 (argsP 1)) 192) = .ok []
      ∧ tidDim (matA (hereP 1 (argsP 1)) 192) 0 ≤ stepK (tidFmt (matA (hereP 1 (argsP 1)) 192)))
    ∧ (Issues false (stateP 32 (argsP 0xFFFFFFFF)) (hereP 32 (argsP 0xFFFFFFFF)) ∧ Whole (hereP 32 (argsP 0xFFFFFFFF))
      ∧ CollectiveArgs (hereP 32 (argsP 0xFFFFFFFF)) 192 ∧ fragment (hereP 32 (argsP 0xFFFFFFFF)) 192 = 4
      ∧ resultBase (hereP 32 (argsP 0xFFFFFFFF)) 192 = 64 ∧ resultRegs (hereP 32 (argsP 0xFFFFFFFF)) 192 = 16
      ∧ VsFree (hereP 32 (argsP 0xFFFFFFFF)) 64 16 ∧ VsFree (hereP 32 (argsP 0xFFFFFFFF)) (60 : BitVec 8).toNat 4
      ∧ (60 : BitVec 8).toNat + 4 ≤ 64)
    ∧ (Issues false (stateP 1 argsL) (hereP 1 argsL) ∧ CollectiveArgs (hereP 1 argsL) 192
      ∧ ((hereP 1 argsL).arg 192 2).toNat = 1
      ∧ (1 - 1) * stepK (tidFmt (matA (hereP 1 argsL) 192)) < tidDim (matA (hereP 1 argsL) 192) 0
      ∧ (stateP 1 argsL).tensorRange (hereP 1 argsL).agent 0 .load 0 (matA (hereP 1 argsL) 192) (loopK (hereP 1 argsL) 192)
        = .ok (inCore 0 1)
      ∧ (stateP 1 argsL).tensorRange (hereP 1 argsL).agent 0 .load 64 (matB (hereP 1 argsL) 192) (loopK (hereP 1 argsL) 192)
        = .ok (inCore 64 1)
      ∧ (stateP 1 argsL).scaleLines (hereP 1 argsL).agent .load (matA (hereP 1 argsL) 192) (loopK (hereP 1 argsL) 192) = .ok []
      ∧ (stateP 1 argsL).scaleLines (hereP 1 argsL).agent .load (matB (hereP 1 argsL) 192) (loopK (hereP 1 argsL) 192) = .ok [])
    ∧ (∀ (fresh : Rendezvous) arr un, fresh.arrived = [] → (meeting (hereP 1 argsL) fresh arr un).arrived.length = 1
      ∧ (meeting (hereP 1 argsL) fresh arr un).loop = fresh.loop ∧ (meeting (hereP 1 argsL) fresh arr un).block = fresh.block)
    ∧ maskCount 1 = 1 ∧ maskCount 0xFFFFFFFF = 32 := by
  refine ⟨⟨⟨rfl, nofun, by decide⟩, rfl, ⟨rfl, rfl⟩, ?_, rfl, vsFree_of rfl (by decide), by decide, by decide, by decide,
      rfl, rfl, by decide⟩,
    ⟨⟨rfl, nofun, by decide⟩, ⟨rfl, rfl⟩, ?_, rfl, rfl, rfl, vsFree_of rfl (by decide), vsFree_of rfl (by decide), by decide⟩,
    ⟨⟨rfl, nofun, by decide⟩, ?_, rfl, by decide, rfl, rfl, rfl, rfl⟩, ?_, rfl, rfl⟩
  · exact ⟨by decide, by decide, by decide, rfl, by decide, by decide, by decide, rfl, rfl⟩
  · exact ⟨by decide, by decide, by decide, rfl, by decide, by decide, by decide, rfl, rfl⟩
  · exact ⟨by decide, by decide, by decide, rfl, by decide, by decide, by decide, rfl, rfl⟩
  · intro fresh arr un h
    simp [meeting, hereP, teamP, team0, h]

/-- An MDRAIN of a tile as identifier 0 into the scratchpad, and a QUANT2 of identifier 2 into identifiers 4 and 5. -/
def argsD : Cells Word := [(2, 64), (4, 128)]
def argsQ : Cells Word := [(0, 0x02040500), (2, 64), (3, 128)]

theorem witness_DrainsQuantizesAndWaits :
    (Issues false (sE argsD tids0) (hE argsD tids0) ∧ DrainArgs (hE argsD tids0) 192 1
      ∧ (sE argsD tids0).tensorRange (hE argsD tids0).agent (drainLayer (hE argsD tids0) 192) .store 64 (drainOut (hE argsD tids0) 192)
        (tidDim (drainOut (hE argsD tids0) 192) 0) = .ok (inCore 64 1)
      ∧ (sE argsD tids0).wholeRange (hE argsD tids0).agent (maxLayer (hE argsD tids0) 192) .atomic 128 4 = .ok (inCore 128 4)
      ∧ (sE argsD tids0).swapPending 1 (drainPages (sE argsD tids0) (hE argsD tids0) 192 1) = false)
    ∧ (Issues false (sE argsQ tids0) (hE argsQ tids0) ∧ QuantArgs (hE argsQ tids0) 192
      ∧ (sE argsQ tids0).tensorRange (hE argsQ tids0).agent 0 .load 0 (quantIn (hE argsQ tids0) 192)
        (tidDim (quantIn (hE argsQ tids0) 192) 0) = .ok (inCore 0 2)
      ∧ (sE argsQ tids0).scaleRange (hE argsQ tids0).agent .load (quantIn (hE argsQ tids0) 192) = .ok []
      ∧ (sE argsQ tids0).tensorRange (hE argsQ tids0).agent 0 .store 64 (quantRow (hE argsQ tids0) 192)
        (tidDim (quantRow (hE argsQ tids0) 192) 0) = .ok (inCore 64 1)
      ∧ (sE argsQ tids0).tensorRange (hE argsQ tids0).agent 0 .store 128 (quantCol (hE argsQ tids0) 192)
        (tidDim (quantCol (hE argsQ tids0) 192) 0) = .ok (inCore 128 1)
      ∧ (∃ p, (sE argsQ tids0).scaleRange (hE argsQ tids0).agent .store (quantRow (hE argsQ tids0) 192) = .ok p)
      ∧ ∃ p, (sE argsQ tids0).scaleRange (hE argsQ tids0).agent .store (quantCol (hE argsQ tids0) 192) = .ok p)
    ∧ Issues false s0 h0 ∧ h0.c.jobs = [] := by
  refine ⟨⟨issues_sE _ _, ⟨by decide, by decide, by decide, by decide, by decide, by decide, by decide, by decide, rfl,
      fun _ => by decide⟩, rfl, rfl, rfl⟩,
    ⟨issues_sE _ _, ?_, rfl, rfl, rfl, rfl, ⟨_, rfl⟩, ⟨_, rfl⟩⟩, issues_s0', rfl⟩
  refine ⟨by decide, by decide, by decide, ?_, by decide, by decide, by decide, by decide, by decide, rfl⟩
  rintro t (rfl | rfl) <;> exact ⟨by decide, by decide, by decide, by decide, by decide, rfl⟩
/-! ### Witnesses of the statements: planes, descriptors, envelopes and softmax -/

/-- A valid descriptor of an INT8 plane of 4 x 8 elements, one to a lane, with its range at V register `base`. -/
def desc (base : Nat) : DWord := BitVec.ofNat 64 (2 ^ 63 + 2 * 2 ^ 56 + 3 * 2 ^ 53 + 3 * 2 ^ 43 + 7 * 2 ^ 33 + base * 2 ^ 17)

/-- A valid descriptor of an FP32 plane of 64 x 64 elements and depth 2 on a grid of 32 x 32 lanes. -/
def wide : DWord := BitVec.ofNat 64 (2 ^ 63 + 5 * 2 ^ 59 + 5 * 2 ^ 56 + 5 * 2 ^ 53 + 63 * 2 ^ 43 + 63 * 2 ^ 33 + 2 ^ 25)

def coachD : Coach := { coach0 with pd := [(0, desc 0), (1, desc 1), (2, desc 63)], s := [(0, 0x1000)] }
def sD : State := stateOf team0 coachD (sub0 1)
def hD : Here := hereOf team0 coachD (sub0 1)
theorem issues_sD : Issues false sD hD := ⟨rfl, nofun, by decide⟩

theorem planes_hD : PlanesReady hD [hD.plane 0, hD.plane 1, hD.plane 2] true :=
  ⟨by decide, by decide, by decide⟩
theorem pair_hD (fold : Bool) : PlanesReady hD [hD.plane 2, hD.plane 0] fold :=
  ⟨by decide, by decide, fun _ => by decide⟩

theorem witness_PlanePlacesNameTheirElements :
    (Plane.ok (planeOf (desc 63).toNat) 64 = true ∧ (planeOf (desc 63).toNat).rows = 4 ∧ (planeOf (desc 63).toNat).cols = 8
      ∧ (planeOf (desc 63).toNat).depth = 1 ∧ (planeOf (desc 63).toNat).gh * (planeOf (desc 63).toNat).gw = 32 ∧ (0 : Nat) < 32 / 32)
    ∧ Plane.ok (planeOf wide.toNat) 256 = true ∧ (planeOf wide.toNat).rows = 64 ∧ (planeOf wide.toNat).depth = 2
    ∧ 32 < (planeOf wide.toNat).gh * (planeOf wide.toNat).gw :=
  ⟨⟨by decide, by decide, by decide, by decide, by decide, by decide⟩, by decide, by decide, by decide, by decide⟩

theorem witness_PlaneMovesComplete :
    Issues false sD hD ∧ PlanesReady hD [hD.plane 2, hD.plane 0] true ∧ PlanesReady hD [hD.plane 2, hD.plane 0] false
    ∧ (3 : BitVec 10).toNat < (hD.plane 0).rows ∧ (7 : BitVec 10).toNat < (hD.plane 0).cols :=
  ⟨issues_sD, pair_hD _, pair_hD _, by decide, by decide⟩

theorem witness_PlaneArithmeticResults :
    (∃ f, planeArith (.pmin false 0 1 2) = some (false, 0, 1, 2, f)) ∧ Issues false sD hD
    ∧ PlanesReady hD [hD.plane 0, hD.plane 1, hD.plane 2] true :=
  ⟨⟨_, rfl⟩, issues_sD, planes_hD⟩

theorem witness_DescriptorMovesComplete :
    Issues false sD hD ∧ UsablePair hD 62 ∧ Usable hD 63 ∧ (246 : BitVec 8).toNat % 2 = 0 ∧ 192 ≤ (246 : BitVec 8).toNat
    ∧ (246 : BitVec 8).toNat ≤ 246 ∧ VPair hD 62 :=
  ⟨issues_sD, usablePair_of rfl (by decide) (by decide), usable_of rfl (by decide), by decide, by decide, by decide,
    vPair_of rfl (by decide) (by decide)⟩

/-- Envelope 1 holds one line. -/
def teamE : Team := { team0 with envs := [(1, { lines := [(0, 0)] })] }
def sV : State := stateOf teamE coachD (sub0 1)
def hV : Here := hereOf teamE coachD (sub0 1)
theorem issues_sV : Issues false sV hV := ⟨rfl, nofun, by decide⟩

theorem witness_EnvelopeResults :
    (∃ e, envelopeResult hV (.envsimp false 1 15) = some (false, 15, e) ∧ e.lines.length ≤ hV.c.ecap.toNat)
    ∧ (∃ e, envelopeResult hV (.envleg false 1 0) = some (false, 0, e) ∧ e.lines.length ≤ hV.c.ecap.toNat)
    ∧ (∃ e, envelopeResult hV (.envclr false 0 0 0) = some (false, 0, e) ∧ e.lines.length ≤ hV.c.ecap.toNat)
    ∧ Issues false sV hV ∧ hV.t.envu = true
    ∧ (247 : BitVec 8).toNat < 248 ∧ UsablePair hV 62 ∧ okDomain (hV.u (62 : BitVec 8).toNat).1 (hV.u ((62 : BitVec 8).toNat + 1)).1 = true
    ∧ VPair hV 62 ∧ (hV.env 2).void = false ∧ (envOn (hV.env 2).lo (hV.env 2).hi ((hV.env 2).lines ++
        ((lanesOf hV.g.exec).filter fun l => finite32 (hV.v (62 : BitVec 8).toNat l) && finite32 (hV.v ((62 : BitVec 8).toNat + 1) l)).map
          (fun l => (hV.v (62 : BitVec 8).toNat l, hV.v ((62 : BitVec 8).toNat + 1) l)))).lines.length ≤ hV.c.ecap.toNat
    ∧ (63 : BitVec 8).toNat < 192 ∧ VFree hV (63 : BitVec 8).toNat ∧ Usable hV 192 :=
  ⟨⟨_, rfl, by decide⟩, ⟨_, rfl, by decide⟩, ⟨_, rfl, by decide⟩, issues_sV, rfl, by decide, usablePair_of rfl (by decide) (by decide),
    by decide, vPair_of rfl (by decide) (by decide), rfl, by decide, by decide, vFree_of rfl (by decide), usable_of rfl (by decide)⟩

/-- An image of one line at GLOBAL 0x1000. -/
def sI : State :=
  { sV with mem := (sV.writeLocs 1 (.sto 0x1000) (wordBytes [1, 0, 0xFF800000, 0x7F800000, 0, 0x3F800000])).mem }

/-- The unit of 8 bytes at GLOBAL `a`. -/
def unitI (a : Nat) : Checked := { lane := 0, ea := a, loc := .sto a, leaf := 123 }

theorem units_sI : sI.envUnits hV 5 .load 0x1000 2 = .ok [unitI 0x1000, unitI 0x1008]
    ∧ sI.envUnits hV 5 .load 0x1010 1 = .ok [unitI 0x1010]
    ∧ sI.envUnits hV 5 .store 0x1000 3 = .ok [unitI 0x1000, unitI 0x1008, unitI 0x1010] :=
  ⟨ok_of (by decide +kernel), ok_of (by decide +kernel), ok_of (by decide +kernel)⟩

theorem words_unitI : sI.unitWords hV [unitI 0x1000] = [1, 0] ∧ sI.unitWords hV [unitI 0x1008] = [0xFF800000, 0x7F800000]
    ∧ sI.unitWords hV [unitI 0x1010] = [0, 0x3F800000] := by decide +kernel

theorem words_sI : sI.unitWords hV [unitI 0x1000, unitI 0x1008] = [1, 0, 0xFF800000, 0x7F800000] :=
  (show _ = sI.unitWords hV [unitI 0x1000] ++ sI.unitWords hV [unitI 0x1008] by simp [State.unitWords]).trans
    (by rw [words_unitI.1, words_unitI.2.1]; rfl)

theorem witness_EnvelopeImagesComplete :
    Issues false sI hV ∧ hV.t.envu = true ∧ EnvBase hV (spaceOfWh (0 : BitVec 3).toNat) 192 0x1000
    ∧ (∃ head body, sI.envUnits hV 5 .load 0x1000 2 = .ok head ∧ sI.unitWords hV head = [1, 0, 0xFF800000, 0x7F800000]
      ∧ badHeader [1, 0, 0xFF800000, 0x7F800000] = false ∧ sI.envUnits hV 5 .load 0x1010 1 = .ok body
      ∧ [(0, 0x3F800000)] = pairsOf (sI.unitWords hV body)
      ∧ (∀ l ∈ [((0 : Word), (0x3F800000 : Word))], finite32 l.1 = true ∧ finite32 l.2 = true)
      ∧ (imageEnv [1, 0, 0xFF800000, 0x7F800000] [(0, 0x3F800000)]).lines.length ≤ hV.c.ecap.toNat)
    ∧ ∃ cs, sI.envUnits hV 5 .store 0x1000 (2 + (hV.env 1).lines.length) = .ok cs :=
  ⟨⟨rfl, nofun, by decide⟩, rfl, ⟨by decide, uniBlock_of rfl (by decide) (by decide), by decide, by decide⟩,
    ⟨_, _, units_sI.1, words_sI, by decide, units_sI.2.1, by rw [words_unitI.2.2]; rfl,
      fun l hl => by rw [List.mem_singleton.mp hl]; decide, by decide⟩,
    ⟨_, units_sI.2.2⟩⟩

theorem witness_SoftmaxComplete :
    Issues false s0 h0 ∧ VPair h0 62 ∧ VPair h0 0 ∧ (48 : BitVec 8).toNat < 192
    ∧ VsFree h0 (48 : BitVec 8).toNat ((15 : BitVec 4).toNat + 1) :=
  ⟨issues_s0', vPair_of rfl (by decide) (by decide), vPair_of rfl (by decide) (by decide), by decide, vsFree_of rfl (by decide)⟩

/-! ### Witnesses of the statements: drays and Celud threads -/

/-- A dray on channel 3 with one granule, at the first word of its threads. -/
def dray0 : Dray := { node := 0, oid := 1, rows := [0x2000], progA := [0, 0], progX := [0, 0] }
def sY (addr : Bool) (d : Dray) : State :=
  { State.reset with mode := .running, cur := if addr then .drayA 3 else .drayX 3, drays := [(3, d)] }
theorem drayIssues (addr : Bool) (d : Dray) (ha : (sY addr d).drayRuns 3 d = true) : DrayIssues (sY addr d) 3 addr d := by
  cases addr <;> exact ⟨rfl, ha⟩

theorem witness_DrayAddressWords :
    (∃ d', addressAfter { dray0 with j := [(1, 2)] } (.jloop 1 1) = some d') ∧ (∃ d', addressAfter dray0 .aend = some d')
    ∧ DrayIssues (sY true { dray0 with j := [(1, 2)] }) 3 true { dray0 with j := [(1, 2)] } ∧ DrayIssues (sY true dray0) 3 true dray0
    ∧ commandOf { dray0 with j := [(3, 60)] } (.drayRead 0 3 3) = some (.read 0 60 4) ∧ dray0.rowq.length < 16
    ∧ DrayIssues (sY true { dray0 with rowq := List.replicate 16 (.open 0) }) 3 true { dray0 with rowq := List.replicate 16 (.open 0) }
    ∧ commandOf { dray0 with rowq := List.replicate 16 (.open 0) } (.drayClose 0) = some (.close 0) :=
  ⟨⟨_, rfl⟩, ⟨_, rfl⟩, drayIssues _ _ rfl, drayIssues _ _ rfl, rfl, by decide, drayIssues _ _ rfl, rfl⟩

theorem witness_DrayArithmeticWords :
    DrayIssues (sY false dray0) 3 false dray0 ∧ (∃ d', arithmeticAfter dray0 (.xset 15 0) = some d')
    ∧ (∃ d', arithmeticAfter dray0 (.xfma 0 1 2 1) = some d') ∧ dray0.dataq.length < 1
    ∧ DrayIssues (sY false { dray0 with dataq := [[]] }) 3 false { dray0 with dataq := [[]] }
    ∧ ({ dray0 with dataq := [[]] } : Dray).dataq.length < 2
    ∧ DrayIssues (sY false { dray0 with rel := [(15, 1)] }) 3 false { dray0 with rel := [(15, 1)] }
    ∧ Cells.get 0 ({ dray0 with rel := [(15, 1)] } : Dray).rel (15 : BitVec 4).toNat ≠ 0 :=
  ⟨drayIssues _ _ rfl, ⟨_, rfl⟩, ⟨_, rfl⟩, by decide, drayIssues _ _ rfl, by decide, drayIssues _ _ rfl, by decide⟩

theorem witness_DrayThreadFaults :
    DrayIssues (sY true dray0) 3 true dray0 ∧ addressAfter dray0 (.jloop 1 (-1)) = none
    ∧ commandOf { dray0 with j := [(2, 1)] } (.drayOpen 2) = none
    ∧ DrayIssues (sY true { dray0 with j := [(2, 1)] }) 3 true { dray0 with j := [(2, 1)] }
    ∧ DrayIssues (sY false dray0) 3 false dray0 ∧ arithmeticAfter dray0 (.xloop 1 2) = none :=
  ⟨drayIssues _ _ rfl, by decide, by decide, drayIssues _ _ rfl, drayIssues _ _ rfl, by decide⟩

/-- Thread 31 of a Celud program of 32 threads. -/
def thread0 : Thread := { regs := [(0, 0x1000)] }
def celud0 : Celud := { words := [], threads := List.replicate 32 thread0, cslice := 64 }
def teamC : Team := { team0 with celud := some celud0, coaches := [coach0] }
def sC : State := { State.placeNative State.reset 0 with cur := .thread 0 31, due := [], teams := [(0, teamC)] }
def hC : CelHere := { team := 0, t := teamC, p := celud0, n := 31, th := thread0, ci := 0, lane := 31 }
theorem issues_sC : CeludIssues sC hC := ⟨rfl, rfl, rfl⟩

theorem witness_CeludRegisterWords :
    CeludIssues sC hC ∧ (∃ f, celudBinary (.celudAdd (some 5) 1 0 4095) = some (some 5, 1, 0, 4095, f))
    ∧ (∃ f, celudTernary (.celudDot2 none 1 0 2) = some (none, 1, 0, 2, f))
    ∧ ∃ x, celudValue hC (.celudTid 7) = some (none, 7, x) :=
  ⟨issues_sC, ⟨_, rfl⟩, ⟨_, rfl⟩, ⟨_, rfl⟩⟩

theorem witness_CeludMemoryWords :
    CeludIssues sC hC ∧ celudLoadOf (.celudLd 1 1 0 none 1 0 4 3 0) = some (none, 1, 0, 4, 3, some 1)
    ∧ celudLoadOf (.celudLdc 1 0 (some 8) 1 0 4 2 0) = some (some 8, 1, 0, 4, 2, none)
    ∧ (∃ c, sC.celudCheck hC 4 (hC.addr 4 none 0) (2 ^ (3 : BitVec 2).toNat) .load = .ok c)
    ∧ (∃ c, sC.celudCheck hC 0 (hC.addr 0 (some 63) 9) (2 ^ (0 : BitVec 2).toNat) .store = .ok c)
    ∧ ∃ c, sC.celudCheck hC 4 (hC.addr 4 none 0) 4 .atomic = .ok c :=
  ⟨issues_sC, rfl, rfl, isOk_of (by decide +kernel), isOk_of (by decide +kernel), isOk_of (by decide +kernel)⟩

theorem witness_CeludControlWords : CeludIssues sC hC ∧ disagree (threadsWith hC { hC.th with ended := true }) = false
    ∧ disagree (threadsWith hC { hC.th with bar := some hC.th.pc }) = false := ⟨issues_sC, by decide, by decide⟩
/-! ### Witnesses of the statements: events of issue and of engines -/

def running0 : State := { State.placeNative State.reset 0 with due := [], teams := [], halves := [] }
def subIdle : SubGroup := { id := 0, pc := 0, mem := 0xFFFFFFFF, exec := 0xFFFFFFFF }
def coachOf (c : Coach) : State := { running0 with teams := [(0, { team0 with coaches := [c] })] }
def idle0 : State := coachOf { coach0 with subs := [subIdle] }

/-- A stop of the coach by a TRAP, and a coach that it has stopped. -/
def stop0 : Stopped :=
  { trap := { cause := .trap }, pc := 0, word := 0, pre := none, resume := 4, exec := 1, mem := 0xFFFFFFFF, run := 1, sub := 0 }
def stopped0 : Coach := { coach0 with subs := [subIdle], stops := [stop0] }

/-- A coach whose only sub-group, or whose first of two, is parked by an END of run 1. -/
def endingSub : SubGroup := { subIdle with parks := [.ending 1] }
def ending1 : Coach := { coach0 with subs := [endingSub] }
def ending2 : Coach := { coach0 with subs := [{ endingSub with mem := 1, exec := 1 }, { subIdle with id := 1, mem := 2, exec := 2 }] }

def settled0 (c : Coach) : State := (coachOf c).spoilDone.settle (.coach 0 0) [0]

theorem witness_IssueEventsComplete :
    (running0.mode = .running ∧ (Cells.get {} running0.halves 95).inRun = none
      ∧ selectCoach (Cells.get {} running0.halves 95).last ((settledHalf running0 95).readyOn 95) = none)
    ∧ (∃ c t c' g, idle0.mode = .running ∧ (Cells.get {} idle0.halves 0).inRun = none
      ∧ selectCoach (Cells.get {} idle0.halves 0).last ((settledHalf idle0 0).readyOn 0) = some (0, 0, c)
      ∧ (decided (settledHalf idle0 0) 0 0 0).coach 0 0 = some (t, c') ∧ selectSub c'.subs = some g)
    ∧ ((coachOf stopped0).mode = .running ∧ MayEnter (coachOf stopped0) 0 0 stop0)
    ∧ (∃ h, EndsLanes (settled0 ending1) (.coach 0 0) 0 1 h ∧ h.t.state = .resident
      ∧ (settled0 ending1).coachIdle h.team h.t h.ci = true ∧ ((h.c.observe 1).endLanes h.g).subs = [])
    ∧ (∃ h, EndsLanes (settled0 ending2) (.coach 0 0) 0 1 h ∧ h.t.state = .resident
      ∧ (settled0 ending2).coachIdle h.team h.t h.ci = true ∧ ((h.c.observe 1).endLanes h.g).subs ≠ [])
    ∧ ∃ h k c, EndsLanes ((stateR 0x7F endingSub).spoilDone.settle (.remote 0x7F) [0]) (.remote 0x7F) 0 1 h ∧ h.remote = some 0x7F
      ∧ ((stateR 0x7F endingSub).spoilDone.settle (.remote 0x7F) [0]).running 0x7F = some (k, c) :=
  ⟨⟨rfl, rfl, rfl⟩, ⟨_, _, _, _, rfl, rfl, rfl, rfl, rfl⟩, ⟨rfl, _, _, [], rfl, rfl, rfl, rfl, rfl, .inr rfl, rfl, rfl⟩,
    ⟨_, ⟨rfl, rfl, rfl, rfl, rfl⟩, rfl, rfl, rfl⟩, ⟨_, ⟨rfl, rfl, rfl, rfl, rfl⟩, rfl, rfl, by decide⟩,
    ⟨_, _, _, ⟨rfl, rfl, rfl, rfl, rfl⟩, rfl, rfl⟩⟩

/-- A node of a launch past its bound with a team that has not ended. -/
def node0 : Node := { q := 0, count := 0, entry := 0x1000, oid := 1, words := [], fetchedAt := 0, admitted := some 0 }
def late : State := { idle0 with nodes := [(0, node0)] }

/-- Requests under number 7. -/
def request (w : Work) (parts : List Nat) : Request :=
  { team := 0, coach := 0, oid := 1, tag := 0, cls := 3, scope := 0, deadline := 9, work := w, parts := parts }
def copyWork : Work := .copy 1 4 4 0 2 (inCore 0 2) (inGlobal 2)
def gatherWork : Work := .gather false 4 4 1 1 (inGlobal 4) (inCore 0 4) (inCore 64 4)
def mvWork : Work := .mvstack [] [] (inCore 0 2) (inGlobal 2) (inCore 64 4) ([], [])
def requested (r : Request) : State := { idle0 with requests := [(7, r)] }

/-- A started QUANT2 of core 0, and a rendezvous at which coach 0 of two waits. -/
def job0 : Job := { id := 4, team := 0, core := 0, oid := 1, coaches := [0], work := .quant2 [] [] [] (inGlobal 2) [] [] [] [] }
def drained0 : State := { idle0 with jobs := [job0] }
def meet0 : Rendezvous :=
  { id := 6, pm := 3, loop := false, opts := 0, block := [], arrived := [{ coach := 0, vf := 0, vr := 0, pc := 0, word := 0 }],
    a := [], b := [], ra := [], rb := [], sa := [], sb := [] }
def teamM : Team :=
  { team0 with coaches := [{ coach0 with subs := [{ subIdle with parks := [.rendezvous 6] }] }, { coach0 with subs := [subIdle] }],
               rdvs := [meet0] }
def waitingTeam : State := { running0 with teams := [(0, teamM)] }

/-- A node whose Celud threads disagree. -/
def brokenC : State :=
  { late with teams := [(0, { team0 with celud := some { words := [], threads := [], cslice := 0, broken := true } })] }

theorem witness_CompletionEventsComplete :
    (late.mode = .running ∧ Cells.find late.nodes 0 = some node0 ∧ node0.admitted.isSome = true ∧ node0.eng < 2
      ∧ late.brokenNode 0 = false ∧ node0.bounded = true ∧ node0.deadline ≤ late.slot ∧ node0.stop = none
      ∧ late.nodeDone 0 node0 = none)
    ∧ (brokenC.mode = .running ∧ Cells.find brokenC.nodes 0 = some node0 ∧ brokenC.brokenNode 0 = true)
    ∧ (RequestFree (requested (request copyWork [])) 7 (request copyWork []) (request copyWork []).whole ∧ (request copyWork []).work = copyWork)
    ∧ (RequestFree (requested (request copyWork [2])) 7 (request copyWork [2]) ((request copyWork [2]).work.partIn 2) ∧ (request copyWork [2]).parts.contains 2 = true)
    ∧ RequestFree (requested (request gatherWork [])) 7 (request gatherWork []) (request gatherWork []).whole
    ∧ RequestFree (requested (request mvWork [])) 7 (request mvWork []) (request mvWork []).whole
    ∧ (∃ i, drained0.spoilDone.nextJob 0 = some i ∧ drained0.spoilDone.lateDrain i = some job0
      ∧ drained0.spoilDone.jobHeld job0 = [])
    ∧ (Cells.find waitingTeam.teams 0 = some teamM ∧ teamM.state = .resident ∧ teamM.rdvs.find? (fun r => r.id = 6) = some meet0
      ∧ ∀ a ∈ meet0.arrived, ∃ c, teamM.coaches[a.coach]? = some c ∧ ∃ g ∈ c.subs, Park.rendezvous 6 ∈ g.parks) := by
  refine ⟨⟨rfl, rfl, rfl, by decide, rfl, rfl, by decide, rfl, rfl⟩, ⟨rfl, rfl, rfl⟩, ⟨⟨rfl, rfl, rfl⟩, rfl⟩, ⟨⟨rfl, rfl, rfl⟩, rfl⟩, ⟨rfl, rfl, rfl⟩,
    ⟨rfl, rfl, rfl⟩, ⟨_, rfl, rfl, rfl⟩, ⟨rfl, rfl, rfl, ?_⟩⟩
  intro a ha
  rw [List.mem_singleton.mp ha]
  exact ⟨_, rfl, _, List.mem_cons_self .., List.mem_cons_self ..⟩

/-- Calls under number 9 of coach 0, which waits for them. -/
def call0 : Call := callOf 0x100 (sub0 0)
def batchCall : Call := { call0 with batch := some (0, 2) }
def called (c : Call) (e : Executor) : State :=
  { coachOf { coach0 with subs := [subIdle], calls := [9] } with calls := [(9, c)], executors := [(0x100, e)], nodes := [(0, node0)] }
def queued : Executor := { queue := [9] }

theorem calledBy_called {c : Call} {e : Executor} {b : Bool} (ht : c.team = 0) (hc : c.coach = 0)
    (hb : [9].contains 9 = b) : CalledBy (called c e) 9 c { coach0 with subs := [subIdle], calls := [9] } b :=
  ⟨rfl, ⟨_, by rw [ht, hc]; rfl⟩, hb⟩

/-- The same call of a coach that has consumed it, and of one that has ended. -/
def consumed (c : Call) : State := { coachOf { coach0 with subs := [subIdle] } with calls := [(9, c)] }
def orphan (c : Call) : State := { running0 with calls := [(9, c)] }

/-- Its reply, a call past its bound, one that the relay has sent, and one that is being probed. -/
def answered (c : Call) : Call := { c with result := some (0, [1, 2]) }
def overdue0 : Call := { call0 with deadline := 0 }
def relayed0 : Call := { call0 with relay := some 1, deadline := 0 }
def probed0 : Call := { call0 with probing := true }

theorem start_called (c : Call) (hb : (called c queued).batchTurn c = true) (ha : (called c queued).argumentHeld c = false)
    (hw : (called c queued).accessWaits (.remote 0x100) = false) :
    StartsNext (called c queued) 0x100 9 [] queued c := ⟨rfl, rfl, rfl, rfl, hb, ha, hw⟩

theorem record_called : ((called batchCall queued).gBytes 1 (batchRecord (called batchCall queued) 0 6 2) 64).isSome = true
    ∧ State.gBytes { called batchCall queued with roots := [(1, 0x40000)] } 1
      (batchRecord { called batchCall queued with roots := [(1, 0x40000)] } 0 6 2) 64 = none
    ∧ (State.gFails { called batchCall queued with roots := [(1, 0x40000)] } 1
      (batchRecord { called batchCall queued with roots := [(1, 0x40000)] } 0 6 2) 64).isSome = true := by decide +kernel

theorem free_called : (called batchCall queued).argumentHeld batchCall = false
    ∧ State.argumentHeld { called batchCall queued with roots := [(1, 0x40000)] } batchCall = false
    ∧ (called (answered batchCall) {}).gHeld 1 (batchRecord (called (answered batchCall) {}) 0 7 2) = false := by decide +kernel

theorem witness_RemoteCallEventsComplete :
    (StartsNext (called call0 queued) 0x100 9 [] queued call0 ∧ call0.batch = none)
    ∧ (StartsNext (called batchCall queued) 0x100 9 [] queued batchCall ∧ batchCall.batch = some (0, 2)
      ∧ ∃ b, (called batchCall queued).gBytes batchCall.oid (batchRecord (called batchCall queued) 0 6 2) 64 = some b)
    ∧ (StartsNext { called batchCall queued with roots := [(1, 0x40000)] } 0x100 9 [] queued batchCall
      ∧ State.gBytes { called batchCall queued with roots := [(1, 0x40000)] } batchCall.oid
        (batchRecord { called batchCall queued with roots := [(1, 0x40000)] } 0 6 2) 64 = none
      ∧ ∃ a, State.gFails { called batchCall queued with roots := [(1, 0x40000)] } batchCall.oid
        (batchRecord { called batchCall queued with roots := [(1, 0x40000)] } 0 6 2) 64 = some a)
    ∧ (∃ x, CalledBy (called (answered call0) {}) 9 (answered call0) x true ∧ Performed (called (answered call0) {}) (answered call0)
      ∧ (answered call0).relay = none
      ∧ (answered call0).batch = none ∧ (answered call0).lost = false)
    ∧ (∃ x, CalledBy (called (answered { call0 with lost := true }) {}) 9 (answered { call0 with lost := true }) x true
      ∧ Performed (called (answered { call0 with lost := true }) {}) (answered { call0 with lost := true })
      ∧ (answered { call0 with lost := true }).lost = true)
    ∧ (∃ x, CalledBy (consumed (answered call0)) 9 (answered call0) x false ∧ Performed (consumed (answered call0)) (answered call0))
    ∧ (Cells.find (orphan (answered call0)).calls 9 = some (answered call0) ∧ (orphan (answered call0)).coach 0 0 = none
      ∧ Performed (orphan (answered call0)) (answered call0))
    ∧ (Cells.find (called (answered batchCall) {}).calls 9 = some (answered batchCall)
      ∧ Performed (called (answered batchCall) {}) (answered batchCall) ∧ (called (answered batchCall) {}).moving 1 = false
      ∧ (called (answered batchCall) {}).gHeld 1 (batchRecord (called (answered batchCall) {}) 0 7 2) = false)
    ∧ (Cells.find (orphan relayed0).calls 9 = some relayed0 ∧ relayed0.relay = some 1 ∧ relayed0.lost = false
      ∧ relayed0.deadline ≤ (orphan relayed0).slot)
    ∧ (∃ x, CalledBy (called overdue0 {}) 9 overdue0 x true ∧ overdue0.relay = none ∧ overdue0.delivered = false
      ∧ overdue0.lost = false ∧ overdue0.deadline ≤ (called overdue0 {}).slot)
    ∧ (∃ y x, Cells.find (called probed0 {}).calls 9 = some probed0 ∧ (called probed0 {}).coach 0 0 = some (y, x)
      ∧ probed0.probing = true)
    ∧ Cells.find (orphan probed0).calls 9 = some probed0 ∧ (orphan probed0).coach 0 0 = none :=
  ⟨⟨start_called _ rfl rfl rfl, rfl⟩, ⟨start_called _ rfl free_called.1 rfl, rfl, Option.isSome_iff_exists.mp record_called.1⟩,
    ⟨⟨rfl, rfl, rfl, rfl, rfl, free_called.2.1, rfl⟩, record_called.2.1,
      Option.isSome_iff_exists.mp record_called.2.2⟩,
    ⟨_, calledBy_called rfl rfl rfl, rfl, rfl, rfl, rfl⟩, ⟨_, calledBy_called rfl rfl rfl, rfl, rfl⟩, ⟨_, ⟨rfl, ⟨_, rfl⟩, rfl⟩, rfl⟩, ⟨rfl, rfl, rfl⟩,
    ⟨rfl, rfl, rfl, free_called.2.2⟩, ⟨rfl, rfl, rfl, Nat.le_refl 0⟩, ⟨_, calledBy_called rfl rfl rfl, rfl, rfl, rfl, Nat.le_refl 0⟩,
    ⟨_, _, rfl, rfl, rfl⟩, rfl, rfl⟩

/-- A swap of the first GiB to stack 1 that has begun, and one that has not. -/
def swap0 (b : Bool) : Swap :=
  { id := 3, oid := 1, va := 0, size := 0x40000000, leafAt := 0x40000, old := 0, new := 0x1000000000, begun := b }

theorem witness_SwapEventsComplete :
    (∃ e, running0.walk 1 0x12345 = .leaf e 1 0x40000 ∧ pageSize 1 = 0x40000000 ∧ 0x1000000000 % 0x40000000 = 0
      ∧ backed 0x1000000000 0x40000000 = true ∧ stackOf 0x1000000000 = some 1 ∧ stackOf (fld e 16 36 * 0x10000) = some 0
      ∧ running0.swaps = [])
    ∧ (State.snapshotHeld { running0 with swaps := [swap0 false] } 1 (0, 0x40000000) = false
      ∧ State.pageWaits { running0 with swaps := [swap0 false] } (swap0 false) = false
      ∧ ([swap0 false].find? fun w => w.id = 3 && !w.begun) = some (swap0 false))
    ∧ ([swap0 true].find? fun w => w.id = 3 && w.begun) = some (swap0 true)
    ∧ State.channelHeld { running0 with swaps := [swap0 true] } (swap0 true).leafAt = false :=
  ⟨⟨placedLeaf, by decide +kernel, rfl, rfl, rfl, rfl, rfl, rfl⟩, ⟨rfl, rfl, rfl⟩, rfl, rfl⟩
/-! ### Witnesses of the statements: events of queues, nodes and teams -/

def queueOf (x : Queue) : State := withQueue running0 63 x
def enabled : Queue := { en := true, state := 1, oid := 1, tail := 1, base := 0x20, lgsz := 16 }
theorem reaches (x : Queue) : HostReaches (queueOf x) 63 := ⟨rfl, rfl, by decide⟩

theorem witness_QueueRegisterWritesComplete :
    HostReaches (queueOf {}) 63 ∧ ((queueOf {}).queue 63).state < 2 ∧ ((queueOf {}).queue 63).later = none
    ∧ ((queueOf {}).queue 63).en = false ∧ bitOf 0x80000000 31 = true
    ∧ HostReaches (queueOf enabled) 63 ∧ ((queueOf enabled).queue 63).state < 2 ∧ ((queueOf enabled).queue 63).later = none
    ∧ ((queueOf enabled).queue 63).en = true ∧ bitOf 0 31 = false ∧ bitOf 0x40000000 30 = true
    ∧ running0.mode = .running ∧ running0.ucie.any id = true ∧ Aligned 0xFF8 8 ∧ 0xFF8 < 0x1000
    ∧ Aligned 0x1FFFF 1 ∧ 0x10000 ≤ 0x1FFFF ∧ 0x1FFFF < 0x20000 ∧ Aligned 0x1FFC 4 ∧ 0x1000 ≤ 0x1FFC ∧ 0x1FFC < 0x2000
    ∧ (0x1000 ≤ 0xFFFF ∧ 0xFFFF < 0x10000) ∧ Link.firmware ≠ .main
    ∧ State.mode { running0 with mode := .recovery } = .recovery :=
  ⟨reaches _, by decide, rfl, rfl, rfl, reaches _, by decide, rfl, rfl, rfl, rfl, rfl, rfl, ⟨by decide, by decide⟩, by decide,
    ⟨by decide, by decide⟩, by decide, by decide, ⟨by decide, by decide⟩, by decide, by decide, ⟨by decide, by decide⟩, by decide,
    rfl⟩

/-- Nodes under number 0 in the pool: of a Celud object that awaits its translation, of one that breaks R382, of a launch that
fits, of one that never can, and of one that asks for too many tags. -/
def celudObject (w : DWord) : Object := { celud := true, words := [w], cslice := 64 }
def celudNode (w : DWord) : Node :=
  { node0 with admitted := none, translating := true, object := some (celudObject w) }
def fitting : Node := { node0 with admitted := none, object := some {} }
def tooBig : Node := { node0 with admitted := none, object := some { tagn := 65 } }
/-- The native words of `end`: END and a trailer. -/
def endNative : Translation := { code := [0x9F140000, 0xBF000000] }
/-- An admitted node with a team to launch, and one whose team has ended. -/
def launching : Node := { node0 with object := some { allot := 16 }, unlaunched := [(0, 0, 0)] }
def pool (n : Node) : State := { running0 with nodes := [(0, n)], queues := [(0, enabled)] }
def doneNode : State := { pool node0 with teams := [(5, { team0 with node := 0, coaches := [{ coach0 with ended := true }] })] }
/-- Admitted launches of a queue that has come back, one of more slots than its bound; a pool node without an object. -/
def back : Node := { launching with out := true }
def tooLong : Node := { back with words := [0x1100000000] }
def objectless : Node := { node0 with admitted := none }

theorem waits_pool : (pool fitting).admitWaits fitting = [] ∧ (pool objectless).admitWaits objectless = []
    ∧ (pool tooBig).admitWaits tooBig = [] := by decide +kernel

/-- A queue whose records no page holds. -/
def unreadable : State := { queueOf enabled with roots := [(1, 0x40000)] }
theorem waits_unreadable : unreadable.gWaits (unreadable.queue 63).oid (recordAt unreadable 63) 128 .load = [] := by
  decide +kernel
theorem loads_unreadable : ∃ p, unreadable.loadNode (recordNode unreadable 63) (unreadable.queue 63).lgsz {} = .ok p :=
  isOk_of (by decide +kernel)

theorem translates : (celudObject 0x6F00000000000000).mayBe endNative = true
    ∧ ((celudObject 0x6F00000000000000).translated endNative).isSome = true
    ∧ celudValid (celudObject 0x6F00000000000000).words = true ∧ celudValid (celudObject 0).words = false := by decide +kernel

theorem witness_NodeEventsComplete :
    (unreadable.mode = .running ∧ Fetches unreadable 63
      ∧ ∃ place s' n, unreadable.loadNode (recordNode unreadable 63) (unreadable.queue 63).lgsz place = .ok (s', n))
    ∧ (∃ o', Cells.find (pool (celudNode 0x6F00000000000000)).nodes 0 = some (celudNode 0x6F00000000000000)
      ∧ (celudNode 0x6F00000000000000).translating = true
      ∧ (celudNode 0x6F00000000000000).object = some (celudObject 0x6F00000000000000)
      ∧ celudValid (celudObject 0x6F00000000000000).words = true
      ∧ (pool (celudNode 0x6F00000000000000)).keptTranslation 1 0 (celudObject 0x6F00000000000000) = none
      ∧ (celudObject 0x6F00000000000000).mayBe endNative = true
      ∧ (celudObject 0x6F00000000000000).translated endNative = some o')
    ∧ (Cells.find (pool (celudNode 0)).nodes 0 = some (celudNode 0) ∧ celudValid (celudObject 0).words = false)
    ∧ (Tried (pool fitting) 0 fitting ∧ ∃ s' n', (pool fitting).tryNode 0 fitting = .admitted s' n')
    ∧ (Tried (pool objectless) 0 objectless ∧ (pool objectless).tryNode 0 objectless = .invalid)
    ∧ (Tried (pool tooBig) 0 tooBig ∧ ∃ hint final, (pool tooBig).tryNode 0 tooBig = .refused hint final)
    ∧ (Rejoins (pool back) 0 back ∧ ∃ s', (pool back).placeNode (pool back).slot back ((pool back).needAgain back) = some s')
    ∧ (Rejoins (pool tooLong) 0 tooLong
      ∧ (pool tooLong).placeNode (pool tooLong).slot tooLong ((pool tooLong).needAgain tooLong) = none)
    ∧ (∃ s', launching.object = some { allot := 16 } ∧ launching.admitted.isSome = true ∧ launching.stop = none
      ∧ launching.out = false ∧ groupOf 0 launching.unlaunched = [(0, 0, 0)] ∧ [7].length = [(0, 0, 0)].length * 1
      ∧ [191].eraseDups.length = [191].length
      ∧ (pool launching).launchGroup 0 launching { allot := 16 } [(0, 0, 0)] [191] [7] = some s')
    ∧ Completes doneNode 0 0 node0 :=
  have ⟨p, hp⟩ := loads_unreadable
  have ⟨o', ho⟩ := Option.isSome_iff_exists.mp translates.2.1
  ⟨⟨rfl, ⟨waits_unreadable, by decide, rfl, by decide, rfl, rfl, by decide, rfl⟩, {}, p.1, p.2, hp⟩,
    ⟨o', rfl, rfl, rfl, translates.2.2.1, rfl, translates.1, ho⟩, ⟨rfl, translates.2.2.2⟩,
    ⟨⟨rfl, rfl, rfl, rfl, rfl, rfl, waits_pool.1⟩, ⟨_, _, rfl⟩⟩, ⟨⟨rfl, rfl, rfl, rfl, rfl, rfl, waits_pool.2.1⟩, rfl⟩,
    ⟨⟨rfl, rfl, rfl, rfl, rfl, rfl, waits_pool.2.2⟩, ⟨_, _, rfl⟩⟩, ⟨⟨rfl, rfl, rfl, rfl⟩, ⟨_, rfl⟩⟩, ⟨⟨rfl, rfl, rfl, rfl⟩, rfl⟩,
    ⟨_, rfl, rfl, rfl, rfl, rfl, rfl, rfl, rfl⟩, ⟨rfl, rfl, rfl, Or.inl (by decide), rfl, by decide +kernel⟩⟩

/-- Teams of node 0 in each of their states; another saved team waits for the core. -/
def teamIn (st : TeamState) : Team :=
  { team0 with grants := { spsz := 1, lssz := 1, tagn := 1 }, coaches := [{ coach0 with subs := [subIdle] }], slice := 1, state := st }
def teams2 (t : Team) : State :=
  { pool node0 with teams := [(0, t), (1, { teamIn (.saved false) with envu := false, accu := false })],
                        calendar := [{ res := 0x100, slot := 0, len := 2, amount := 1 }], slot := 1 }
def alone (t : Team) : State := { pool node0 with teams := [(0, t)] }

/-- The node asks for more slots than its bound. -/
def crowded (t : Team) : State := { pool { tooLong with out := false } with teams := [(0, t)] }

/-- An admitted kernel node whose queue has been switched out. -/
def dzNode : Node := { node0 with out := true, words := [0x1000000000000000] }

theorem witness_TeamEventsComplete :
    (Cells.find (teams2 (teamIn .resident)).teams 0 = some (teamIn .resident) ∧ (teamIn .resident).slice ≠ 0
      ∧ (teamIn .resident).sinceIn + (teamIn .resident).slice ≤ (teams2 (teamIn .resident)).slot
      ∧ (teams2 (teamIn .resident)).wanted 0 (teamIn .resident) = true)
    ∧ ((teamIn (.stopping true true [])).state = .stopping true true []
      ∧ (alone (teamIn (.stopping true true []))).holdsWork 0 (teamIn (.stopping true true [])) true .issue = true
      ∧ (alone (teamIn (.stopping true true []))).stoppedAt 0 (teamIn (.stopping true true [])) true [] .issue = true)
    ∧ (Cells.find (pool dzNode).teams 0 = none ∧ Cells.find (pool dzNode).nodes 0 = some dzNode ∧ dzNode.out = true
      ∧ dzNode.eng = 1)
    ∧ (∃ ks, Returns (alone (teamIn (.saved false))) 0 0 (teamIn (.saved false)) false ks)
    ∧ (∃ ks x y, Returns (alone (teamIn (.saved true))) 0 0 (teamIn (.saved true)) true ks
      ∧ (alone (teamIn (.saved true))).ucie.any id = true
      ∧ (alone (teamIn (.saved true))).renewNode (teamIn (.saved true)) 0 = .ok x ∧ x.readmitAll 0 [] = .ok y)
    ∧ (∃ ks c, Returns (crowded (teamIn (.saved true))) 0 0 (teamIn (.saved true)) true ks
      ∧ (crowded (teamIn (.saved true))).ucie.any id = true
      ∧ (crowded (teamIn (.saved true))).renewNode (teamIn (.saved true)) 0 = .error c)
    ∧ ((pool node0).queue 0).state < 2 ∧ ((queueOf { enabled with state := 3 }).queue 63).state = 3 :=
  ⟨⟨rfl, by decide, by decide, rfl⟩, ⟨rfl, rfl, rfl⟩, ⟨rfl, rfl, rfl, rfl⟩, ⟨_, rfl, rfl, rfl, ⟨_, rfl, rfl, rfl⟩, rfl, rfl⟩,
    ⟨_, _, _, ⟨rfl, rfl, rfl, ⟨_, rfl, rfl, rfl⟩, rfl, rfl⟩, rfl, rfl, rfl⟩,
    ⟨_, _, ⟨rfl, rfl, rfl, ⟨_, rfl, rfl, rfl⟩, rfl, rfl⟩, rfl, rfl⟩, by decide, rfl⟩

/-! ### Witnesses of the statements: events of drays, firmware, fabric and boot -/

/-- The dray with a command at the head of its row queue, and the machine with that dray alone. -/
def dray1 (c : RowCmd) : Dray := { dray0 with rowq := [c], rel := [(15, 1)] }
def withDray1 (d : Dray) : State := { running0 with drays := [(3, d)] }
theorem commands_of {d : Dray} {c : RowCmd} (hq : d.rowq = [c]) (ha : d.active = true)
    (hw : (withDray1 d).windowDue 3 d.reach = false) (hh : d.reach.headWaits = false)
    (hn : (withDray1 d).drayNodeFaulted d.node = false) : Commands (withDray1 d) 3 d c [] :=
  ⟨rfl, rfl, ha, hq, hw, hh, by rw [show (withDray1 d).draining 3 = false from rfl, Bool.and_false],
    by rw [hn, Bool.and_false]⟩

/-- The dray with row 0 open. -/
def dray2 (c : RowCmd) : Dray := { dray1 c with opened := [(0, 0)] }

/-- An access that waits for the channel of a dray at its first boundary, and the dray with its programs at their ends. -/
def dray4 : Dray := { dray0 with endA := true, endX := true, boundaries := 8 }
def windowWanted : State :=
  { withDray1 dray4 with arrivals := [{ chan := 3, work := .load }] }
def ordered0 : State := { running0 with ratioNext := [(7, (1, 2))] }

theorem witness_DrayEventsComplete :
    Commands (withDray1 (dray1 (.open 0))) 3 (dray1 (.open 0)) (.open 0) []
    ∧ (Commands (withDray1 (dray2 (.read 0 60 4))) 3 (dray2 (.read 0 60 4)) (.read 0 60 4) []
      ∧ (taken (dray2 (.read 0 60 4)) []).isOpen 0 = true)
    ∧ (Commands (withDray1 (dray2 (.wback 0 63 15 false))) 3 (dray2 (.wback 0 63 15 false)) (.wback 0 63 15 false) []
      ∧ (taken (dray2 (.wback 0 63 15 false)) []).isOpen 0 = true)
    ∧ (Commands (withDray1 (dray2 (.close 0))) 3 (dray2 (.close 0)) (.close 0) []
      ∧ (taken (dray2 (.close 0)) []).isOpen 0 = true)
    ∧ (Cells.find windowWanted.drays 3 = some dray4 ∧ dray4.active = true ∧ windowWanted.windowDue 3 dray4.reach = true
      ∧ windowWanted.draining 3 = false)
    ∧ ((withDray1 dray4).drayRuns 3 dray4 = true ∧ dray4.endA = true ∧ dray4.endX = true ∧ dray4.rowq = [])
    ∧ (dray0.atBoundary = true ∧ (withDray1 { dray0 with faulted := true }).drayNodeFaulted 0 = true)
    ∧ ({ running0 with fabricOn := true }.fabricOn = true ∧ PacketOk 0x7FFFFFFFE0 1 6 (List.replicate 32 0))
    ∧ (7 < 8 ∧ 0 < 1 ∧ Cells.find running0.ratioNext 7 = none)
    ∧ (Cells.find ordered0.ratioNext 7 = some (1, 2) ∧ ordered0.drained 7 = true) :=
  ⟨commands_of rfl rfl rfl rfl rfl, ⟨commands_of rfl rfl rfl rfl rfl, rfl⟩, ⟨commands_of rfl rfl rfl rfl rfl, rfl⟩,
    ⟨commands_of rfl rfl rfl rfl rfl, rfl⟩, ⟨rfl, rfl, rfl, rfl⟩, ⟨rfl, rfl, rfl, rfl⟩, ⟨rfl, rfl⟩,
    ⟨rfl, by decide, by decide, by decide, by decide, by decide, by decide, by decide⟩, ⟨by decide, by decide, rfl⟩, rfl, rfl⟩

/-- The aperture is on for owner 1. -/
def apertureOn : State := { running0 with mgmt := { running0.mgmt with apEn := true, apOid := 1 } }
theorem on_aperture : ApertureOn apertureOn 0x3FFFFFF8 8 := ⟨rfl, rfl, rfl, by decide, by decide, by decide⟩

/-- Every address of the first GiB has the one leaf of the tables. -/
theorem root_running0 : Cells.get 0 running0.roots 1 = 0x20000 := rfl
theorem table_running0 : leNat (running0.readStoN 1 0x20000 8) = 0x40001 := by decide +kernel
theorem leaf_running0 : leNat (running0.readStoN 1 0x40000 8) = placedLeaf := by decide +kernel
theorem base_running0 : fld 0x40001 8 44 * 256 = 0x40000 := by decide

theorem walk_running0 {va : Nat} (h : va < 2 ^ 30) : running0.walk 1 va = .leaf placedLeaf 1 0x40000 := by
  have h1 : fld va 43 13 = 0 := by unfold fld; omega
  have h2 : fld va 30 13 = 0 := by unfold fld; omega
  simp only [State.walk, State.walkLeaf, State.walkFrom, h1, h2, root_running0, Nat.mul_zero, Nat.add_zero, table_running0, base_running0,
    leaf_running0]
  rw [if_neg (by decide), if_neg (by decide), if_neg (by decide), if_neg (by decide), if_neg (by decide), if_neg (by decide),
    if_pos (by decide), if_neg (by decide)]
  exact if_pos (by decide)

theorem gByte_running0 {va : Nat} (h : va < 2 ^ 30) : (running0.gByte 1 va).isSome = true := by
  unfold State.gByte State.translate
  rw [walk_running0 h]
  rfl

theorem mapM_isSome {α β : Type} (f : α → Option β) : ∀ l : List α, (∀ a ∈ l, (f a).isSome = true) → ∃ b, l.mapM f = some b
  | [], _ => ⟨[], rfl⟩
  | a :: l, h => by
    obtain ⟨x, hx⟩ := Option.isSome_iff_exists.mp (h a (List.mem_cons_self ..))
    obtain ⟨b, hb⟩ := mapM_isSome f l fun c hc => h c (List.mem_cons_of_mem _ hc)
    exact ⟨x :: b, by simp [List.mapM_cons, hx, hb]⟩

theorem image_running0 : ∃ b, running0.gBytes 1 (1 * 4096) 4096 = some b :=
  mapM_isSome _ _ fun i hi => gByte_running0 (by have := List.mem_range.mp hi; omega)

/-- The same with the leaf of the tables cleared: no address of the first GiB is translated. -/
def unmapped : State := { apertureOn with mem := (apertureOn.writeLocs 1 (.sto 0x40000) (leBytes 8 0)).mem }
theorem on_unmapped : ApertureOn unmapped 0x3FFFFFFF 1 := ⟨rfl, rfl, rfl, by decide, by decide, by decide⟩

/-- A swap of that GiB has begun. -/
def swapping : State := { apertureOn with swaps := [swap0 true] }
theorem on_swapping : ApertureOn swapping 0x3FFFFFF8 8 := ⟨rfl, rfl, rfl, by decide, by decide, by decide⟩

/-- A kernel holds the channel of 0x2000. -/
def heldAperture : State := { apertureOn with drays := [(channelOf 0x2000, { dray0 with opened := [(0, 0)] })] }

theorem witness_FirmwareEventsComplete :
    running0.mode = .running
    ∧ (∃ pa leaf lvl, ApertureOn apertureOn 0x3FFFFFF8 8
      ∧ apertureOn.translate none 1 (apertureOn.mgmt.apBase * 2 ^ 36 + 0x3FFFFFF8) .store = .ok pa leaf lvl ∧ apertureOn.channelHeld pa = false)
    ∧ (∃ pa leaf lvl, ApertureOn apertureOn 0x3FFFFFF8 8
      ∧ apertureOn.translate none 1 (apertureOn.mgmt.apBase * 2 ^ 36 + 0x3FFFFFF8) .load = .ok pa leaf lvl ∧ apertureOn.channelHeld pa = false)
    ∧ (∃ r, ApertureOn unmapped 0x3FFFFFFF 1
      ∧ unmapped.translate none 1 (unmapped.mgmt.apBase * 2 ^ 36 + 0x3FFFFFFF) .store = .fails r
      ∧ unmapped.translate none 1 (unmapped.mgmt.apBase * 2 ^ 36 + 0x3FFFFFFF) .load = .fails r)
    ∧ (255 < 256 ∧ 4095 < 4096 ∧ 0xFFFFFFFFF0000 % 65536 = 0 ∧ 0xFFFFFFFFF0000 < 2 ^ 52)
    ∧ (ApertureOn swapping 0x3FFFFFF8 8
      ∧ swapping.translate none 1 (swapping.mgmt.apBase * 2 ^ 36 + 0x3FFFFFF8) .store = .held [])
    ∧ (ApertureOn heldAperture 0x2000 8
      ∧ heldAperture.translate none 1 (heldAperture.mgmt.apBase * 2 ^ 36 + 0x2000) .store = .ok 0x2000 placedLeaf 1
      ∧ heldAperture.channelHeld 0x2000 = true)
    ∧ ∃ b, 0 < 1 ∧ 4096 % 4096 = 0 ∧ 4096 ≤ 2 ^ 26 ∧ running0.moving 1 = false ∧ running0.gWaits 1 (1 * 4096) 4096 .load = []
      ∧ running0.gBytes 1 (1 * 4096) 4096 = some b :=
  ⟨rfl, ⟨0x3FFFFFF8, placedLeaf, 1, on_aperture, by decide +kernel, rfl⟩,
    ⟨0x3FFFFFF8, placedLeaf, 1, on_aperture, by decide +kernel, rfl⟩,
    ⟨1, on_unmapped, by decide +kernel, by decide +kernel⟩, by decide,
    ⟨on_swapping, by decide +kernel⟩, ⟨⟨rfl, rfl, rfl, by decide, by decide, by decide⟩, by decide +kernel, by decide +kernel⟩,
    by obtain ⟨b, hb⟩ := image_running0; exact ⟨b, by decide, by decide, by decide, rfl, by decide +kernel, hb⟩⟩

def fabric : State := { running0 with fabricOn := true }
def relayCall : FabricReq := .call 1 0x1000 8 4 4 0x1000 8 1 []
def relayCopy : FabricReq := .copy 1 0x1000 0 0 0 0 1 [0]
/-- The same with no fabric link that works. -/
def linkless : State := { fabric with capacity := [(0x18, 0), (0x19, 0)] }
def pieceF : List Piece := [{ off := 0, len := 1, loc := .sto 0x1000 }]

theorem fabLen1 : fabLen 0 0 0 [(0 : Byte)] = 1 := by decide

theorem admits_fabric :
    (∃ s', fabric.tryAdmit 1 3 16 (fabric.pagesOf 1 0x1000 (fabLen 0 0 0 [0])) (byteNeeds [] pieceF ++ [.spread 0x19 1] ++ []) = .ok s')
    ∧ (∃ s', fabric.tryAdmit 1 2 32 [] (callNeeds (executorOf 4 0 (.sto 0x1000)) 2 0 8 ++ [.spread 0x19 0, .spread 0x18 32]) = .ok s')
    ∧ (∃ k, linkless.tryAdmit 1 1 16 (linkless.pagesOf 1 0x1000 (fabLen 0 0 0 [0])) (byteNeeds [] pieceF ++ [.spread 0x19 1] ++ [])
      = .error k)
    ∧ (∃ s', relayAsks fabric 0x1000 relayCopy pieceF = .ok s') ∧ (∃ s', relayAsks fabric 0x1000 relayCall [] = .ok s')
    ∧ ∃ k, relayAsks linkless 0x1000 relayCopy pieceF = .error k :=
  ⟨isOk_of (by decide +kernel), isOk_of (by decide +kernel), isError_of (by decide +kernel), isOk_of (by decide +kernel),
    isOk_of (by decide +kernel), isError_of (by decide +kernel)⟩

/-- Whether the peer refuses is open (log entry 24): the clauses for either answer share the other hypotheses. -/
theorem witness_FabricAndErrorEventsComplete :
    (∃ s', FabCopyOk 0x1000 0 0 0 3 [0] ∧ fabric.wholeRange (peerAgent 1) 4 .store 0x1000 (fabLen 0 0 0 [0]) = .ok pieceF
      ∧ fabric.heldChannels pieceF = []
      ∧ fabric.tryAdmit 1 3 16 (fabric.pagesOf 1 0x1000 (fabLen 0 0 0 [0])) (byteNeeds [] pieceF ++ [.spread 0x19 1] ++ []) = .ok s')
    ∧ PacketOk 0 1 4 []
    ∧ (∃ loc s', FabCallOk fabric 1 8 4 4 0x1000 8 2 [] ∧ fabric.wholeRange (peerAgent 1) 4 .load 0x1000 1 = .ok pieceF
      ∧ pieceLoc pieceF 0 = some loc
      ∧ fabric.tryAdmit 1 2 32 [] (callNeeds (executorOf 4 0 loc) 2 0 8 ++ [.spread 0x19 0, .spread 0x18 32]) = .ok s')
    ∧ (∃ k, linkless.mode = .running ∧ linkless.fabricOn = true ∧ fabRefused linkless relayCopy 1 k)
    ∧ (∃ s', Relays fabric 0x1000 relayCopy pieceF ∧ relayAsks fabric 0x1000 relayCopy pieceF = .ok s')
    ∧ (∃ s', Relays fabric 0x1000 relayCall [] ∧ relayAsks fabric 0x1000 relayCall [] = .ok s')
    ∧ (∃ k, Relays linkless 0x1000 relayCopy pieceF ∧ relayAsks linkless 0x1000 relayCopy pieceF = .error k)
    ∧ (3 < 4 ∧ 35 < 36 ∧ 14 ≤ 14 ∧ 319 / 5 < 64)
    ∧ (Cells.find late.nodes 0 = some node0 ∧ node0.admitted.isSome = true)
    ∧ Powered { fabric with mode := .recovery } :=
  have ⟨s1, h1⟩ := admits_fabric.1
  have ⟨s2, h2⟩ := admits_fabric.2.1
  have ⟨k, hk⟩ := admits_fabric.2.2.1
  have ⟨s3, h3⟩ := admits_fabric.2.2.2.1
  have ⟨s4, h4⟩ := admits_fabric.2.2.2.2.1
  have ⟨m, hm⟩ := admits_fabric.2.2.2.2.2
  ⟨⟨s1, ⟨by decide, by decide, by decide, by decide, fun h => absurd rfl h, by decide⟩, ok_of (by decide +kernel), rfl, h1⟩,
    ⟨by decide, by decide, by decide, by decide, by decide, by decide, by decide⟩,
    ⟨.sto 0x1000, s2, ⟨by decide, by decide, by decide, by decide, by decide, Or.inr ⟨rfl, by decide +kernel, rfl⟩⟩,
      ok_of (by decide +kernel), rfl, h2⟩,
    ⟨k, rfl, rfl, ⟨by decide, by decide, by decide, by decide, fun h => absurd rfl h, by decide⟩, rfl, pieceF,
      ok_of (by decide +kernel), rfl, hk⟩,
    ⟨s3, ⟨rfl, rfl, by decide, nofun, ok_of (by decide +kernel), rfl⟩, h3⟩,
    ⟨s4, ⟨rfl, rfl, by decide, fun _ _ hp => (nomatch hp), ok_of (by decide +kernel), rfl⟩, h4⟩,
    ⟨m, ⟨rfl, rfl, by decide, nofun, ok_of (by decide +kernel), rfl⟩, hm⟩, by decide, ⟨rfl, rfl⟩, .inr rfl⟩

/-- Command `k` is at hand, its request naming owner `oid`. -/
def mailbox (k : Word) (oid : Byte) : State :=
  { running0 with mailbox := { command := k, status := 1, request := Cells.set 0 [] 0 oid } }

/-- What the key encapsulation gives is open (log entry 42): LOADKEY has a clause for either outcome. -/
theorem witness_BootAndMailboxEventsComplete :
    State.reset.mode = .inReset ∧ State.reset.found.block = none ∧ (∀ b, ¬ ImagesGood State.reset.found b)
    ∧ ((mailbox 1 0).mailbox.command = 1 ∧ (mailbox 1 0).mailbox.status = 1 ∧ (mailbox 1 0).mode = .running)
    ∧ CommandAtHand 2 (mailbox 2 0)
    ∧ (CommandAtHand 3 (mailbox 3 5) ∧ 5 = leNat ((mailbox 3 5).requestBytes 0 4) ∧ 5 < 0xFFF ∧ 5 ∉ (mailbox 3 5).keys)
    ∧ (CommandAtHand 3 (mailbox 3 0) ∧ 0 = leNat ((mailbox 3 0).requestBytes 0 4))
    ∧ (CommandAtHand 4 (mailbox 4 5) ∧ 5 = leNat ((mailbox 4 5).requestBytes 0 4)
      ∧ ∀ p ∈ (mailbox 4 5).nodes, p.2.oid = 5 → p.2.admitted = none) :=
  ⟨rfl, rfl, fun _ h => (nomatch h.2.2.1), ⟨rfl, rfl, rfl⟩, ⟨rfl, rfl, rfl⟩, ⟨⟨rfl, rfl, rfl⟩, rfl, by decide, nofun⟩,
    ⟨⟨rfl, rfl, rfl⟩, rfl⟩, ⟨rfl, rfl, rfl⟩, rfl, nofun⟩

/-! ### Witnesses of the statements: traps -/

/-- A full run, a run without a word, and a full run of a remote function. -/
def sFull : State := stateOf team0 coach0 (sub0 24)
def sNone : State := stateOf team0 coach0 (sub0 0)

theorem witness_FormsThatTrap :
    ((encodeFields (.uadd false 0 0 0)).isSome = true ∧ sFull.here = some (hereOf team0 coach0 (sub0 24))
      ∧ (hereOf team0 coach0 (sub0 24)).remote = none ∧ 24 ≤ (hereOf team0 coach0 (sub0 24)).run.words)
    ∧ ((encodeFields (.iadd false 0 0 0)).isSome = true ∧ remoteMay (.iadd false 0 0 0) = false ∧ sR.here = some hR
      ∧ hR.remote.isSome = true)
    ∧ (Issues false s0 h0 ∧ h0.c.saved = none ∧ ∀ cs, s0.fetch h0 (h0.g.pc + 4) ≠ .error (.hold cs))
    ∧ (sNone.here = some (hereOf team0 coach0 (sub0 0)) ∧ (hereOf team0 coach0 (sub0 0)).run.words = 0)
    ∧ ((∃ f, uniformBinary (.uadd false 64 0 0) = some (false, 64, 0, 0, f)) ∧ Issues true s0 h0 ∧ h0.c.board = []
      ∧ (64 : BitVec 8).toNat < 192 ∧ h0.c.allot ≤ (64 : BitVec 8).toNat)
    ∧ ((∃ f, laneBinary (.iadd false 247 191 0) = some (false, 247, 191, 0, f)) ∧ (247 : BitVec 8).toNat < 248
      ∧ h0.c.allot ≤ (191 : BitVec 8).toNat ∧ (191 : BitVec 8).toNat < 192)
    ∧ ∀ p ∈ coachReads h0, p.1 ≠ (4095 : BitVec 12).toNat :=
  ⟨⟨rfl, rfl, rfl, by decide⟩, ⟨rfl, rfl, rfl, rfl⟩, ⟨issues_s0', rfl, fun _ h => by
      obtain ⟨w, hw, _⟩ := trailer_s0; rw [hw] at h; cases h⟩, ⟨rfl, rfl⟩, ⟨⟨_, rfl⟩, issues_s0, rfl, by decide, by decide⟩,
    ⟨⟨_, rfl⟩, by decide, by decide, by decide⟩, by decide⟩

/-- The pair S0, S1 is a misaligned address. -/
def coachN : Coach := { coach0 with s := [(0, 0x1002)] }
def sN : State := stateOf team0 coachN (sub0 1)
def hN : Here := hereOf team0 coachN (sub0 1)
theorem issues_sN : Issues true sN hN := ⟨rfl, fun _ => rfl, by decide⟩
theorem base_sN : UniBase hN 5 192 false := fun _ => uniBlock_of rfl (by decide) (by decide)
theorem check_sN (acc : Access) : sN.check hN.agent 5 hN.uniformLane (hN.addrU 5 192 false).1 4 acc = .fails .misaligned 0 := by
  cases acc <;> rfl
theorem unmapped_translate (acc : Access) : unmapped.translate none 1 0x1000 acc = .fails 1 := by
  cases acc <;> decide +kernel

theorem witness_FailedAccessesTrap :
    uniformLoad (.uldw false 60 192 0 0) = some (false, 60, 192, 0, false, 4, false, none)
    ∧ uniformStore (.ustw false 60 192 0 0) = some (false, 60, 192, 0, false, 4, none)
    ∧ (∃ acq rel op f, uniformAtomic (.uacas false 62 0 0 0 0) = some (false, 62, 0, 0, true, acq, rel, op, f))
    ∧ spaceOfWh (0 : BitVec 3).toNat = 5 ∧ Issues true sN hN ∧ UniBlock hN 60 (registersOf 4) ∧ UniBase hN 5 192 false
    ∧ (∀ acc, sN.check hN.agent 5 hN.uniformLane (hN.addrU 5 192 false).1 4 acc = .fails .misaligned 0)
    ∧ (0x1002 : Int) % (4 : Nat) ≠ 0 ∧ (-4 : Int) % (4 : Nat) = 0 ∧ 0x1000 % 4 = 0 ∧ 0x1000 + 4 ≤ 2 ^ 56
    ∧ ∀ acc, unmapped.translate none 1 0x1000 acc = .fails 1 :=
  ⟨rfl, rfl, ⟨_, _, _, _, rfl⟩, rfl, issues_sN, uniBlock_of rfl (by decide) (by decide), base_sN, check_sN, by decide, by decide, by decide,
    by decide, unmapped_translate⟩

/-- Planes that do not agree, and planes that agree but for their folding. -/
def coachQ : Coach := { coach0 with pd := [(0, desc 0), (1, BitVec.ofNat 64 ((desc 1).toNat + 2 ^ 62)), (2, desc 63)] }
def hQ : Here := hereOf team0 coachQ (sub0 1)

/-- Teams without the envelope unit and the accumulator store, with one tag, and with every tag busy. -/
def bare : Team := { teamE with envu := false, accu := false, grants := { team0.grants with tagn := 1 } }
def busy : Team := { team0 with tags := 0 }
theorem issuesAs (t : Team) (c : Coach) : Issues false (stateOf t c (sub0 1)) (hereOf t c (sub0 1)) :=
  ⟨rfl, nofun, Nat.lt_of_sub_pos (Nat.succ_pos 22)⟩
theorem issuesM (t : Team) (c : Coach) : Issues false (stateOf t c subM) (hereOf t c subM) :=
  ⟨rfl, nofun, Nat.lt_of_sub_pos (Nat.succ_pos 22)⟩

/-- The lanes 0 and 31 address GLOBAL by V2 and V3; lane 31 is misaligned. -/
def coachL : Coach := { coach0 with v := [(64, 0x1000), (95, 0x1002)] }
def compat0 : Team := { team0 with compat := true }
def sL (t : Team) : State := stateOf t coachL subM
def hL (t : Team) : Here := hereOf t coachL subM
theorem base_hL (t : Team) : LaneBase (hL t) 5 2 false := fun _ =>
  laneBlock_of rfl (by decide) (.inr ⟨by decide, (by decide : 2 + 2 ≤ 64), by decide⟩)
def badLane : LaneFault := { lane := 31, cause := .misaligned, reason := 0, space := 5, addr := 0x1002 }
def kL : Here := lanesSplit (hL compat0) (laneTrap 5 badLane [badLane])

/-- No lane's translation is held back. -/
def NoneHeld (s : State) (h : Here) : Prop :=
  ∀ l ∈ lanesOf h.g.exec, ∀ chans, s.check h.agent 5 l (h.addrL 5 2 false l).1 4 .load ≠ .held chans
def heldBack : Check → Bool
  | .held _ => true
  | _ => false
theorem noneHeld_of {s : State} {h : Here}
    (hn : ∀ l ∈ lanesOf h.g.exec, heldBack (s.check h.agent 5 l (h.addrL 5 2 false l).1 4 .load) = false) : NoneHeld s h :=
  fun l hl chans hc => by have := hn l hl; rw [hc] at this; cases this

theorem witness_OperandsThatTrap :
    (Issues false s0 h0 ∧ LaneDest h0 63 ∧ viNumber h0 (-1) < 0 ∧ Usable h0 63 ∧ (h0.c.allot : Int) ≤ viNumber h0 64)
    ∧ ((∃ f, planeArith (.padd false 0 1 2) = some (false, 0, 1, 2, f)) ∧ Plane.ok (h0.plane 0) h0.c.allot = false)
    ∧ (Issues false (stateOf team0 coachQ (sub0 1)) hQ ∧ (∀ p ∈ [hQ.plane 0, hQ.plane 1, hQ.plane 2], Plane.ok p hQ.c.allot = true)
      ∧ (∀ p ∈ [hQ.plane 0, hQ.plane 1, hQ.plane 2], ∀ q ∈ [hQ.plane 0, hQ.plane 1, hQ.plane 2], p.agree q = true)
      ∧ (hQ.plane 0).fold ≠ (hQ.plane 1).fold)
    ∧ (Issues false (stateOf bare coachD (sub0 1)) (hereOf bare coachD (sub0 1)) ∧ (hereOf bare coachD (sub0 1)).t.envu = false
      ∧ ∃ e, envelopeResult (hereOf bare coachD (sub0 1)) (.envsimp false 1 15) = some (false, 15, e))
    ∧ (Issues false (stateOf teamE { coachD with ecap := 0 } (sub0 1)) (hereOf teamE { coachD with ecap := 0 } (sub0 1))
      ∧ ∃ e, envelopeResult (hereOf teamE { coachD with ecap := 0 } (sub0 1)) (.envsimp false 1 15) = some (false, 15, e)
        ∧ ({ coachD with ecap := 0 } : Coach).ecap.toNat < e.lines.length)
    ∧ ((hereOf bare coachD (sub0 1)).t.grants.tagn ≤ (1 : BitVec 6).toNat
      ∧ Issues false (stateOf busy coach0 (sub0 1)) (hereOf busy coach0 (sub0 1)) ∧ (63 : BitVec 6).toNat < busy.grants.tagn
      ∧ busy.tags.getLsbD (63 : BitVec 6).toNat = false)
    ∧ ((hereOf bare coachD (sub0 1)).t.accu = false ∧ hM.t.accu = true ∧ ¬ Whole hM)
    ∧ (laneLoads (.ldw false 60 2 0 0) = some (false, 60, 2, 0, false, 4, false, none)
      ∧ Issues false (sL team0) (hL team0) ∧ Issues false (sL compat0) (hL compat0)
      ∧ LaneBlock (hL team0) 60 (registersOf 4) true ∧ LaneBase (hL team0) 5 2 false
      ∧ failingLanes (sL team0) (hL team0) 5 4 .load (fun l => ((hL team0).addrL 5 2 false l).1) = [badLane]
      ∧ NoneHeld (sL team0) (hL team0) ∧ (hL team0).t.compat = false
      ∧ LaneBlock (hL compat0) 60 (registersOf 4) true ∧ LaneBase (hL compat0) 5 2 false
      ∧ failingLanes (sL compat0) (hL compat0) 5 4 .load (fun l => ((hL compat0).addrL 5 2 false l).1) = [badLane]
      ∧ NoneHeld (sL compat0) (hL compat0) ∧ (hL compat0).t.compat = true ∧ kL.g.mem ≠ 0
      ∧ LaneAccesses (sL compat0) kL 5 4 .load (fun l => (kL.addrL 5 2 false l).1) [found 0]) :=
  ⟨⟨issues_s0', laneDest_of rfl (by decide), by decide, usable_of rfl (by decide), by decide⟩, ⟨⟨_, rfl⟩, by decide⟩,
    ⟨issuesAs _ _, by decide, by decide, by decide⟩, ⟨issuesAs _ _, rfl, ⟨_, rfl⟩⟩,
    ⟨issuesAs _ _, ⟨_, rfl, by decide⟩⟩, ⟨by decide, issuesAs _ _, by decide, by decide⟩,
    ⟨rfl, rfl, fun h => absurd h.2 (by decide)⟩,
    ⟨rfl, issuesM _ _, issuesM _ _, laneBlock_of rfl (by decide) (by decide), base_hL _, by decide +kernel,
      noneHeld_of (by decide +kernel), rfl, laneBlock_of rfl (by decide) (by decide), base_hL _, by decide +kernel,
      noneHeld_of (by decide +kernel), rfl, by decide, rfl,
      fun c hc => by rw [List.mem_singleton.mp hc]; exact ⟨rfl, by decide +kernel⟩⟩⟩

/-! ### Witnesses of the statements: translation, handlers and trailers -/

/-- The tables with a leaf that permits loads only. -/
def loadsOnly : Nat := placedLeaf - 0x60
def readOnly : State := { running0 with mem := (running0.writeLocs 1 (.sto 0x40000) (leBytes 8 loadsOnly)).mem }

/-- A kernel holds the channel of the root table. -/
def tableHeld : State := { running0 with drays := [(channelOf 0x20000, dray0)] }

theorem witness_TranslationsFollowTheWalk :
    (running0.swaps = [] ∧ running0.cached none 1 0x1000 = none ∧ running0.walk 1 0x1000 = .leaf placedLeaf 1 0x40000
      ∧ withheld .fetch placedLeaf = 0)
    ∧ (readOnly.swaps = [] ∧ readOnly.cached (some 0) 1 0x1000 = none ∧ readOnly.walk 1 0x1000 = .leaf loadsOnly 1 0x40000
      ∧ withheld .store loadsOnly = 5 ∧ withheld .atomic loadsOnly = 5 ∧ withheld .fetch loadsOnly = 6)
    ∧ (unmapped.swaps = [] ∧ unmapped.cached none 1 0x1000 = none ∧ unmapped.walk 1 0x1000 = .fails 1)
    ∧ (tableHeld.swaps = [] ∧ tableHeld.cached none 1 0x1000 = none ∧ tableHeld.walk 1 0x1000 = .waits (channelOf 0x20000))
    ∧ ((swap0 true).begun = true ∧ (swap0 true).va ≤ 0x3FFFFFFF ∧ 0x3FFFFFFF < (swap0 true).va + (swap0 true).size) :=
  ⟨⟨rfl, rfl, by decide +kernel, by decide⟩, ⟨rfl, rfl, by decide +kernel, by decide, by decide, by decide⟩,
    ⟨rfl, rfl, by decide +kernel⟩, ⟨rfl, rfl, by decide +kernel⟩, by decide, by decide, by decide⟩

/-- The stopped coach of a team with a handler's image; the same while a swap moves its frame's page, while a kernel holds its
channel, and without a table. -/
def imageTeam : Team := { team0 with image := some { vbase := 1, len := 4096, pool := 0 }, coaches := [stopped0] }
def entering : State := { running0 with teams := [(0, imageTeam)] }
def frameMoves : State := { entering with swaps := [swap0 true] }
def frameHeld : State := { entering with drays := [(0, dray0)] }
def frameless : State := { entering with roots := [(1, 0x40000)] }

theorem enters (s : State) (hs : s.coach 0 0 = some (imageTeam, stopped0)) (hi : s.inRun 0 0 = false) : MayEnter s 0 0 stop0 :=
  ⟨_, _, [], hs, rfl, rfl, hi, rfl, .inr rfl, rfl, rfl⟩

theorem witness_HandlerEntrySaves :
    (∃ im, entering.mode = .running ∧ MayEnter entering 0 0 stop0 ∧ RecordFits stop0
      ∧ entering.coach 0 0 = some (imageTeam, stopped0) ∧ imageTeam.image = some im
      ∧ entering.translate (some (Config.clusterOf imageTeam.core)) imageTeam.oid 0 .store = .ok 0 placedLeaf 1
      ∧ stopped0.area.toNat * 1024 = 0 ∧ entering.channelHeld 0 = false)
    ∧ (MayEnter frameMoves 0 0 stop0 ∧ frameMoves.coach 0 0 = some (imageTeam, stopped0)
      ∧ frameMoves.translate (some (Config.clusterOf imageTeam.core)) imageTeam.oid 0 .store = .held [])
    ∧ (MayEnter frameHeld 0 0 stop0 ∧ frameHeld.coach 0 0 = some (imageTeam, stopped0)
      ∧ frameHeld.translate (some (Config.clusterOf imageTeam.core)) imageTeam.oid 0 .store = .ok 0 placedLeaf 1
      ∧ frameHeld.channelHeld 0 = true)
    ∧ (MayEnter frameless 0 0 stop0 ∧ frameless.coach 0 0 = some (imageTeam, stopped0)
      ∧ frameless.translate (some (Config.clusterOf imageTeam.core)) imageTeam.oid 0 .store = .fails 2)
    ∧ ∃ t, MayEnter (coachOf stopped0) 0 0 stop0 ∧ (coachOf stopped0).coach 0 0 = some (t, stopped0) ∧ t.image = none :=
  ⟨⟨_, rfl, enters _ rfl rfl, ⟨by decide, by decide⟩, rfl, rfl, by decide +kernel, rfl, rfl⟩, ⟨enters _ rfl rfl, rfl, rfl⟩,
    ⟨enters _ rfl rfl, rfl, by decide +kernel, by decide +kernel⟩,
    ⟨enters _ rfl rfl, rfl, by decide +kernel⟩, ⟨_, ⟨_, _, [], rfl, rfl, rfl, rfl, rfl, .inr rfl, rfl, rfl⟩, rfl, rfl⟩⟩

/-- A handler at the trailer of its RFE. -/
def saved0 (r : Bool) : Saved :=
  { fault := { trap := { cause := .pageFault }, pc := 0, word := 0, pre := none, resume := 4, exec := 1, mem := 1, run := 1, sub := 7 },
    token := 0, replayed := r, s := [], t := [], tt := [], tw := [], vi := 0, subs := [], parents := [] }
def atRfe (r : Bool) (a : BitVec 2) : Coach := { coach0 with saved := some (saved0 r), act := a }
theorem returning (r : Bool) (a : BitVec 2) :
    Returning (stateOf team0 (atRfe r a) (atTrailer .rfe)) (hereOf team0 (atRfe r a) (atTrailer .rfe)) (saved0 r) a :=
  ⟨rfl, rfl, Nat.succ_pos 1, rfl, rfl, rfl, rfl⟩

/-- The wait table of tower 0 with its 1,024 entries. -/
def fullTable : State :=
  { stateOf team0 (atRfe false 1) (atTrailer .rfe) with
    waits := List.replicate 1024 { tower := 0, token := 0, oid := 1, addr := none, team := 1, coach := 0 } }
theorem full_fullTable : 1024 ≤ fullTable.waitCount 0 := by decide +kernel

theorem witness_ReturnFromHandlerRestores :
    Returning (stateOf team0 (atRfe false 0) (atTrailer .rfe)) (hereOf team0 (atRfe false 0) (atTrailer .rfe)) (saved0 false) 0
    ∧ (Returning (stateOf team0 (atRfe false 1) (atTrailer .rfe)) (hereOf team0 (atRfe false 1) (atTrailer .rfe)) (saved0 false) 1
      ∧ (stateOf team0 (atRfe false 1) (atTrailer .rfe)).waitCount 0 < 1024)
    ∧ Returning (stateOf team0 (atRfe true 1) (atTrailer .rfe)) (hereOf team0 (atRfe true 1) (atTrailer .rfe)) (saved0 true) 1
    ∧ (Returning fullTable (hereOf team0 (atRfe false 1) (atTrailer .rfe)) (saved0 false) 1 ∧ 1024 ≤ fullTable.waitCount 0)
    ∧ Returning (stateOf team0 (atRfe false 3) (atTrailer .rfe)) (hereOf team0 (atRfe false 3) (atTrailer .rfe)) (saved0 false) 3 :=
  ⟨returning _ _, ⟨returning _ _, by decide⟩, returning _ _,
    ⟨⟨rfl, rfl, Nat.succ_pos 1, rfl, rfl, rfl, rfl⟩, full_fullTable⟩, returning _ _⟩

/-- Another sub-group of the coach has recorded an arrival at barrier 15 with another count. -/
def coachG : Coach := { coach0 with subs := [{ subIdle with id := 1, recs := [(15, 2)] }] }
def hG : Here :=
  { hereOf team0 coach0 (atTrailer (.barsync (some (15, 1)))) with
    c := { coachG with subs := atTrailer (.barsync (some (15, 1))) :: coachG.subs } }
def sG : State := { sT (.barsync (some (15, 1))) with teams := [(0, { team0 with coaches := [hG.c] })] }

theorem witness_TrailersThatStopOrWait :
    (∀ k, (sT k).here = some (hT k) ∧ 0 < (hT k).run.words ∧ (hT k).run.closer = k)
    ∧ (∃ k done, ((hT (.barsync (some (15, 1)))).post 0).arriveSub 15 1 true = .ok (k, done))
    ∧ (∃ h stop, sG.here = some h ∧ 0 < h.run.words ∧ h.run.closer = .barsync (some (15, 1))
      ∧ (h.post 0).arriveSub 15 1 true = .error stop)
    ∧ ∀ k, (((sT k).segment ((hT k).post 0)).2 : Int) ≤ 8 :=
  ⟨fun _ => ⟨rfl, Nat.succ_pos 1, rfl⟩, ⟨_, _, rfl⟩, ⟨_, _, rfl, by decide, rfl, rfl⟩, fun _ => (by decide : (8 : Int) ≤ 8)⟩

/-! ### Witnesses of the statements: steps, words and frames -/

/-- An issuing word placed with its run; a dray thread, a function and a Celud thread whose next word is due. -/
def due0 (w : Nat) : State := State.placeNative State.reset w
def dueR : State := { stateR 0x100 (sub0 0) with due := [.remote 0x100], mem := (due0 0x01000000).mem }
def addWord : Instr := .celudAdd none 1 2 3
def dueC : State :=
  { sC with teams := [(0, { teamC with celud := some { celud0 with words := [0x1000001002003000] } })], due := [.thread 0 31 addWord] }
/-- A word where the trailer of a run-closing instruction must stand. -/
def dueK : State :=
  { due0 0x81C00001 with teams := [(0, { team0 with coaches := [{ coach0 with subs := [{ sub0 1 with
    run := some { no := 1, words := 1, closer := .endLanes } }] }] })] }
def powerless : State := { running0 with due := [.event .powerLoss] }

theorem witness_StepRunsDecodedInstruction :
    (∃ t h w i, (due0 0x81C00001).mode = .running ∧ (due0 0x81C00001).due = .word 0 :: []
      ∧ (Cells.get {} (due0 0x81C00001).halves 0).inRun = some (0, 0, 0) ∧ Cells.find (due0 0x81C00001).teams 0 = some t
      ∧ t.issues = true ∧ (issuing (due0 0x81C00001) [] 0 0 0 0).here = some h
      ∧ (issuing (due0 0x81C00001) [] 0 0 0 0).fetch h h.g.pc = .ok w ∧ ClosedBy h w ∧ decode w = some i)
    ∧ (∃ t h w, (due0 0x80000000).due = .word 0 :: [] ∧ (Cells.get {} (due0 0x80000000).halves 0).inRun = some (0, 0, 0)
      ∧ Cells.find (due0 0x80000000).teams 0 = some t ∧ t.issues = true ∧ (issuing (due0 0x80000000) [] 0 0 0 0).here = some h
      ∧ (issuing (due0 0x80000000) [] 0 0 0 0).fetch h h.g.pc = .ok w ∧ ClosedBy h w ∧ decode w = none)
    ∧ (∃ t h w, dueK.mode = .running ∧ dueK.due = .word 0 :: [] ∧ (Cells.get {} dueK.halves 0).inRun = some (0, 0, 0)
      ∧ Cells.find dueK.teams 0 = some t ∧ t.issues = true ∧ (issuing dueK [] 0 0 0 0).here = some h
      ∧ (issuing dueK [] 0 0 0 0).fetch h h.g.pc = .ok w ∧ ¬ ClosedBy h w)
    ∧ (∃ d w i, (State.placeDray State.reset 0x04400005).due = .drayA 0 :: []
      ∧ Cells.find (State.placeDray State.reset 0x04400005).drays 0 = some d ∧ d.endA = false ∧ d.progA[d.pcA]? = some w
      ∧ decodeDray w = some i ∧ w.toNat / 2 ^ 31 % 2 = 0)
    ∧ (∃ d w i, (State.placeDray State.reset 0x80000000).due = .drayX 0 :: []
      ∧ Cells.find (State.placeDray State.reset 0x80000000).drays 0 = some d ∧ d.endX = false ∧ d.progX[d.pcX]? = some w
      ∧ decodeDray w = some i ∧ w.toNat / 2 ^ 31 % 2 = 1)
    ∧ (∃ h h' w i, dueR.mode = .running ∧ dueR.due = .remote 0x100 :: [] ∧ (remoteIssuing dueR [] 0x100).here = some h
      ∧ h.g.ready = true ∧ (remoteRunning dueR [] 0x100 h.g).here = some h'
      ∧ (remoteRunning dueR [] 0x100 h.g).fetch h' h'.g.pc = .ok w ∧ ClosedBy h' w ∧ decode w = some i)
    ∧ (∃ h w, dueC.mode = .running ∧ dueC.due = .thread 0 31 addWord :: []
      ∧ State.celudHere { dueC with tick := dueC.tick + 1, due := [], cur := .thread 0 31 } = some h ∧ h.p.words[h.th.pc]? = some w
      ∧ decodeCelud w (h.p.words.getD (h.th.pc + 1) 0) = some addWord)
    ∧ (powerless.due = .event .powerLoss :: [] ∧ Instr.isEvent .powerLoss = true)
    ∧ (State.due { running0 with due := [.overrun 0, .callLost 9] } = .overrun 0 :: [.callLost 9])
    ∧ (State.due { running0 with due := [.entry 0 0, .serve] } = .entry 0 0 :: [.serve]) ∧ running0.due = [] :=
  ⟨⟨_, _, 0x81C00001, .uadd false 192 0 1, rfl, rfl, rfl, rfl, rfl, rfl, ok_of (by decide +kernel), .inl rfl, by decide⟩,
    ⟨_, _, 0x80000000, rfl, rfl, rfl, rfl, rfl, ok_of (by decide +kernel), .inl rfl, by decide⟩,
    ⟨_, _, 0x81C00001, rfl, rfl, rfl, rfl, rfl, rfl, ok_of (by decide +kernel), fun hc => hc.elim nofun fun h => absurd h.2 (by decide)⟩,
    ⟨_, 0x04400005, .jmovi 1 5, by decide, rfl, rfl, by decide, by decide, by decide⟩,
    ⟨_, 0x80000000, .xend, by decide, rfl, rfl, by decide, by decide, by decide⟩,
    ⟨_, _, 0x01000000, .iadd false 0 0 0, rfl, rfl, rfl, rfl, rfl, ok_of (by decide +kernel), .inl rfl, by decide⟩,
    ⟨_, 0x1000001002003000, rfl, rfl, rfl, rfl, by decide⟩, ⟨rfl, rfl⟩, rfl, rfl, rfl⟩

theorem witness_NativeWordsRoundTrip :
    (Instr.wellFormed (.uaddp true 254 62 7) = true ∧ ∃ w, encode (.uaddp true 254 62 7) = some w) ∧ ∃ i, decode 0xBF010200 = some i :=
  ⟨⟨by decide, _, rfl⟩, ⟨_, rfl⟩⟩

theorem witness_DrayAndCeludWordsRoundTrip :
    (∃ w, encodeDray (.xfma 15 1 2 1) = some w) ∧ (∃ i, decodeDray 0x80000000 = some i)
    ∧ (∃ w, Instr.wellFormed addWord = true ∧ encodeCelud addWord = some (w, none)) ∧ decodeCelud 0x1000001002003000 0 = some addWord :=
  ⟨⟨_, rfl⟩, ⟨_, rfl⟩, ⟨_, by decide, rfl⟩, by decide⟩

theorem witness_StepKeepsMemoryForm : Memory.wf powerless ∧ ∃ s', step powerless = .next s' := ⟨by decide +kernel, _, rfl⟩

theorem witness_StoresChangeTheirBytesOnly :
    Memory.wf running0 ∧ Outside (.sto 0x1004) (.sto 0x1000) 4
    ∧ KeepsSector (running0.keyOf 1) (running0.keyOf 1) (.sto 0x1004) (.sto 0x1000) 4
    ∧ Outside (.lane 0 1 0) (.lane 0 0 8188) 4 := by
  refine ⟨by decide +kernel, fun i hi h => ?_, fun a b ha hb _ => ?_, fun i hi h => ?_⟩
  · rw [Loc.plus, SameByte, Loc.sto.injEq] at h
    · omega
    · simp
  · rfl
  · simp only [Loc.plus, SameByte] at h; omega

theorem witness_RegisterWritesChangeOneRegister :
    255 < 256 ∧ Cells.rising h0.c.v = true ∧ Cells.rising h0.c.vt = true ∧ h0.c.pending (keyV 63 31) = false := by decide

theorem witness_RetiringChangesTheIssuerOnly :
    h0.remote = none ∧ (∃ t, Cells.find s0.teams h0.team = some t) ∧ hR.remote = some 0x100
    ∧ ∀ c, sR.running 0x100 ≠ some (10, c) := by
  refine ⟨rfl, ⟨_, rfl⟩, rfl, fun c h => ?_⟩
  have : (sR.running 0x100).map Prod.fst = some 9 := rfl
  rw [h] at this
  exact absurd (Option.some.inj this) (by decide : (10 : Nat) ≠ 9)

/-! ### Words of the encoding tables (R166 to R187, R333 to R337, R381, R382), and what they decode to

Every row of the tables has a word here, its fixed bits and its operand fields written from the table, with operand values
that differ from field to field. -/

/-- Native words. -/
def nativeWords0 : List (Word × Instr) := [
  (0x813C0810, .uadd false 0x3c 8 0x10), (0xC23C0810, .usub true 0x3c 8 0x10),
  (0x833C0810, .umul false 0x3c 8 0x10), (0xC43C0810, .umulh true 0x3c 8 0x10),
  (0x853C0810, .umulhu false 0x3c 8 0x10), (0xC63C0810, .udiv true 0x3c 8 0x10),
  (0x873C0810, .urem false 0x3c 8 0x10), (0xC83C0810, .uand true 0x3c 8 0x10),
  (0x893C0810, .uor false 0x3c 8 0x10), (0xCA3C0810, .uxor true 0x3c 8 0x10),
  (0x8B3C0810, .ushl false 0x3c 8 0x10), (0xCC3C0810, .ushr true 0x3c 8 0x10),
  (0x8D3C0810, .usar false 0x3c 8 0x10), (0xCE3C0810, .umin true 0x3c 8 0x10),
  (0x8F3C0810, .umax false 0x3c 8 0x10), (0xD03C0810, .uceq true 0x3c 8 0x10),
  (0x913C0810, .uclt false 0x3c 8 0x10), (0xD23C0810, .ucltu true 0x3c 8 0x10),
  (0x933C0810, .usel false 0x3c 8 0x10), (0xD43C0810, .uaddp true 0x3c 8 0x10),
  (0x953C0891, .uaddImm false 0x3c 8 0x91), (0xD63C0891, .uandImm true 0x3c 8 0x91),
  (0x973C0891, .uorImm false 0x3c 8 0x91), (0xD83C0815, .ushlImm true 0x3c 8 0x15),
  (0x983C0855, .ushrImm false 0x3c 8 0x15), (0xD83C0895, .usarImm true 0x3c 8 0x15)]
theorem test_nativeWords0 : nativeWords0.all (fun p => decide (decode p.1 = some p.2)) = true := by decide

/-- Native words. -/
def nativeWords1 : List (Word × Instr) := [
  (0x993C0891, .uaddpi false 0x3c 8 0x91), (0xDA3C9ABC, .umovi true 0x3c 0x9abc),
  (0x9B3C8765, .bz false 0x3c 0x8765), (0xDC3C8765, .bnz true 0x3c 0x8765), (0x9D3C4321, .srrd false 0x3c 0x4321),
  (0xDE3C4321, .srwr true 0x3c 0x4321), (0x9F02ABCD, .bra false 0x2abcd), (0xDF06ABCD, .call true 0x2abcd),
  (0x9F08B000, .callr false 0x2c), (0xDF0CB000, .brr true 0x2c), (0x9F10B000, .ret false 0x2c),
  (0xDF140000, .endLanes true), (0x9F18B2D5, .trap false 0x2c 0x2d5), (0xDF1C0000, .rfe true),
  (0x9F20B000, .replayToken false 0x2c), (0xDF20B001, .replayPage true 0x2c), (0x9F240002, .icinv false 2),
  (0xDF28000A, .fence true 1 2), (0x9F2C0000, .opfence false), (0xDF30B017, .waitany true 0x2c 0x17),
  (0x9F34B000, .waitall false 0x2c), (0xDF38B017, .ffrdy true 0x2c 0x17), (0x9F3CB017, .rcwait false 0x2c 0x17),
  (0xDF40B017, .rcprobe true 0x2c 0x17), (0xA000B000, .exrd false 0x2c), (0xE004B000, .exwr true 0x2c)]
theorem test_nativeWords1 : nativeWords1.all (fun p => decide (decode p.1 = some p.2)) = true := by decide

/-- Native words. -/
def nativeWords2 : List (Word × Instr) := [
  (0xA0080180, .exld false 3), (0xE00C0180, .exsv true 3), (0xA01001EA, .mand false 3 6 5),
  (0xE01401EA, .mor true 3 6 5), (0xA01801EA, .mxor false 3 6 5), (0xE01C01E0, .mnot true 3 6),
  (0xA020B180, .mrd false 0x2c 3), (0xE024B180, .mwr true 0x2c 3), (0xA028B180, .mpop false 0x2c 3),
  (0xE1000339, .bararv true 0 1 0x13 9), (0xA104B009, .barsync false 0x2c 0 0 9),
  (0xE23C0800, .uldb true 0x3c 8 0 0), (0xA23C0801, .uldh false 0x3c 8 0 0), (0xE23C0802, .uldw true 0x3c 8 0 0),
  (0xA23C0803, .uldd false 0x3c 8 0 0), (0xE23C0804, .uldq true 0x3c 8 0 0), (0xA23C0810, .ustb false 0x3c 8 0 0),
  (0xE23C0811, .usth true 0x3c 8 0 0), (0xA23C0812, .ustw false 0x3c 8 0 0), (0xE23C0813, .ustd true 0x3c 8 0 0),
  (0xA23C0814, .ustq false 0x3c 8 0 0), (0xE33C0802, .uldwAcq true 0x3c 8 0 2),
  (0xA33C080A, .ulddAcq false 0x3c 8 0 2), (0xE33C0812, .ustwRel true 0x3c 8 0 2),
  (0xA33C081A, .ustdRel false 0x3c 8 0 2), (0xE43C0802, .uldcw true 0x3c 8 0 2)]
theorem test_nativeWords2 : nativeWords2.all (fun p => decide (decode p.1 = some p.2)) = true := by decide

/-- Native words. -/
def nativeWords3 : List (Word × Instr) := [
  (0xA43C080A, .uldcd false 0x3c 8 0 2), (0xE5A9C012, .uaadd true 0x2a 0x1c 0 2 2),
  (0xA5A9C212, .uamin false 0x2a 0x1c 0 2 2), (0xE5A9C412, .uamax true 0x2a 0x1c 0 2 2),
  (0xA5A9C612, .uaand false 0x2a 0x1c 0 2 2), (0xE5A9C812, .uaor true 0x2a 0x1c 0 2 2),
  (0xA5A9CA12, .uaxor false 0x2a 0x1c 0 2 2), (0xE5A9CC12, .uaxchg true 0x2a 0x1c 0 2 2),
  (0xA5A9CE12, .uacas false 0x2a 0x1c 0 2 2), (0xE6C852D6, .copy true 0xc8 2 4 5 0x2b),
  (0xA7C8A9D6, .gsjob false 0xc8 1 1 2 3 0x2b), (0xE8C86B20, .rcall true 0xc8 0xd 6 2),
  (0xA9C82006, .mma false 0xc8 0x20 0 1 2), (0xE9C80016, .mloop true 0xc8 1 2), (0xA9000020, .mwait false),
  (0xE9C8003E, .mdrain true 0xc8 1 1 2), (0xA9C80040, .mvstack false 0xc8), (0xE9C80050, .quant2 true 0xc8),
  (0xA9241867, .tidset false 0x24 0x18 7), (0xE93C1877, .tidget true 0x3c 0x18 7), (0xBEABCDEF, .immx 0xabcdef),
  (0xBF162900, .runend 0x16 0x29), (0x013C0810, .iadd false 0x3c 8 0x10), (0x423C0810, .isub true 0x3c 8 0x10),
  (0x033C0810, .imul false 0x3c 8 0x10), (0x443C0810, .imulh true 0x3c 8 0x10)]
theorem test_nativeWords3 : nativeWords3.all (fun p => decide (decode p.1 = some p.2)) = true := by decide

/-- Native words. -/
def nativeWords4 : List (Word × Instr) := [
  (0x053C0810, .imulhu false 0x3c 8 0x10), (0x463C0810, .imin true 0x3c 8 0x10),
  (0x073C0810, .imax false 0x3c 8 0x10), (0x483C0810, .iand true 0x3c 8 0x10),
  (0x093C0810, .ior false 0x3c 8 0x10), (0x4A3C0810, .ixor true 0x3c 8 0x10),
  (0x0B3C0810, .ishl false 0x3c 8 0x10), (0x4C3C0810, .ishr true 0x3c 8 0x10),
  (0x0D3C0810, .isar false 0x3c 8 0x10), (0x4E3C0810, .iceq true 0x3c 8 0x10),
  (0x0F3C0810, .iclt false 0x3c 8 0x10), (0x503C0810, .icltu true 0x3c 8 0x10),
  (0x113C0810, .isel false 0x3c 8 0x10), (0x523C0810, .p8add true 0x3c 8 0x10),
  (0x133C0810, .p8sub false 0x3c 8 0x10), (0x543C0810, .p8max true 0x3c 8 0x10),
  (0x153C0810, .p8min false 0x3c 8 0x10), (0x563C0810, .p16add true 0x3c 8 0x10),
  (0x173C0810, .p16sub false 0x3c 8 0x10), (0x583C0810, .p16mul true 0x3c 8 0x10),
  (0x193C0810, .fadd false 0x3c 8 0x10), (0x5A3C0810, .fsub true 0x3c 8 0x10),
  (0x1B3C0810, .fmul false 0x3c 8 0x10), (0x5C3C0810, .ffma true 0x3c 8 0x10),
  (0x1D3C0810, .fmin false 0x3c 8 0x10), (0x5E3C0810, .fmax true 0x3c 8 0x10)]
theorem test_nativeWords4 : nativeWords4.all (fun p => decide (decode p.1 = some p.2)) = true := by decide

/-- Native words. -/
def nativeWords5 : List (Word × Instr) := [
  (0x1F3C0810, .fceq false 0x3c 8 0x10), (0x603C0810, .fclt true 0x3c 8 0x10),
  (0x213C0810, .fcle false 0x3c 8 0x10), (0x623C0810, .hadd2 true 0x3c 8 0x10),
  (0x233C0810, .hfma2 false 0x3c 8 0x10), (0x643C0810, .badd2 true 0x3c 8 0x10),
  (0x253C0810, .bfma2 false 0x3c 8 0x10), (0x663C0891, .iaddImm true 0x3c 8 0x91),
  (0x273C0891, .iandImm false 0x3c 8 0x91), (0x683C0891, .iorImm true 0x3c 8 0x91),
  (0x293C0815, .ishlImm false 0x3c 8 0x15), (0x693C0855, .ishrImm true 0x3c 8 0x15),
  (0x293C0895, .isarImm false 0x3c 8 0x15), (0x6A3C0813, .p8shl true 0x3c 8 0x13),
  (0x2A3C0833, .p8shr false 0x3c 8 0x13), (0x6A3C0853, .p8sar true 0x3c 8 0x13),
  (0x2A3C0893, .p16shl false 0x3c 8 0x13), (0x6A3C08B3, .p16shr true 0x3c 8 0x13),
  (0x2A3C08D3, .p16sar false 0x3c 8 0x13), (0x6B3C0800, .exp2 true 0x3c 8), (0x2B3C0801, .log2 false 0x3c 8),
  (0x6B3C0802, .rcp true 0x3c 8), (0x2B3C0803, .rsqrt false 0x3c 8), (0x6B3C0804, .sin true 0x3c 8),
  (0x2B3C0805, .cos false 0x3c 8), (0x6C3C08B2, .cvt true 0x3c 8 2 6 2)]
theorem test_nativeWords5 : nativeWords5.all (fun p => decide (decode p.1 = some p.2)) = true := by decide

/-- Native words. -/
def nativeWords6 : List (Word × Instr) := [
  (0x2D3C08B2, .cvts false 0x3c 8 2 6 2), (0x6E3C0085, .vrd true 0x3c 0x85), (0x2F000885, .vwr false 8 0x85),
  (0x70A9C182, .lpush true 0x2a 0x1c 0x18 2), (0x313C0810, .lpull false 0x3c 8 0x10),
  (0x723C9ABC, .imovi true 0x3c 0x9abc), (0x333C8765, .bvz false 0x3c 0x8765),
  (0x743C8765, .bvnz true 0x3c 0x8765), (0x353C0800, .ldb false 0x3c 8 0 0), (0x753C0801, .ldh true 0x3c 8 0 0),
  (0x353C0802, .ldw false 0x3c 8 0 0), (0x753C0803, .ldd true 0x3c 8 0 0), (0x353C0804, .ldq false 0x3c 8 0 0),
  (0x753C0810, .stb true 0x3c 8 0 0), (0x353C0811, .sth false 0x3c 8 0 0), (0x753C0812, .stw true 0x3c 8 0 0),
  (0x353C0813, .std false 0x3c 8 0 0), (0x753C0814, .stq true 0x3c 8 0 0), (0x363C0802, .ldwAcq false 0x3c 8 0 2),
  (0x763C080A, .lddAcq true 0x3c 8 0 2), (0x363C0812, .stwRel false 0x3c 8 0 2),
  (0x763C081A, .stdRel true 0x3c 8 0 2), (0x373C0802, .ldcw false 0x3c 8 0 2), (0x773C080A, .ldcd true 0x3c 8 0 2),
  (0x38A82012, .aadd false 0x2a 8 0 2 2), (0x78A82112, .amin true 0x2a 8 0 2 2)]
theorem test_nativeWords6 : nativeWords6.all (fun p => decide (decode p.1 = some p.2)) = true := by decide

/-- Native words. -/
def nativeWords7 : List (Word × Instr) := [
  (0x38A82212, .amax false 0x2a 8 0 2 2), (0x78A82312, .aand true 0x2a 8 0 2 2),
  (0x39A82012, .aor false 0x2a 8 0 2 2), (0x79A82112, .axor true 0x2a 8 0 2 2),
  (0x39A82212, .axchg false 0x2a 8 0 2 2), (0x79A82312, .acas true 0x2a 8 0 2 2),
  (0x3A2D0383, .pshift false 1 3 2 1 1 0x83), (0x7A2C0A83, .prot true 1 3 1 0x83),
  (0x3A2C12A5, .pspread false 1 3 0 0x2a5), (0x7A2D1A00, .pfold true 1 3 2 1), (0x3A2C2000, .prefold false 1 3),
  (0x7A2F2800, .padd true 1 3 6), (0x3A2F3000, .psub false 1 3 6), (0x7A2F3800, .pmul true 1 3 6),
  (0x3A2F4000, .pmax false 1 3 6), (0x7A2F4800, .pmin true 1 3 6), (0x3A2050D2, .pdset false 1 0xd2),
  (0x7A0C5818, .pdget true 3 0x18), (0x3B0A2C01, .envclr false 0xa 0x2c 1), (0x7B0A0810, .envins true 0xa 8),
  (0x3B5A0920, .envsum false 5 0xa 9), (0x7B5A0930, .envmax true 5 0xa 9), (0x3B5A0940, .envconv false 5 0xa 9),
  (0x7B5A0050, .envleg true 5 0xa), (0x3B3C1865, .enveval false 0x3c 0x18 5), (0x7B0A2C70, .envld true 0 0xa 0x2c)]
theorem test_nativeWords7 : nativeWords7.all (fun p => decide (decode p.1 = some p.2)) = true := by decide

/-- Native words. -/
def nativeWords8 : List (Word × Instr) := [
  (0x3B0A2C80, .envst false 0 0xa 0x2c), (0x7B5A0090, .envsimp true 5 0xa), (0x3C160807, .smxacc false 0x16 8 7),
  (0x7C3C1610, .smxfin true 0x3c 0x16)]
theorem test_nativeWords8 : nativeWords8.all (fun p => decide (decode p.1 = some p.2)) = true := by decide

/-- Words of the two dray threads. -/
def drayWords0 : List (Word × Instr) := [
  (0x00000000, .aend), (0x0682BCDE, .jmovi 0xa 0x2bcde), (0x0A96BCDE, .jaddi 0xa 5 0x2bcde),
  (0x0E964000, .jadd 0xa 5 9), (0x1283FFF1, .jloop 0xa 0x3fff1), (0x14180000, .drayOpen 6),
  (0x1818C002, .drayRead 6 3 2), (0x1F18C001, .drayWback 0xc 6 3 1), (0x20180000, .drayClose 6),
  (0x80000000, .xend), (0x86800001, .xpop 0xa 1), (0x8A966000, .xadd 0xa 5 9 1), (0x8E966000, .xmul 0xa 5 9 1),
  (0x92966000, .xfma 0xa 5 9 1), (0x96966000, .xmax 0xa 5 9 1), (0x9A966000, .xmin 0xa 5 9 1),
  (0x9F140000, .xset 0xc 5), (0xA3140000, .xacc 0xc 5), (0xA7000000, .xrel 0xc), (0xAA801ABC, .xcmovi 0xa 0x1abc),
  (0xAE801FF5, .xloop 0xa 0x1ff5)]
theorem test_drayWords0 : drayWords0.all (fun p => decide (decodeDray p.1 = some p.2)) = true := by decide

/-- Celud words with the word after them. -/
theorem test_celudWords0 : ([
  (0x0100123000FFF005, 0, .celudDecl 0x123 5), (0x0200123FFF000000, 0, .celudTid 0x123),
  (0x0300123000000FFF, 0, .celudNthr 0x123),
  (0x0401123FFFFFF000, 0xfedcba9876543210, .celudMov (some 0xFEDCBA9876543210) 0x123 4095),
  (0x1000123456789000, 0, .celudAdd none 0x123 0x456 0x789),
  (0x1100123456789000, 0, .celudSub none 0x123 0x456 0x789),
  (0x1200123456789000, 0, .celudMul none 0x123 0x456 0x789),
  (0x1300123456789000, 0, .celudMulh none 0x123 0x456 0x789),
  (0x1401123456FFF000, 7, .celudMin (some 7) 0x123 0x456 4095),
  (0x1500123456789000, 0, .celudMax none 0x123 0x456 0x789),
  (0x1600123456789000, 0, .celudAnd none 0x123 0x456 0x789),
  (0x1700123456789000, 0, .celudOr none 0x123 0x456 0x789),
  (0x1800123456789000, 0, .celudXor none 0x123 0x456 0x789),
  (0x1901123456FFF000, 7, .celudShl (some 7) 0x123 0x456 4095),
  (0x1A00123456789000, 0, .celudShr none 0x123 0x456 0x789),
  (0x1B00123456789000, 0, .celudSar none 0x123 0x456 0x789),
  (0x1C00123456789000, 0, .celudCeq none 0x123 0x456 0x789),
  (0x1D00123456789000, 0, .celudClt none 0x123 0x456 0x789),
  (0x1E01123456FFF000, 7, .celudCltu (some 7) 0x123 0x456 4095),
  (0x2000123456789000, 0, .celudAdd64 none 0x123 0x456 0x789)] : List (BitVec 64 × BitVec 64 × Instr)).all
    (fun p => decide (decodeCelud p.1 p.2.1 = some p.2.2 ∧ isCelud p.2.2 p.1 p.2.1 = true)) = true := by decide

/-- Celud words with the word after them. -/
theorem test_celudWords1 : ([
  (0x3000123456789000, 0, .celudFadd none 0x123 0x456 0x789),
  (0x3100123456789000, 0, .celudFsub none 0x123 0x456 0x789),
  (0x3200123456789000, 0, .celudFmul none 0x123 0x456 0x789),
  (0x3301123456FFF000, 7, .celudFfma (some 7) 0x123 0x456 4095),
  (0x3400123456789000, 0, .celudFmin none 0x123 0x456 0x789),
  (0x3500123456789000, 0, .celudFmax none 0x123 0x456 0x789),
  (0x3600123456789000, 0, .celudFceq none 0x123 0x456 0x789),
  (0x3700123456789000, 0, .celudFclt none 0x123 0x456 0x789),
  (0x3801123456FFF000, 7, .celudFcle (some 7) 0x123 0x456 4095),
  (0x4000123456789000, 0, .celudHadd2 none 0x123 0x456 0x789),
  (0x4100123456789000, 0, .celudHfma2 none 0x123 0x456 0x789),
  (0x4200123456789000, 0, .celudBadd2 none 0x123 0x456 0x789),
  (0x4300123456789000, 0, .celudBfma2 none 0x123 0x456 0x789),
  (0x4401123456FFF000, 7, .celudDot2 (some 7) 0x123 0x456 4095),
  (0x1F00123456789ABC, 0, .celudSel none 0x123 0x456 0x789 0xABC),
  (0x3900123456FFF004, 0, .celudSfn none 0x123 0x456 4),
  (0x3A001234560001A5, 0, .celudCvt none 0x123 0x456 0xA5 true),
  (0x50CF123456FFF05C, 0xfffffffffffffffc, .celudLd 6 1 3 (some 0xFFFFFFFFFFFFFFFC) 0x123 0x456 4 3 2),
  (0x5132FFF456789033, 0, .celudSt 1 2 1 none 0x456 0x789 3 2 1),
  (0x5244123456000074, 0, .celudLdc 2 2 none 0x123 0x456 4 2 3)] : List (BitVec 64 × BitVec 64 × Instr)).all
    (fun p => decide (decodeCelud p.1 p.2.1 = some p.2.2 ∧ isCelud p.2.2 p.1 p.2.1 = true)) = true := by decide

/-- Celud words with the word after them. -/
theorem test_celudWords2 : ([
  (0x53B81234567893C1, 0, .celudAtom 5 3 0 none 0x123 0x456 0x789 1 2 7), (0x5470000000000000, 0, .celudFence 3 2),
  (0x6000000000000000, 0, .celudBar), (0x6101000FFF000000, 9, .celudJmp 9),
  (0x6201000456000000, 9, .celudBrz 0x456 9), (0x6301FFF456000000, 9, .celudBrnz 0x456 9),
  (0x6F00000000000000, 0, .celudEnd)] : List (BitVec 64 × BitVec 64 × Instr)).all
    (fun p => decide (decodeCelud p.1 p.2.1 = some p.2.2 ∧ isCelud p.2.2 p.1 p.2.1 = true)) = true := by decide

/-! ### Encodings that the manual works out itself -/

/-- spec/14_instr_uniform.md, spec/15_instr_lane.md: the words of their tables of examples. -/
theorem test_worked_uniform_and_lane : ([
  (0x81C4C5C6, .uadd false 0xC4 0xC5 0xC6), (0x95C4C4FF, .uaddImm false 0xC4 0xC4 0xFF), (0xBE001234, .immx 0x001234),
  (0x9AC05678, .umovi false 0xC0 0x5678), (0x98C7C7A8, .usarImm false 0xC7 0xC7 40), (0x9DC40008, .srrd false 0xC4 8),
  (0xA0080180, .exld false 3), (0xA1040232, .barsync false 0 1 3 2), (0x9F13FC00, .ret false 0xFF),
  (0x9F1B0C2A, .trap false 0xC3 0x2A), (0x26050407, .iaddImm false 5 4 7), (0x1C0802C3, .ffma false 8 2 0xC3),
  (0x16F90304, .p16add false 0xF9 3 4), (0x2A010143, .p8sar false 1 1 3), (0x2B030703, .rsqrt false 3 7),
  (0x2D090A18, .cvts false 9 10 0 3 0), (0x3200FFFE, .imovi false 0 0xFFFE), (0x3028B0C2, .lpush false 10 11 12 2),
  (0x2E0C0002, .vrd false 12 2), (0x2F0005FF, .vwr false 5 0xFF),
  (0x3401FFFC, .bvnz false 1 0xFFFC), (0x9F03FFFD, .bra false (-3)), (0x9F040005, .call false 5)] : List (Word × Instr)).all
    (fun p => decide (decode p.1 = some p.2)) = true := by decide

/-- spec/16_instr_memory.md: the words of its table of examples. -/
theorem test_worked_memory : ([
  (0x3504C222, .ldw false 4 0xC2 1 0), (0xA3CACCE5, .uldwAcq false 0xCA 0xCC 7 5), (0x38200CA0, .aadd false 8 3 5 0 0),
  (0xA5182E0D, .uacas false 6 2 0 1 5), (0x9F28001D, .fence false 3 5), (0x9F2C0000, .opfence false), (0x9F240002, .icinv false 2),
  (0xA6C88004, .copy false 0xC8 4 0 0 2), (0x9F371000, .waitall false 0xC4), (0x9F33100A, .waitany false 0xC4 10),
  (0xA7D0280A, .gsjob false 0xD0 0 1 2 0 5), (0xA8D410D0, .rcall false 0xD4 2 1 5), (0x9F3F5C1E, .rcwait false 0xD7 30),
  (0x9F435C1E, .rcprobe false 0xD7 30)] : List (Word × Instr)).all (fun p => decide (decode p.1 = some p.2)) = true := by decide

/-- spec/18_instr_plane_matrix.md, spec/27_envelope.md: the words of their tables of examples. -/
theorem test_worked_plane_and_envelope : ([
  (0x3A200601, .pshift false 1 0 0 3 0 1), (0x3A218302, .pshift false 1 0 3 1 1 2), (0x3AB01403, .pspread false 5 4 1 3),
  (0x3A481E00, .pfold false 2 2 0 3), (0x3A642000, .prefold false 3 1), (0x3A85A800, .padd false 4 1 3), (0x3A0050C4, .pdset false 0 0xC4),
  (0xA9C84004, .mma false 0xC8 64 0 1 0), (0xA9D00014, .mloop false 0xD0 1 0), (0xA9000020, .mwait false),
  (0xA9D8003C, .mdrain false 0xD8 1 1 0), (0xA9E00040, .mvstack false 0xE0), (0xA9E80050, .quant2 false 0xE8),
  (0xA9C2C661, .tidset false 0xC2 0xC6 1), (0xA9CAC672, .tidget false 0xCA 0xC6 2), (0x3C141803, .smxacc false 20 24 3),
  (0x3C1E1410, .smxfin false 30 20), (0x3B020000, .envclr false 2 0 0), (0x3B02C401, .envclr false 2 0xC4 1),
  (0x3B020810, .envins false 2 8), (0x3B130220, .envsum false 1 3 2), (0x3B130230, .envmax false 1 3 2),
  (0x3B350440, .envconv false 3 5 4), (0x3B560050, .envleg false 5 6), (0x3B0A0B66, .enveval false 10 11 6),
  (0x3B47C270, .envld false 2 7 0xC2), (0x3BA60C80, .envst false 5 6 12), (0x3B770090, .envsimp false 7 7)] :
    List (Word × Instr)).all (fun p => decide (decode p.1 = some p.2)) = true := by decide

/-- spec/25_near_memory.md, spec/26_near_bank_program.md: the words of its examples and of its program. -/
theorem test_worked_dray : ([
  (0x14040000, .drayOpen 1), (0x18048003, .drayRead 1 2 3), (0x1C08C000, .drayWback 0 2 3 0), (0x84000001, .xpop 0 1),
  (0x90802000, .xfma 2 0 0 1), (0xA4C00000, .xrel 3), (0x14000000, .drayOpen 0), (0x04400000, .jmovi 1 0), (0x04800020, .jmovi 2 32),
  (0x18004000, .drayRead 0 1 0), (0x08440001, .jaddi 1 1 1), (0x1103FFFB, .jloop 4 (-5)), (0x10C3FFF5, .jloop 3 (-11)),
  (0x00000000, .aend), (0xA8000400, .xcmovi 0 1024), (0x9C040000, .xset 0 1)] : List (Word × Instr)).all
    (fun p => decide (decodeDray p.1 = some p.2)) = true := by decide

/-! ### Words and instructions that are refused -/

/-- Reserved codes of R174: each word differs from a row of the tables in one field that its row fixes or bounds. -/
theorem test_reserved_words_are_refused : ([
  0x80000000, 0x00000000, 0x9F240007, 0x9F280005, 0xA1060230, 0xA6C8E004, 0xA6C98004, 0xA7D0400A, 0xA8D510D0, 0xA9C94004,
  0x3B4CC230, 0xA3CACCE7, 0x3A0051C5, 0x2B030706] : List Word).all
    (fun w => decide (decode w = none)) = true := by decide

/-- One ill-formed instruction for each check of WellFormed. -/
theorem test_illFormed : ([
  .icinv false 7, .fence false 0 5, .fence false 1 7, .rcwait false 0xC4 56, .rcprobe false 0xC4 63, .bararv false 0xC4 1 3 2,
  .barsync false 0xC4 0 3 2, .uldb false 60 1 0 1, .ustq false 60 1 0 1, .uldwAcq false 60 0 0 7, .ustdRel false 60 0 0 7,
  .uldcw false 60 0 0 7, .uaadd false 6 2 0 0 5, .uaxchg false 6 2 0 1 7, .uacas false 7 2 0 1 5, .copy false 0xC9 0 0 0 0,
  .copy false 0x08 0 0 0 0, .copy false 0xC8 5 0 0 0, .copy false 0xC8 0 5 0 0, .copy false 0xC8 0 0 7 0, .gsjob false 0xC9 0 0 0 0 0,
  .gsjob false 0xC8 0 2 0 0 0, .gsjob false 0xC8 0 0 0 4 0, .rcall false 0xC1 0 0 5, .rcall false 0xC0 17 0 5, .rcall false 0xC0 0 9 5,
  .rcall false 0xC0 0 0 7, .rcall false 0xEE 16 0 5, .mma false 0xC4 0 0 0 0, .mloop false 8 0 0, .mdrain false 0xC4 0 0 0,
  .mvstack false 0xC4, .quant2 false 0xC4, .pdset false 0 0xC5, .pdset false 0 0xF8, .envclr false 0 1 0, .envld false 4 0 0,
  .envst false 4 0 0] : List Instr).all (fun i => !i.wellFormed) = true := by decide

/-- The same for the checks on Celud instructions (R381). -/
theorem test_celud_illFormed : ([
  .celudDecl 4095 0, .celudDecl 0 6, .celudTid 4095, .celudNthr 4095, .celudMov none 0 4095, .celudMov (some 1) 0 1,
  .celudAdd none 4095 0 0, .celudAdd none 0 4095 0, .celudAdd none 0 0 4095, .celudAdd (some 1) 0 0 0, .celudSel none 0 0 0 4095,
  .celudSfn none 0 0 6, .celudLd 0 1 0 none 0 0 0 2 0, .celudLd 7 1 0 none 0 0 0 2 0, .celudLd 1 0 0 none 0 0 0 2 0,
  .celudLd 0 0 0 none 0 0 5 2 0, .celudLd 1 2 0 none 0 0 0 2 0, .celudSt 1 1 0 none 0 0 0 2 0, .celudSt 0 0 0 none 0 4095 0 2 0,
  .celudLdc 0 0 none 0 0 4 2 0, .celudLdc 1 0 none 0 0 4 1 0, .celudAtom 1 0 0 none 0 0 0 4 0 0, .celudAtom 0 0 0 none 0 0 4095 4 0 0,
  .celudFence 1 0, .celudFence 0 1, .celudBrz 4095 0, .celudBrnz 4095 0] : List Instr).all (fun i => !i.wellFormed) = true := by
  decide

/-! ### One step each, with results that the manual works out or that follow from its rules by hand -/

/-- Coach 0 of team 0 after an instruction. -/
def coachAfter (s : State) (i : Instr) : Coach :=
  match exec i s with
  | .next t => ((t.coach 0 0).map Prod.snd).getD {}
  | _ => {}

/-- The issuer with V registers `v` and S registers `r`, and lanes `e` active. -/
def sOf (v r : Cells Word) (e : Word) : State := stateOf team0 { coach0 with v := v, s := r } { sub0 1 with exec := e }

/-- spec/15_instr_lane.md: 0x7FFF_0001 and 0x0001_0001 give 0x7FFF_0002 under P16ADD. -/
theorem test_p16add_saturates :
    Cells.get 0 (coachAfter (sOf [(96, 0x7FFF0001), (128, 0x00010001)] [] 1) (.p16add false 0xF9 3 4)).t 32 = 0x7FFF0002 := by decide

/-- spec/15_instr_lane.md: FP32 300.0 becomes 0x79 in E4M3; 500.0 becomes 0x7F under CVT and 0x7E under CVTS. -/
theorem test_cvt_overflows :
    cvtWord 0 3 0 false 0x43960000 = 0x79 ∧ cvtWord 0 3 0 false 0x43FA0000 = 0x7F ∧ cvtWord 0 3 0 true 0x43FA0000 = 0x7E := by decide

/-- spec/15_instr_lane.md: the LPUSH of lanes 0 to 3 with indices 2, 2, 40 and 0, and values 10, 11, 12 and 13. -/
def pushed : Coach := coachAfter (sOf [(352, 10), (353, 11), (354, 12), (355, 13), (384, 2), (385, 2), (386, 40), (387, 0)] [] 0xF)
  (.lpush false 10 11 12 2)
theorem test_lpush_values : (List.range 4).map (fun l => Cells.get 0 pushed.v (320 + l)) = [13, 0, 10, 0] := by decide
theorem test_lpush_losers : Cells.get 0 pushed.m 2 = 6 := by decide

/-- R192, R193, R198: a sum wraps; a quotient by zero is −1; a sum of pairs carries into the upper register. -/
theorem test_uadd_wraps : Cells.get 0 (coachAfter (sOf [] [(0, 0xFFFFFFFF), (1, 2)] 1) (.uadd false 192 192 193)).s 0 = 1 := by decide
theorem test_udiv_by_zero : Cells.get 0 (coachAfter (sOf [] [(0, 7)] 1) (.udiv false 194 192 193)).s 2 = 0xFFFFFFFF := by decide
theorem test_umulh_sign : Cells.get 0 (coachAfter (sOf [] [(0, 0xFFFFFFFF), (1, 2)] 1) (.umulh false 192 192 193)).s 0 = 0xFFFFFFFF := by
  decide
theorem test_uaddp_carries :
    Cells.get 0 (coachAfter (sOf [] [(2, 0xFFFFFFFF), (4, 1)] 1) (.uaddp false 192 194 196)).s 1 = 1 := by decide

/-- R224, R232: an arithmetic shift keeps the sign; 1.5 + 2.25 is 3.75. -/
theorem test_isar_sign : Cells.get 0 (coachAfter (sOf [(32, 0x80000000)] [(0, 31)] 1) (.isar false 0 1 192)).v 0 = 0xFFFFFFFF := by decide
theorem test_fadd : Cells.get 0 (coachAfter (sOf [(32, 0x3FC00000), (64, 0x40100000)] [] 1) (.fadd false 0 1 2)).v 0 = 0x40700000 := by
  decide

/-- R246: the word at 0x1004 is read with its first byte lowest. -/
theorem test_uldw_bytes :
    Cells.get 0 (coachAfter (sOf [] [(0, 0x1004)] 1) (.uldw false 200 192 0 0)).s 8 = 0xBF000000 := by decide +kernel
theorem test_uldb_byte : Cells.get 0 (coachAfter (sOf [] [(0, 0x1007)] 1) (.uldb false 200 192 0 0)).s 8 = 0xBF := by decide +kernel

/-- R334: JADDI adds a signed immediate. -/
theorem test_jaddi_signed :
    (match exec (.jaddi 1 1 (-1)) (sY true { dray0 with j := [(1, 5)] }) with
      | .next t => (Cells.find t.drays 3).map fun d => d.J 1
      | _ => none) = some 4 := by decide

/-! ### The assembler and the loader -/

def srcOf (s : String) : List Byte := s.toList.map fun c => BitVec.ofNat 8 c.toNat

/-- The code words of the object that zyas writes for a source. -/
def codeOf (src : String) : Option (List Nat) :=
  match zyas "k.zy" (srcOf src) with
  | .ok o => some ((List.range (leNat ((o.drop 44).take 4) / 4)).map fun i => leNat ((o.drop (128 + 4 * i)).take 4))
  | .error _ => none

/-- spec/13_encoding.md, the kernel fill7: the load of its first run takes a generated IMMX. -/
theorem test_zyas_words : codeOf ".kernel k\n.allot 16\n.code\nLDW V4, [CORE: 0x40]\nRUNEND post=W0\n.endkernel"
    = some [0xBE000040, 0x350400AA, 0xBF010000] := by decide +kernel

/-- spec/12_assembler_notes.md: a hash sign outside a string or comment is reported with its line, and no object is written. -/
theorem test_zyas_hash : (match zyas "k.zy" (srcOf "; #\n# x") with
    | .error l => l.contains ("k.zy", { line := 2, why := .hashSign })
    | .ok _ => false) = true := by decide +kernel

/-- The value of an expression of constants without error. -/
def evalOf (e : String) : Zyas.Chk Zyas.Val := do
  let ts ← Zyas.lexLine (e.toList.map Char.toNat)
  let x ← Zyas.parseExpr ts
  x.eval (fun _ => Zyas.bad .undefinedSymbol) (Zyas.bad .noSection)
def constOf (e : String) : Option Int :=
  match evalOf e [] with
  | (v, []) => some v.n
  | _ => none

/-- R161: floor division, a remainder from 0 up, and operators of equal precedence from the left. -/
theorem test_zyas_floor : constOf "-7 / 2" = some (-4) := by decide +kernel
theorem test_zyas_levels : constOf "1 - 2 - 3 << 1 | -7 % 4" = some (-7) := by decide +kernel

/-- R377: the loader adds the base to the combined immediate of an IMMX: 0x4 becomes 0x2_0004. -/
theorem test_relocate_immx :
    (addImmediate (leBytes 4 0xBE000000 ++ leBytes 4 0x95C0C004) 0 0x20000).map leNat
      = some (0x95C0C004 * 2 ^ 32 + 0xBE000200) := by decide +kernel

/-- R387: RSQRT V3, V7, then IADD V5, V3, 7 in a run after a trailer, then END: the translation may stand only where the trailer
posts RSQRT to a slot and waits for it. -/
def flowOf (trailer : Word) : Option Bool :=
  (natRuns 0 0 none [] [0x2B030703, trailer, 0x26050307, 0xBF000000, 0x9F140000, 0xBF000000]).map (flowsOk [])
theorem test_dzitum_waits :
    flowOf 0xBF010100 = some true ∧ flowOf 0xBF010000 = some false ∧ flowOf 0xBF010200 = some false := by decide +kernel

/-- IEEE 1619, the first two blocks of XTS-AES-256 test vector 10: the cipher that R90 names. -/
def xtsKey : BitVec 512 :=
  0x9245947409820551379993169741880295278333646284239397585326594131 * 2 ^ 256 +
    0x2776966649575999699370245777496226357174286053234590452818281827
theorem test_xts_encrypt : xtsEncrypt xtsKey 0xFF 0x1F1E1D1C1B1A191817161514131211100F0E0D0C0B0A09080706050403020100 =
    0x3BE6A314D412AEA45723485E3F8000EA9BCF70E3996C83E48603772F103A3B1C := by decide +kernel
theorem test_xts_decrypt : xtsDecrypt xtsKey 0xFF 0x3BE6A314D412AEA45723485E3F8000EA9BCF70E3996C83E48603772F103A3B1C =
    0x1F1E1D1C1B1A191817161514131211100F0E0D0C0B0A09080706050403020100 := by decide +kernel

/-- R100, R109: a release at core scope reaches an acquire at cluster scope by another team of the core, and none at team scope. -/
theorem test_reaches :
    let r : Release := { agent := coachSpot 1 0 0, scope := 2, known := [(1, 3)] }
    r.reaches (coachSpot 2 0 0) 3 = true ∧ r.reaches (coachSpot 2 0 0) 1 = false ∧ r.reaches (coachSpot 2 0 1) 3 = false := by
  decide

end Sys2Proof.Tests
end

section
/-!
SUPPORT. What leaves storage alone, and what keeps its canonical form (log entry 5): one lemma for each operation of the
machine that answers a state, in the order of the model. `State.<op>_mem` says that an operation leaves storage as it was,
`State.wf_<op>` that one which may write keeps the form.
-/

namespace Sys2Proof.Machine

/-! ### Changes made one after another -/

/-- Changes that leave storage alone, made one after another, leave it alone. -/
theorem foldl_mem {β : Type} {f : State → β → State} (h : ∀ x b, (f x b).mem = x.mem) (l : List β) (s : State) :
    (l.foldl f s).mem = s.mem :=
  foldl_keeps (fun x => x.mem = s.mem) f (fun x b hx => (h x b).trans hx) l s rfl

/-- Changes that keep the form of storage, made one after another, keep it. -/
theorem foldl_wf {β : Type} {f : State → β → State} (h : ∀ x b, Memory.wf x → Memory.wf (f x b)) (l : List β)
    {s : State} (hs : Memory.wf s) : Memory.wf (l.foldl f s) :=
  foldl_keeps Memory.wf f h l s hs

theorem upto_wf {f : State → Nat → State} (h : ∀ x n, Memory.wf x → Memory.wf (f x n)) (n : Nat) {s : State}
    (hs : Memory.wf s) : Memory.wf (upto f s n) :=
  foldl_wf h _ hs

theorem wf_of_mem {s x : State} (e : x.mem = s.mem) (hs : Memory.wf s) : Memory.wf x :=
  (congrArg (fun m : Storage => m.wf = true) e).mpr hs

theorem ite_wf {p : Prop} [Decidable p] {a b : State} (ha : Memory.wf a) (hb : Memory.wf b) :
    Memory.wf (if p then a else b) := by
  split
  · exact ha
  · exact hb

theorem ite_mem {p : Prop} [Decidable p] {m : Storage} {a b : State} (ha : a.mem = m) (hb : b.mem = m) :
    (if p then a else b).mem = m := by
  split
  · exact ha
  · exact hb

/-! ### Memory and translation -/

@[simp] theorem State.cacheLeaf_mem (s : State) (cluster : Option Nat) (oid va leaf lvl : Nat) :
    (s.cacheLeaf cluster oid va leaf lvl).mem = s.mem := by
  unfold State.cacheLeaf
  split
  · rfl
  · split <;> rfl

@[simp] theorem State.noteAccess_mem (s : State) (ag : Agent) (space ea : Nat) (l : Loc) (leaf : Nat) :
    (s.noteAccess ag space ea l leaf).mem = s.mem := by
  unfold State.noteAccess
  dsimp only
  split
  · split
    · split <;> simp
    · simp
  · rfl

@[simp] theorem State.noteAll_mem (s : State) (ag : Agent) (space : Nat) (cs : List Checked) :
    (s.noteAll ag space cs).mem = s.mem :=
  foldl_mem (fun x (c : Checked) => x.noteAccess_mem ag space c.ea.toNat c.loc c.leaf) cs s

@[simp] theorem State.waitFor_mem (s : State) (m : Move) (chans : List Nat) (reads : Bool) :
    (s.waitFor m chans reads).mem = s.mem := rfl

@[simp] theorem State.markBoth_mem (s : State) (r w : List Piece) : (s.markBoth r w).mem = s.mem := by
  simp [State.markBoth]

@[simp] theorem State.kernelBoundary_mem (s : State) (core : Nat) : (s.kernelBoundary core).mem = s.mem := rfl

/-- An access that joins those that wait only takes the numbers of its writes. -/
@[simp] theorem State.wf_arrive {s : State} (w : Waiting) (h : Memory.wf s) : Memory.wf (s.arrive w) := h

@[simp] theorem State.wf_writeData {s : State} (ag : Agent) (l : Loc) (bs : List Byte) (h : Memory.wf s) :
    Memory.wf (s.writeData ag l bs) :=
  State.wf_writeLocs (s := s.spoil ag.oid [l.piece bs.length]) l h

/-! ### Issuers and the coaches they change -/

@[simp] theorem State.modCtx_mem (s : State) (ctx : Ctx) (f : Coach → Coach) : (s.modCtx ctx f).mem = s.mem := by
  unfold State.modCtx
  split
  · rfl
  · split <;> rfl
  · rfl

@[simp] theorem State.put_mem (s : State) (h : Here) : (s.put h).mem = s.mem := by
  unfold State.put
  split
  · rfl
  · split <;> rfl

@[simp] theorem State.endCall_mem (s : State) (ex code : Nat) (words : List Word) : (s.endCall ex code words).mem = s.mem := by
  unfold State.endCall
  split
  · rfl
  · split <;> rfl

@[simp] theorem State.splitFaulting_mem (s : State) (h : Here) (t : Trap) : (s.splitFaulting h t).1.mem = s.mem := rfl

/-! ### Stopping at a trap -/

/-- Whatever is written of a frame, the form of storage stays. -/
theorem State.wf_writeFrame {s x : State} {t : Team} {c : Coach} {f : Stopped} {token : Word} {pool : Nat} (h : Memory.wf s)
    (hx : s.writeFrame t c f token pool = .done x) : Memory.wf x := by
  unfold State.writeFrame at hx
  dsimp only at hx
  split at hx
  · cases hx
  · cases hx
  · split at hx
    · cases hx
    · cases hx
      exact State.wf_writeLocs _ (State.wf_writeLocs _ h)

@[simp] theorem State.wf_enterHandler {s : State} (team ci : Nat) (f : Stopped) (h : Memory.wf s) :
    Memory.wf (s.enterHandler team ci f) := by
  unfold State.enterHandler
  dsimp only
  split
  · exact h
  · split
    · exact h
    · split
      case h_1 => exact h
      case h_2 => exact h
      case h_3 x hx => exact (State.wf_writeFrame h hx : Memory.wf x)

@[simp] theorem State.wf_tryEntry {s : State} (team ci : Nat) (h : Memory.wf s) : Memory.wf (s.tryEntry team ci) := by
  unfold State.tryEntry
  split
  · exact h
  · split
    · exact h
    · split
      · exact State.wf_enterHandler team ci _ h
      · exact h

@[simp] theorem State.wf_stopCoach {s : State} (h : Here) (f : Stopped) (hs : Memory.wf s) : Memory.wf (s.stopCoach h f) := by
  unfold State.stopCoach
  split
  · simpa [Memory.wf] using hs
  · split
    · exact hs
    · exact State.wf_tryEntry _ _ hs

@[simp] theorem State.wf_trapNow {s : State} (h : Here) (t : Trap) (hs : Memory.wf s) : Memory.wf (s.trapNow h t) :=
  State.wf_stopCoach _ _ (by simpa [Memory.wf] using hs)

@[simp] theorem State.wf_parkFaulting {s : State} (h : Here) (t : Trap) (hs : Memory.wf s) : Memory.wf (s.parkFaulting h t) :=
  State.wf_tryEntry _ _ (by simpa [Memory.wf] using hs)

@[simp] theorem State.wf_stopWith {s : State} (h : Here) (f : Stopped) (hs : Memory.wf s) : Memory.wf (s.stopWith h f) := by
  unfold State.stopWith
  split
  · exact State.wf_tryEntry _ _ (by simpa [Memory.wf] using hs)
  · exact State.wf_stopCoach _ _ (by simpa [Memory.wf] using hs)

@[simp] theorem State.wf_stopWhole {s : State} (h : Here) (f : Stopped) (hs : Memory.wf s) : Memory.wf (s.stopWhole h f) :=
  State.wf_stopCoach _ _ (by simpa [Memory.wf] using hs)

@[simp] theorem State.wf_stallCoach {s : State} (team ci : Nat) (hs : Memory.wf s) : Memory.wf (s.stallCoach team ci) := by
  unfold State.stallCoach
  split
  · exact hs
  · split
    · exact hs
    · split
      · exact hs
      · exact State.wf_stopWhole _ _ hs

@[simp] theorem State.wf_checkStall {s : State} (team : Nat) (hs : Memory.wf s) : Memory.wf (s.checkStall team) := by
  unfold State.checkStall
  split
  · exact hs
  · split
    · exact upto_wf (fun x ci hx => State.wf_stallCoach team ci hx) _ hs
    · exact hs

/-! ### Accesses that wait for a channel -/

@[simp] theorem State.wf_arriveLoads {s : State} (h : Here) (n : Nat) (o : AccessOrder) (keys : Checked → List Nat)
    (cs : List Checked) (hs : Memory.wf s) : Memory.wf (s.arriveLoads h n o keys cs) :=
  foldl_wf (fun x c hx => by split; exacts [State.wf_arrive _ hx, hx]) cs hs

@[simp] theorem State.wf_storeData {s : State} (h : Here) (l : Loc) (leaf : Nat) (rels : List Release) (bs : List Byte)
    (hs : Memory.wf s) : Memory.wf (s.storeData h l leaf rels bs) := by
  unfold State.storeData
  split
  · exact State.wf_arrive _ hs
  · simpa [Memory.wf] using State.wf_writeData _ _ _ hs

@[simp] theorem State.wf_atomicData {s : State} (h : Here) (l : Loc) (leaf : Nat) (keys : List Nat) (o : AccessOrder)
    (rels : List Release) (op : Nat) (old v0 v1 : Word) (hs : Memory.wf s) :
    Memory.wf (s.atomicData h l leaf keys o rels op old v0 v1) := by
  unfold State.atomicData
  split
  · exact State.wf_arrive _ hs
  · simpa [Memory.wf] using State.wf_writeData _ _ _ hs

theorem State.wf_waitWrite {s : State} (ag : Agent) (w : Waiting) (rels : List Release) (bs : List Byte) (hs : Memory.wf s) :
    Memory.wf (s.waitWrite ag w rels bs) :=
  Storage.wf_restamp _ _ _ (by simpa [Memory.wf] using State.wf_writeData ag (.sto w.a) bs hs)

theorem State.wf_performWait {s : State} (w : Waiting) (hs : Memory.wf s) : Memory.wf (s.performWait w) := by
  unfold State.performWait
  split
  · exact hs
  · exact State.wf_waitWrite _ _ _ _ hs
  · simpa [Memory.wf] using hs
  · simpa [Memory.wf] using State.wf_waitWrite _ _ _ _ hs

theorem State.wf_serveOne {s : State} (s0 : State) (w : Waiting) (hs : Memory.wf s) :
    Memory.wf (s0.serveOne s w) := by
  unfold State.serveOne
  split
  · split
    · split <;> exact hs
    · exact hs
  · exact State.wf_performWait w hs

theorem State.wf_serve (s0 : State) : ∀ (todo done : List Waiting) {s : State}, Memory.wf s →
    Memory.wf (State.serve s0 s done todo)
  | [], _, _, hs => hs
  | w :: rest, done, s, hs => by
    unfold State.serve
    refine State.wf_serve s0 rest _ ?_
    split
    · exact hs
    · exact State.wf_serveOne s0 w hs

@[simp] theorem State.wf_serveFree {s : State} (hs : Memory.wf s) : Memory.wf s.serveFree := by
  have hr : Memory.wf (State.serve s { s with arrivals := [] } [] s.arrivals) := State.wf_serve s _ _ hs
  unfold State.serveFree
  dsimp only
  split <;> exact hr

/-! ### Answers -/

/-- The state that an instruction or an event answers, if it answers one, has the form of storage. -/
def NextWf : Host.Outcome State Fault Refusal → Prop
  | .next s => Memory.wf s
  | _ => True

/-- What a computation answers, if it ends without error, has a property. -/
def OkHas {ε α : Type} (P : α → Prop) : Except ε α → Prop
  | .ok a => P a
  | .error _ => True

theorem OkHas.bind {ε α β : Type} {P : β → Prop} {x : Except ε α} {f : α → Except ε β} (h : ∀ a, OkHas P (f a)) :
    OkHas P (x >>= f) := by
  cases x with
  | error e => exact trivial
  | ok a => exact h a

theorem OkHas.of_eq {ε α : Type} {P : α → Prop} {x : Except ε α} {a : α} (h : OkHas P x) (e : x = .ok a) : P a := by
  subst e
  exact h

theorem OkHas.ite {ε α : Type} {p : Prop} [Decidable p] {P : α → Prop} {x y : Except ε α} (hx : OkHas P x)
    (hy : OkHas P y) : OkHas P (if p then x else y) := by
  split
  · exact hx
  · exact hy

/-- What a computation answers, if it answers anything, has a property. -/
def SomeHas {α : Type} (P : α → Prop) : Option α → Prop
  | some a => P a
  | none => True

theorem SomeHas.of_eq {α : Type} {P : α → Prop} {x : Option α} {a : α} (h : SomeHas P x) (e : x = some a) : P a := by
  subst e
  exact h

/-- The state of a body's answer has the form. -/
abbrev BodyWf (r : Res) : Prop := OkHas (fun p => Memory.wf p.1) r

/-- An answer that has the form retires in it. -/
theorem BodyWf.retires {r : Res} {x : State} {h : Here} (hr : BodyWf r) (e : r = .ok (x, h)) (sw : Bool) :
    Memory.wf (x.put (h.retire sw)) := by
  have hx : Memory.wf x := hr.of_eq e
  simpa [Memory.wf] using hx

@[simp] theorem State.wf_markWaiting {s : State} (chans : List Nat) (reads : Bool) (hs : Memory.wf s) :
    Memory.wf (s.markWaiting chans reads) := by
  simpa [Memory.wf] using hs

/-- A native instruction keeps the form if its body does. -/
theorem native_wf {sw ro : Bool} {s : State} {body : State → Here → Res} (hs : Memory.wf s)
    (hb : ∀ x h, Memory.wf x → BodyWf (body x h)) : NextWf (native sw ro s body) := by
  unfold native
  split
  case h_1 => trivial
  case h_2 h _ =>
    have hr := hb s h hs
    split
    · exact State.wf_trapNow _ _ hs
    · split
      · exact State.wf_trapNow _ _ hs
      · split
        case h_1 e => exact hr.retires e sw
        case h_2 => exact State.wf_markWaiting _ _ hs
        case h_3 t _ =>
          dsimp only
          have hq : Memory.wf (s.splitFaulting h t).1 := hs
          have hr2 := hb _ (s.splitFaulting h t).2 hq
          split
          · split
            · exact State.wf_parkFaulting _ _ hs
            · split
              case h_1 e => exact hr2.retires e sw
              case h_2 => exact State.wf_markWaiting _ _ hs
              case h_3 => exact State.wf_parkFaulting _ _ hq
          · exact State.wf_trapNow _ _ hs

/-- One that changes its issuer only keeps it. -/
theorem nativeHere_wf {sw ro : Bool} {s : State} {body : Here → Except Stop Here} (hs : Memory.wf s) :
    NextWf (nativeHere sw ro s body) :=
  native_wf hs fun x h hx => by
    cases body h
    · trivial
    · exact hx

/-- So does a run-closing one, whose effect stays in the run. -/
theorem closing_wf {sw ro : Bool} {s : State} {f : State → Here → Except Stop Closer} (hs : Memory.wf s) :
    NextWf (closing sw ro s f) :=
  native_wf hs fun x h hx => by
    have hk : BodyWf (do
        let k ← f x h
        let r := h.run
        let back := if r.pre.isSome then 1 else 0
        pure (x, h.setRun { r with closer := k, closerPc := h.g.pc - 4 * back, closerWord := r.word, closerPre := r.pre,
                                   closerWords := r.words - back })) := .bind fun _ => hx
    split
    · trivial
    · split
      · exact hk
      · trivial
    · exact hk

theorem barrierOp_wf {sw : Bool} {s : State} {body : State → Here → Res} (hs : Memory.wf s)
    (hb : ∀ x h, Memory.wf x → BodyWf (body x h)) : NextWf (barrierOp sw s body) := by
  unfold barrierOp
  split
  · exact State.wf_tryEntry _ _ (by simpa [Memory.wf] using hs)
  · exact native_wf hs hb

theorem whenRunning_wf {s : State} {k : Host.Outcome State Fault Refusal} (hs : Memory.wf s) (hk : NextWf k) :
    NextWf (whenRunning s k) := by
  unfold whenRunning
  split
  · exact hk
  · exact hs

theorem whenPowered_wf {s : State} {k : Host.Outcome State Fault Refusal} (hs : Memory.wf s) (hk : NextWf k) :
    NextWf (whenPowered s k) := by
  unfold whenPowered
  split
  · exact hk
  · exact hs

theorem command_wf {k : Word} {s : State} {f : State → Host.Outcome State Fault Refusal} (hs : Memory.wf s)
    (hf : NextWf (f s)) : NextWf (command k s f) := by
  unfold command
  split
  · exact hf
  · exact hs

/-- A dray word changes its dray only. -/
theorem drayOp_wf {addr : Bool} {s : State} {f : Dray → DrayRes} (hs : Memory.wf s) : NextWf (drayOp addr s f) := by
  unfold drayOp
  split
  · trivial
  · split
    · trivial
    · split
      · exact hs
      · split <;> exact hs

theorem hostQueue_wf {q : Nat} {s : State} {f : Queue → Queue} (hs : Memory.wf s) : NextWf (hostQueue q s f) := by
  unfold hostQueue
  split
  · exact (hs : Memory.wf (s.setQueue _ _))
  · exact hs

/-! ### Celud threads -/

@[simp] theorem State.putThread_mem (s : State) (h : CelHere) (th : Thread) : (s.putThread h th).mem = s.mem := rfl

@[simp] theorem State.setCelud_mem (s : State) (team : Nat) (p : Celud) : (s.setCelud team p).mem = s.mem := rfl

@[simp] theorem State.passBars_mem (s : State) (team : Nat) (p : Celud) : (s.passBars team p).mem = s.mem := rfl

@[simp] theorem State.settleBar_mem (s : State) (team : Nat) (p : Celud) (n : Nat) : (s.settleBar team p n).mem = s.mem := by
  unfold State.settleBar
  split
  · rfl
  · split
    · dsimp only
      split <;> rfl
    · split <;> rfl

theorem State.wf_placeSpill {s : State} (h : CelHere) (p : Point) (exec : Word) (hs : Memory.wf s) :
    Memory.wf (s.placeSpill h p exec) := by
  refine foldl_wf (fun x q hx => ?_) _ hs
  split
  · refine foldl_wf (fun x l hx => ?_) _ hx
    split
    · split
      · exact State.wf_writeLocs _ hx
      · exact hx
    · exact hx
  · exact hx

theorem State.wf_celudTrap {s : State} (h : CelHere) (t : Trap) (hs : Memory.wf s) : Memory.wf (s.celudTrap h t) :=
  State.wf_tryEntry _ _ (State.wf_placeSpill _ _ _ hs)

theorem celudOp_wf {s : State} {f : CelHere → Except Stop State} {reads : Bool} (hs : Memory.wf s)
    (hf : ∀ h, OkHas Memory.wf (f h)) : NextWf (celudOp s f reads) := by
  unfold celudOp
  split
  · trivial
  case h_2 h _ =>
    split
    · exact hs
    · have hr := hf h
      split
      case h_1 e => exact hr.of_eq e
      case h_2 => exact State.wf_markWaiting _ _ hs
      case h_3 => exact State.wf_celudTrap _ _ hs

theorem celudReg1_wf {s : State} {lit : Bool} {d : BitVec 12} {f : CelHere → DWord} (hs : Memory.wf s) :
    NextWf (celudReg1 s lit d f) :=
  celudOp_wf hs fun _ => hs

/-! ### Runs -/

theorem State.wf_closerTrap {s : State} (h : Here) (t : Trap) (hs : Memory.wf s) : Memory.wf (s.closerTrap h t) :=
  State.wf_stopWith _ _ hs

theorem State.wf_badTarget {s : State} (h : Here) (target : Int) (hs : Memory.wf s) :
    Memory.wf (s.badTarget h target) :=
  State.wf_stopWith _ _ hs

theorem State.wf_put {s : State} (h : Here) (hs : Memory.wf s) : Memory.wf (s.put h) := by
  simpa [Memory.wf] using hs

theorem State.wf_endRun {s : State} (h : Here) (hs : Memory.wf s) : Memory.wf (s.endRun h) := by
  unfold State.endRun
  split
  · exact State.wf_put h hs
  · exact State.wf_checkStall _ (State.wf_put h hs : Memory.wf ((s.put h).freeHalf _ _ _ _))

theorem State.wf_jumpTo {s : State} (h : Here) (target : Int) (link : Bool) (wait : BitVec 8) (hs : Memory.wf s) :
    Memory.wf (s.jumpTo h target link wait) := by
  unfold State.jumpTo
  split
  · exact State.wf_endRun _ hs
  · exact State.wf_badTarget _ _ hs

theorem State.wf_rfe {s : State} (h : Here) (hs : Memory.wf s) : Memory.wf (s.rfe h) := by
  unfold State.rfe
  split
  · exact hs
  · dsimp only
    split
    · exact State.wf_checkStall _ (State.wf_tryEntry _ _ hs)
    · split
      · exact State.wf_checkStall _ (State.wf_tryEntry _ _ hs)
      · exact hs
    · exact hs

theorem State.wf_trailer {s : State} (h : Here) (wait : BitVec 8) (hs : Memory.wf s) :
    Memory.wf (s.trailer h wait) := by
  unfold State.trailer
  dsimp only
  split
  case h_1 => exact State.wf_endRun _ hs
  case h_2 => exact State.wf_jumpTo _ _ _ _ hs
  case h_3 =>
    split
    · exact State.wf_endRun _ hs
    · exact State.wf_badTarget _ _ hs
  case h_4 => exact State.wf_endRun _ hs
  case h_5 => exact State.wf_stopWith _ _ hs
  case h_6 => exact State.wf_rfe _ hs
  case h_7 => exact State.wf_endRun _ hs
  case h_8 =>
    split
    · exact State.wf_endRun _ hs
    · split
      · exact State.wf_closerTrap _ _ hs
      · refine State.wf_endRun _ ?_
        split <;> exact hs
  all_goals exact State.wf_endRun _ hs

/-! ### Replay -/

@[simp] theorem State.replay_mem (s : State) (known : Known) (m : WaitEntry → Bool) : (s.replay known m).mem = s.mem := rfl

@[simp] theorem State.shootdown_mem (s : State) (oid base size : Nat) : (s.shootdown oid base size).mem = s.mem := rfl

@[simp] theorem State.replayToken_mem (s : State) (known : Known) (oid : Nat) (token : Word) :
    (s.replayToken known oid token).mem = s.mem := rfl

@[simp] theorem State.replayPage_mem (s : State) (known : Known) (oid x : Nat) : (s.replayPage known oid x).mem = s.mem := rfl

/-! ### Calendars and requests -/

theorem State.placeAll_mem (now slots : Nat) : ∀ (l : List Need) (s : State), SomeHas (·.mem = s.mem) (s.placeAll now slots l)
  | [], _ => rfl
  | n :: rest, s => by
    unfold State.placeAll
    split
    case h_1 => trivial
    case h_2 l _ => exact State.placeAll_mem now slots rest { s with calendar := s.calendar ++ l }

theorem State.tryAdmit_mem (s : State) (oid cls transit : Nat) (pages : List (Nat × Nat)) (needs : List Need) :
    OkHas (·.mem = s.mem) (s.tryAdmit oid cls transit pages needs) := by
  unfold State.tryAdmit
  dsimp only
  split
  · trivial
  · split
    case h_1 e => exact (State.placeAll_mem _ _ _ s).of_eq e
    case h_2 => trivial

@[simp] theorem State.addRequest_mem (s : State) (r : Request) : (s.addRequest r).mem = s.mem := rfl

@[simp] theorem State.addCall_mem (s : State) (c : Call) : (s.addCall c).1.mem = s.mem := rfl

@[simp] theorem issueTagged_mem (s : State) (h : Here) (b : BitVec 8) (st : Nat) (r : Request) (transit : Nat)
    (needs : List Need) : (issueTagged s h b st r transit needs).1.mem = s.mem := by
  unfold issueTagged
  split
  case h_1 => rfl
  case h_2 x e => exact (State.tryAdmit_mem s r.oid r.cls transit r.pages needs).of_eq (a := x) e

@[simp] theorem State.probe_mem (s : State) (h : Here) (token : Word) : (s.probe h token).mem = s.mem := by
  unfold State.probe
  split <;> rfl

/-! ### Matrix jobs -/

theorem arriveRendezvous_mem (s : State) (h : Here) (fresh : Rendezvous) (arr : Arrival) (unseen : List Nat)
    (vf vr : Option (Nat × Nat)) : OkHas (fun p => p.1.mem = s.mem) (arriveRendezvous s h fresh arr unseen vf vr) := by
  unfold arriveRendezvous
  dsimp only
  split
  repeat' split
  all_goals trivial

@[simp] theorem startJob_mem (s : State) (h : Here) (work : JobWork) (pages : List (Nat × Nat))
    (late : Option (Nat × Nat × Nat × Nat)) : (startJob s h work pages late).1.mem = s.mem := rfl

theorem wf_runDrain {s : State} (oid : Nat) (acc : Cells (BitVec 56)) (out : List DWord) (tile : Nat) (tm sat : Bool)
    (rm : Nat) (dst mx : List Piece) (spoiled : Bool) (hs : Memory.wf s) :
    Memory.wf (runDrain s oid acc out tile tm sat rm dst mx spoiled) := by
  unfold runDrain
  dsimp only
  split
  · exact State.wf_writePieces _ (foldl_wf (fun x c hx => State.wf_writePieces _ hx) _ hs)
  · exact foldl_wf (fun x c hx => State.wf_writePieces _ hx) _ hs

theorem wf_runQuant2 {s : State} (oid : Nat) (i r c : List DWord) (src rowOut colOut rowScale colScale : List Piece)
    (spoiled : Bool) (hs : Memory.wf s) : Memory.wf (runQuant2 s oid i r c src rowOut colOut rowScale colScale spoiled) := by
  unfold runQuant2
  refine foldl_wf (fun x z hx => foldl_wf (fun x b hx => ?_) _ hx) _
    (foldl_wf (fun x y hx => foldl_wf (fun x b hx => ?_) _ hx) _ hs)
  · exact foldl_wf (fun x k hx => State.wf_writePieces _ hx) _ (State.wf_writePieces _ hx)
  · exact foldl_wf (fun x k hx => State.wf_writePieces _ hx) _ (State.wf_writePieces _ hx)

theorem State.wf_performJob {s : State} (j : Job) (hs : Memory.wf s) : Memory.wf (s.performJob j) := by
  unfold State.performJob
  split
  · exact hs
  · dsimp only
    split
    · exact hs
    · exact hs
    · exact wf_runDrain _ _ _ _ _ _ _ _ _ _ hs
    · exact wf_runQuant2 _ _ _ _ _ _ _ _ _ _ hs

theorem State.wf_spoilDone {s : State} (hs : Memory.wf s) : Memory.wf s.spoilDone :=
  foldl_wf (fun _ j hx => State.wf_performJob { j with spoiled := true } hx) _ hs

theorem State.wf_performSteps {s : State} (j : Job) (hs : Memory.wf s) : Memory.wf (s.performSteps j) := by
  unfold State.performSteps
  split
  · dsimp only
    split
    · exact hs
    · exact State.wf_performJob _ hs
  · exact hs

@[simp] theorem State.dropJobs_mem (s : State) : s.dropJobs.mem = s.mem := rfl

@[simp] theorem State.leaveJobs_mem (s : State) (team ci : Nat) (which : Nat → Bool) :
    (s.leaveJobs team ci which).mem = s.mem := rfl

/-! ### Parks that end -/

theorem State.endPark_mem (s : State) (h : Here) (p : Park) : SomeHas (fun q => q.1.mem = s.mem) (s.endPark h p) := by
  unfold State.endPark
  cases p
  case rcwait =>
    dsimp only
    split
    · rfl
    · split
      · show (ite _ _ _ : State).mem = s.mem
        split <;> rfl
      · split
        · rfl
        · trivial
  all_goals
    dsimp only
    try split
    all_goals trivial

theorem State.settleParks_mem : ∀ (l : List Park) (s : State) (h : Here), (s.settleParks h l).1.mem = s.mem
  | [], _, _ => rfl
  | p :: rest, s, h => by
    unfold State.settleParks
    split
    case h_1 x k e =>
      have hx : x.mem = s.mem := (State.endPark_mem s h p).of_eq e
      exact (State.settleParks_mem rest x _).trans hx
    case h_2 => exact State.settleParks_mem rest s h

@[simp] theorem State.settle_mem (s : State) (ctx : Ctx) (subs : List Nat) : (s.settle ctx subs).mem = s.mem := by
  refine foldl_mem (fun x id => ?_) subs s
  split
  · rfl
  · exact (State.put_mem _ _).trans (State.settleParks_mem _ _ _)

/-! ### The issue decision and END -/

theorem State.wf_settleHalf {s : State} (half : Nat) (hs : Memory.wf s) : Memory.wf (s.settleHalf half) := by
  unfold State.settleHalf
  refine foldl_wf (fun x q hx => State.wf_checkStall _ hx) _ ?_
  exact foldl_wf (fun x q hx => by simpa [Memory.wf] using hx) _ (State.wf_spoilDone hs)

theorem State.wf_failArrival {s : State} (team ci b : Nat) (hs : Memory.wf s) :
    Memory.wf (s.failArrival team ci b) := by
  unfold State.failArrival
  split
  · exact hs
  · dsimp only
    split
    · exact hs
    · split
      · exact State.wf_stopWhole _ _ hs
      · exact State.wf_stopWhole _ _ hs

theorem State.wf_arriveAfterEnd {s : State} (team ci : Nat) (hs : Memory.wf s) :
    Memory.wf (s.arriveAfterEnd team ci) := by
  refine upto_wf (fun x b hx => ?_) 16 hs
  dsimp only
  split
  · exact hx
  · split
    · split
      · exact State.wf_failArrival _ _ _ hx
      · split <;> exact hx
    · exact hx

@[simp] theorem State.endCoach_mem (s : State) (team ci : Nat) : (s.endCoach team ci).mem = s.mem := rfl

/-! ### GLOBAL accesses of the device -/

@[simp] theorem State.wf_gStore {s : State} (oid va : Nat) (bs : List Byte) (hs : Memory.wf s) :
    Memory.wf (s.gStore oid va bs) := by
  unfold State.gStore
  split
  · exact State.wf_writeLocs _ hs
  · exact hs

@[simp] theorem State.gRelease_mem (s : State) (oid va n : Nat) : (s.gRelease oid va n).mem = s.mem := by
  unfold State.gRelease
  split
  · simp
  · rfl

theorem State.wf_gStoreAll {s : State} (oid va : Nat) (bs : List Byte) (hs : Memory.wf s) :
    Memory.wf (s.gStoreAll oid va bs) :=
  foldl_wf (fun _ p hx => State.wf_gStore oid p.1 p.2 hx) _ hs

@[simp] theorem State.countLate_mem (s : State) (c : Call) : (s.countLate c).mem = s.mem := rfl

theorem State.wf_pageMoved {s : State} (old new size : Nat) (hs : Memory.wf s) :
    Memory.wf (s.pageMoved old new size) :=
  Storage.wf_movePage old new size hs

/-! ### Requests performed -/

theorem State.wf_performCopy {s : State} (r : Request) (xf sf df : Nat) (scalar : Word) (src dst : List Piece)
    (pick : Option Nat → Bool) (lo hi : Nat) (hs : Memory.wf s) :
    Memory.wf (s.performCopy r xf sf df scalar src dst pick lo hi) :=
  foldl_wf (fun _ _ hx => ite_wf hx (State.wf_writePieces _ hx)) _ hs

theorem State.wf_gatherOne {s : State} (r : Request) (scatter : Bool) (es bound : Nat) (table dense : List Piece)
    (dold : List (Option Byte)) (i x : Nat) (hs : Memory.wf s) :
    Memory.wf (s.gatherOne r scatter es bound table dense dold i x) := by
  unfold State.gatherOne
  split
  · split
    · exact State.wf_writePieces _ hs
    · exact hs
  · exact State.wf_writePieces _ hs

theorem State.wf_gatherBlocks (r : Request) (scatter : Bool) (iw es bound : Nat) (table index dense : List Piece)
    (iold dold : List (Option Byte)) : ∀ (fuel i count : Nat) {s : State}, Memory.wf s →
      Memory.wf (s.gatherBlocks r scatter iw es bound table index dense iold dold fuel i count)
  | 0, _, _, _, hs => hs
  | fuel + 1, i, count, s, hs => by
    unfold State.gatherBlocks
    split
    · exact hs
    · exact State.wf_gatherBlocks r scatter iw es bound table index dense iold dold fuel _ count
        (foldl_wf (fun _ k hx => State.wf_gatherOne _ _ _ _ _ _ _ _ _ hx) _ hs)

theorem State.wf_performUnits {s : State} (r : Request) (lo hi : Nat) (hs : Memory.wf s) :
    Memory.wf (s.performUnits r lo hi) := by
  unfold State.performUnits
  split
  · exact State.wf_performCopy _ _ _ _ _ _ _ _ _ _ hs
  · exact State.wf_gatherBlocks _ _ _ _ _ _ _ _ _ _ _ _ _ hs
  · exact foldl_wf (fun x n hx => State.wf_writePieces _ hx) _ hs

theorem State.wf_performPart {s : State} (id : Nat) (hs : Memory.wf s) : Memory.wf (s.performPart id) := by
  unfold State.performPart
  split
  · exact hs
  · dsimp only
    split
    · exact hs
    · exact State.wf_performUnits _ _ _ hs

theorem State.wf_finishRequest {s' : State} (s : State) (id : Nat) (r : Request) (hs : Memory.wf s') :
    Memory.wf (s'.finishRequest s id r) := by
  have hc : Memory.wf (if r.bounded && decide (r.deadline < s'.slot) then s'.count 0x310 else s') := by
    split <;> exact hs
  unfold State.finishRequest
  dsimp only
  split
  · exact hc
  · exact hc

theorem whenFree_wf {s : State} {id : Nat} {part : Request → List Piece × List Piece}
    {f : Request → Host.Outcome State Fault Refusal} (hs : Memory.wf s) (hf : ∀ r, NextWf (f r)) :
    NextWf (s.whenFree id part f) := by
  refine whenRunning_wf hs ?_
  split
  · exact hs
  · split
    · exact hs
    · split
      · exact hf _
      · exact (by simpa [Memory.wf] using hs : Memory.wf (State.markBoth _ _ _))

/-! ### Drays -/

@[simp] theorem State.drayPassed_mem (s : State) (ch : Nat) (addr : Bool) : (s.drayPassed ch addr).mem = s.mem := rfl

@[simp] theorem State.drayFault_mem (s : State) (ch : Nat) (d : Dray) : (s.drayFault ch d).mem = s.mem := rfl

theorem State.wf_applyPacket {s : State} (p : Packet) (hs : Memory.wf s) : Memory.wf (s.applyPacket p) := by
  unfold State.applyPacket
  split
  · exact hs
  · exact foldl_wf (fun x i hx => State.wf_writeLocs _ hx) _ hs

theorem State.wf_flush {s : State} (ch : Nat) (d : Dray) (released : Packet → Bool) (hs : Memory.wf s) :
    Memory.wf (s.flush ch d released) :=
  foldl_wf (s := { s with drays := _ }) (fun _ p hx => State.wf_applyPacket p hx) _ hs

theorem State.wf_endDray {s : State} (ch : Nat) (d : Dray) (hs : Memory.wf s) : Memory.wf (s.endDray ch d) :=
  State.wf_serveFree (State.wf_flush _ _ _ hs)

theorem rowCommand_wf {chan : Nat} {s : State} {f : State → Dray → RowCmd → Option State} (hs : Memory.wf s)
    (hf : ∀ x d c, Memory.wf x → SomeHas Memory.wf (f x d c)) : NextWf (rowCommand chan s f) := by
  refine whenRunning_wf hs ?_
  split
  · exact hs
  · split
    · exact hs
    · dsimp only
      split
      · exact hs
      · split
        · exact State.wf_endDray _ _ hs
        · split
          · exact hs
          · show Memory.wf _
            split
            case h_1 x e =>
              have hx : Memory.wf x := by
                refine SomeHas.of_eq ?_ e
                exact hf _ _ _ hs
              exact hx
            case h_2 => exact hs

theorem State.wf_arrivePacket {s : State} (p : Packet) (hs : Memory.wf s) : Memory.wf (s.arrivePacket p) := by
  unfold State.arrivePacket
  split
  · exact hs
  · exact State.wf_applyPacket _ hs

theorem State.wf_takePacket {s : State} (p : Packet) (hs : Memory.wf s) : Memory.wf (s.takePacket p) := by
  unfold State.takePacket
  dsimp only
  split
  · exact State.wf_markWaiting _ _ hs
  · split
    · exact hs
    · split
      case h_1 => exact hs
      case h_2 x e =>
        have hx : x.mem = s.mem := (State.tryAdmit_mem s _ _ _ _ _).of_eq e
        exact State.wf_arrivePacket _ (by simpa [Memory.wf, hx] using hs)

/-! ### Loads, stores and atomics -/

@[simp] theorem State.wf_noteAll {s : State} (ag : Agent) (space : Nat) (cs : List Checked) (hs : Memory.wf s) :
    Memory.wf (s.noteAll ag space cs) := by
  simpa [Memory.wf] using hs

theorem State.wf_atomicOne {s : State} (h : Here) (space : Nat) (acq rel : Option Nat) (c : Checked) (keys : List Nat)
    (op : Nat) (old v0 v1 : Word) (hs : Memory.wf s) : Memory.wf (s.atomicOne h space acq rel c keys op old v0 v1).1 :=
  State.wf_atomicData _ _ _ _ _ _ _ _ _ _ hs

theorem laneLoad_wf {sw : Bool} {d a : BitVec 8} {wh : BitVec 3} {abs : Bool} {s : State} {n : Nat} {ldc : Bool}
    {acq : Option Nat} (hs : Memory.wf s) : NextWf (laneLoad sw d a wh abs s n ldc acq) :=
  native_wf hs fun _ _ hx => .bind fun _ => .bind fun _ => .bind fun _ =>
    State.wf_noteAll _ _ _ (State.wf_arriveLoads _ _ _ _ _ hx)

theorem uniLoad_wf {sw : Bool} {d a : BitVec 8} {wh : BitVec 3} {abs : Bool} {s : State} {n : Nat} {ldc : Bool}
    {acq : Option Nat} (hs : Memory.wf s) : NextWf (uniLoad sw d a wh abs s n ldc acq) :=
  native_wf hs fun _ _ hx => .bind fun _ => .bind fun _ => .bind fun _ =>
    State.wf_noteAll _ _ _ (State.wf_arriveLoads _ _ _ _ _ hx)

theorem laneStore_wf {sw : Bool} {d a : BitVec 8} {wh : BitVec 3} {abs : Bool} {s : State} {n : Nat} {rel : Option Nat}
    (hs : Memory.wf s) : NextWf (laneStore sw d a wh abs s n rel) :=
  native_wf hs fun _ _ hx => .bind fun _ => .bind fun _ => .bind fun _ =>
    State.wf_noteAll _ _ _ (foldl_wf (fun _ _ hx => State.wf_storeData _ _ _ _ _ hx) _ hx)

theorem uniStore_wf {sw : Bool} {d a : BitVec 8} {wh : BitVec 3} {abs : Bool} {s : State} {n : Nat} {rel : Option Nat}
    (hs : Memory.wf s) : NextWf (uniStore sw d a wh abs s n rel) :=
  native_wf hs fun _ _ hx => .bind fun _ => .bind fun _ => .bind fun _ =>
    State.wf_noteAll _ _ _ (State.wf_storeData _ _ _ _ _ hx)

theorem laneAtomic_wf {sw : Bool} {d : BitVec 6} {a : BitVec 8} {wh : BitVec 3} {s : State} {op : Nat} {acq rel : Option Nat}
    (hs : Memory.wf s) : NextWf (laneAtomic sw d a wh s op acq rel) :=
  native_wf hs fun _ _ hx => .bind fun _ => .bind fun _ => .bind fun _ =>
    State.wf_noteAll _ _ _ (foldl_keeps (fun p : State × Here => Memory.wf p.1) _
      (fun _ _ hx => State.wf_atomicOne _ _ _ _ _ _ _ _ _ _ hx) _ _ hx)

theorem uniAtomic_wf {sw : Bool} {d a : BitVec 6} {wh : BitVec 3} {s : State} {op : Nat} {acq rel : Option Nat}
    (hs : Memory.wf s) : NextWf (uniAtomic sw d a wh s op acq rel) :=
  native_wf hs fun _ _ hx => .bind fun _ => .bind fun _ =>
    State.wf_noteAll _ _ _ (State.wf_atomicOne _ _ _ _ _ _ _ _ _ _ hx)

theorem celudLoad_wf {s : State} {lit : Option (BitVec 64)} {d a : BitVec 12} {space : BitVec 3} {size : BitVec 2}
    {acq : Option Nat} (hs : Memory.wf s) : NextWf (celudLoad s lit d a space size acq) :=
  celudOp_wf hs fun _ => .bind fun _ => State.wf_noteAll _ _ _ hs

/-! ### Objects and nodes -/

/-- The state in which the loader has placed an object, if it has, has the form. -/
def Load.Wf : Load → Prop
  | .placed s _ => Memory.wf s
  | _ => True

theorem State.wf_loadObject {s : State} (oid a : Nat) (b : Bases) (hs : Memory.wf s) : (s.loadObject oid a b).Wf := by
  have hp (l : List (Nat × List Byte)) : Memory.wf (l.foldl (fun s p => s.gStoreAll oid p.1 p.2) s) :=
    foldl_wf (fun _ p hx => State.wf_gStoreAll oid p.1 p.2 hx) l hs
  unfold State.loadObject
  split
  · trivial
  · split
    · trivial
    · split
      · trivial
      · extract_lets
        split
        · trivial
        · exact hp _

theorem State.wf_loadNode {s : State} (n : Node) (lgsz : Nat) (place : Bases) (hs : Memory.wf s) :
    OkHas (fun p => Memory.wf p.1) (s.loadNode n lgsz place) := by
  unfold State.loadNode
  dsimp only
  split
  · exact hs
  · split
    · exact hs
    · have hl := State.wf_loadObject n.oid (n.fld 3 0 56) place hs
      split
      case h_1 => exact hs
      case h_2 => trivial
      case h_3 e => rw [e] at hl; exact hl

@[simp] theorem State.startDrays_mem (s : State) (id : Nat) : (s.startDrays id).mem = s.mem := by
  unfold State.startDrays
  split
  · rfl
  · split <;> rfl

@[simp] theorem State.startAll_mem (s : State) : s.startAll.mem = s.mem :=
  foldl_mem (fun x (p : Nat × Node) => x.startDrays_mem p.1) _ s

@[simp] theorem State.dropNode_mem (s : State) (id code : Nat) : (s.dropNode id code).mem = s.mem := rfl

theorem State.placeGroups_mem (now slots dur : Nat) (o : Object) : ∀ (l : List Nat) (s : State),
    SomeHas (·.mem = s.mem) (s.placeGroups now slots dur o l)
  | [], _ => rfl
  | k :: rest, s => by
    unfold State.placeGroups
    split
    case h_1 => trivial
    case h_2 l _ => exact State.placeGroups_mem now slots dur o rest { s with calendar := s.calendar ++ l }

theorem State.placeNode_mem (s : State) (now : Nat) (n : Node) (need : NodeNeed) :
    SomeHas (·.mem = s.mem) (s.placeNode now n need) := by
  cases need
  · exact State.placeGroups_mem _ _ _ _ _ s
  · exact State.placeAll_mem _ _ _ s

@[simp] theorem State.addBatch_mem (s : State) (id : Nat) (n : Node) (o : Object) (k : Nat) :
    (s.addBatch id n o k).mem = s.mem := by
  induction k with
  | zero => rfl
  | succ k ih => exact ih

theorem State.rejoin_mem (s : State) (id : Nat) (n : Node) : (s.rejoin id n).mem = s.mem := by
  unfold State.rejoin
  dsimp only
  split
  case h_1 x e =>
    have hx : x.mem = s.mem := (State.placeNode_mem s _ _ _).of_eq e
    simpa using hx
  case h_2 => rfl

@[simp] theorem State.reslice_mem (s : State) (team : Nat) : (s.reslice team).mem = s.mem := by
  unfold State.reslice
  split <;> rfl

theorem State.launchOne_mem (s : State) (id : Nat) (n : Node) (o : Object) (core : Nat) (c : Nat × Nat × Nat)
    (areas : List Nat) : SomeHas (·.mem = s.mem) (s.launchOne id n o core c areas) := by
  unfold State.launchOne
  split
  · split
    · exact State.reslice_mem _ _
    · trivial
  · trivial

theorem State.launchGroup_mem (id : Nat) (n : Node) (o : Object) : ∀ (ts : List (Nat × Nat × Nat)) (cores areas : List Nat)
    (s : State), SomeHas (·.mem = s.mem) (s.launchGroup id n o ts cores areas)
  | [], [], _, _ => rfl
  | [], _ :: _, _, _ => trivial
  | _ :: _, [], _, _ => trivial
  | c :: ts, core :: cores, areas, s => by
    unfold State.launchGroup
    cases e : s.launchOne id n o core c areas with
    | none => trivial
    | some x =>
      have hx : x.mem = s.mem := (State.launchOne_mem s _ _ _ _ _ _).of_eq e
      exact hx ▸ State.launchGroup_mem id n o ts cores (areas.drop o.nc) x

/-! ### Admission -/

/-- The state in which a node has been admitted, if it has been, stores what it stored before. -/
def Try.Keeps (m : Storage) : Try → Prop
  | .admitted s _ => s.mem = m
  | _ => True

theorem State.tryPlace_mem (s : State) (n : Node) (need : NodeNeed) {f : State → Try} (hf : ∀ x, x.mem = s.mem → (f x).Keeps s.mem) :
    (s.tryPlace n need f).Keeps s.mem := by
  unfold State.tryPlace
  split
  case h_1 x e => exact hf x ((State.placeNode_mem s _ _ _).of_eq e)
  case h_2 => trivial

theorem State.tryNode_mem (s : State) (id : Nat) (n : Node) : (s.tryNode id n).Keeps s.mem := by
  unfold State.tryNode
  split
  · split
    · trivial
    · refine State.tryPlace_mem s n _ fun x hx => ?_
      split
      · trivial
      · exact hx
  · split
    · dsimp only
      split
      · trivial
      · exact State.tryPlace_mem s n _ fun x hx => hx
    · trivial
  · split
    · trivial
    · dsimp only
      split
      · trivial
      · exact State.tryPlace_mem s n _ fun x hx => hx
  · split
    · trivial
    · exact State.tryPlace_mem s n _ fun x hx => (State.addBatch_mem x _ _ _ _).trans hx

/-! ### Teams -/

@[simp] theorem State.finishSwitchOut_mem (s : State) (q : Nat) : (s.finishSwitchOut q).mem = s.mem := by
  unfold State.finishSwitchOut
  dsimp only
  split <;> rfl

@[simp] theorem State.saveTeam_mem (s : State) (team : Nat) (t : Team) (evict : Bool) :
    (s.saveTeam team t evict).mem = s.mem :=
  State.finishSwitchOut_mem _ _

@[simp] theorem State.stopOn_mem (s : State) (team : Nat) (t : Team) (evict all : Bool) (acked : List EngineClass) :
    (s.stopOn team t evict all acked).mem = s.mem := by
  unfold State.stopOn
  split
  · exact State.saveTeam_mem _ _ _ _
  · rfl

@[simp] theorem State.stopTeam_mem (s : State) (team : Nat) (evict all : Bool) : (s.stopTeam team evict all).mem = s.mem := by
  unfold State.stopTeam
  split
  · rfl
  · exact State.stopOn_mem _ _ _ _ _ _

theorem State.wf_stopOn {s : State} (team : Nat) (t : Team) (evict all : Bool) (acked : List EngineClass) (hs : Memory.wf s) :
    Memory.wf (s.stopOn team t evict all acked) := by
  simpa [Memory.wf] using hs

theorem State.wf_stopRequests {s : State} (team : Nat) (evict : Bool) (ids : List Nat) (hs : Memory.wf s) :
    Memory.wf (s.stopRequests team evict ids) :=
  (foldl_wf (fun _ id hx => State.wf_performPart id hx) ids hs :)

theorem State.wf_evictTeam {s : State} (team : Nat) (hs : Memory.wf s) : Memory.wf (s.evictTeam team) := by
  unfold State.evictTeam
  split
  case h_1 => exact hs
  case h_2 t _ =>
    have hr : Memory.wf (State.stopRequests
        { s with nodes := Cells.modify s.nodes t.node fun n => { n with bounded := false } } team true t.stopped) :=
      State.wf_stopRequests _ _ _ hs
    dsimp only
    split
    · exact hr
    · exact hr
    · simpa [Memory.wf] using hr
    · exact State.wf_stopOn _ _ _ _ _ hr
    · simpa [Memory.wf] using State.wf_stopRequests team true _ hr

theorem State.wf_stopWork {s : State} (team : Nat) (t : Team) (evict : Bool) (e : EngineClass) (hs : Memory.wf s) :
    Memory.wf (s.stopWork team t evict e) := by
  unfold State.stopWork
  split
  · exact hs
  · split
    · exact ite_wf (State.wf_performSteps _ hs) hs
    · exact hs
  · exact State.wf_stopRequests _ _ _ hs

theorem State.wf_saveDrays {s : State} (node : Nat) (hs : Memory.wf s) : Memory.wf (s.saveDrays node) := by
  have hd := foldl_wf (f := fun (s : State) (p : Nat × Dray) =>
    if p.2.node = node && p.2.atBoundary && !p.2.stopped then
      let s := s.flush p.1 { p.2 with saved := true, window := false } fun _ => true
      let d := (Cells.find s.drays p.1).getD p.2
      { s with drays := Cells.drop s.drays p.1,
               nodes := Cells.modify s.nodes node fun n => { n with start := n.start ++ [(p.1, d)] } }
    else s) (fun x p hx => ite_wf (State.wf_flush _ _ _ hx) hx) s.drays hs
  simpa [Memory.wf, State.saveDrays] using State.wf_serveFree hd

theorem State.readmit_mem (s : State) (core id : Nat) : OkHas (·.mem = s.mem) (s.readmit core id) := by
  unfold State.readmit
  split
  case h_1 => rfl
  case h_2 r _ =>
    have hp := State.placeAll_mem s.slot (windowSlots r.cls (r.needs core).2) (r.needs core).1 s
    dsimp only
    revert hp
    cases s.placeAll s.slot (windowSlots r.cls (r.needs core).2) (r.needs core).1 with
    | none => exact fun _ => trivial
    | some x => exact fun hx => hx

theorem State.readmitAll_mem (core : Nat) : ∀ (l : List Nat) (s : State), OkHas (·.mem = s.mem) (s.readmitAll core l)
  | [], _ => rfl
  | i :: rest, s => by
    have h1 := State.readmit_mem s core i
    unfold State.readmitAll
    revert h1
    cases s.readmit core i with
    | error e => exact fun _ => trivial
    | ok x => exact fun hx => (hx : x.mem = s.mem) ▸ State.readmitAll_mem core rest x

theorem State.renewNode_mem (s : State) (t : Team) (core : Nat) : OkHas (·.mem = s.mem) (s.renewNode t core) := by
  unfold State.renewNode
  split
  · rfl
  · dsimp only
    generalize e : s.placeAll _ _ _ = o
    cases o with
    | none => trivial
    | some x =>
      have hx : x.mem = s.mem := (State.placeAll_mem _ _ _ s).of_eq e
      show (ite _ _ _ : State).mem = s.mem
      split <;> exact hx

@[simp] theorem State.restoreTeam_mem (s : State) (team : Nat) (t : Team) (core : Nat) (ks : List Nat) :
    (s.restoreTeam team t core ks).mem = s.mem :=
  State.reslice_mem _ _

@[simp] theorem State.modNodesOf_mem (s : State) (q : Nat) (f : Node → Node) : (s.modNodesOf q f).mem = s.mem := rfl

theorem State.wf_stopGathers {s : State} (q : Nat) (hs : Memory.wf s) : Memory.wf (s.stopGathers q) :=
  foldl_wf (fun _ p hx => State.wf_performPart p.1 hx) _ hs

/-! ### Registers, firmware and the fabric -/

@[simp] theorem State.orderShoot_mem (s : State) (oid vpn : Nat) : (s.orderShoot oid vpn).mem = s.mem := rfl

@[simp] theorem State.orderReplay_mem (s : State) (oid : Nat) (token : Word) : (s.orderReplay oid token).mem = s.mem := rfl

@[simp] theorem State.writeMgmt_mem (s : State) (firmware : Bool) (off size v : Nat) :
    (s.writeMgmt firmware off size v).mem = s.mem :=
  ite_mem rfl (ite_mem (ite_mem (ite_mem rfl (ite_mem rfl rfl)) (ite_mem rfl (ite_mem rfl rfl)))
    (ite_mem (ite_mem rfl (ite_mem rfl rfl)) (ite_mem rfl (ite_mem rfl rfl))))

@[simp] theorem State.writeMailbox_mem (s : State) (off size v : Nat) : (s.writeMailbox off size v).mem = s.mem := rfl

@[simp] theorem State.answer_mem (s : State) (status : Word) (response : List Byte) :
    (s.answer status response).mem = s.mem := rfl

@[simp] theorem State.abortCalls_mem (s : State) (oid : Nat) : (s.abortCalls oid).mem = s.mem := rfl

theorem State.wf_cold (s : State) : Memory.wf s.cold := reset_memory_wf

theorem State.wf_fabricCopy {s : State} (oid xf ss ds sf df : Nat) (scalar : Word) (dst : List Piece) (bytes : List Byte)
    (hs : Memory.wf s) : Memory.wf (s.fabricCopy oid xf ss ds sf df scalar dst bytes) :=
  foldl_wf (fun _ _ hx => State.wf_writePieces _ hx) _ hs

@[simp] theorem State.relaySend_mem (s : State) (req : FabricReq) (number : Nat) : (s.relaySend req number).mem = s.mem := by
  unfold State.relaySend
  dsimp only
  split <;> rfl

@[simp] theorem State.excuse_mem (s : State) : s.excuse.mem = s.mem := rfl

/-! ### The passing of time -/

@[simp] theorem State.second_mem (s : State) (t : Nat) : (s.second t).mem = s.mem := by
  unfold State.second
  split <;> rfl

@[simp] theorem State.passTime_mem (s : State) : s.passTime.mem = s.mem := by
  unfold State.passTime
  split
  · exact foldl_mem State.second_mem _ s
  · rfl

/-! ### Native instructions that change more than their issuer -/

theorem issueTagged_wf {s : State} (h : Here) (b : BitVec 8) (st : Nat) (r : Request) (transit : Nat) (needs : List Need)
    (hs : Memory.wf s) : Memory.wf (issueTagged s h b st r transit needs).1 := by
  simpa [Memory.wf] using hs

theorem arriveRendezvous_wf {s : State} (h : Here) (fresh : Rendezvous) (arr : Arrival) (unseen : List Nat)
    (vf vr : Option (Nat × Nat)) (hs : Memory.wf s) : BodyWf (arriveRendezvous s h fresh arr unseen vf vr) := by
  have hm := arriveRendezvous_mem s h fresh arr unseen vf vr
  revert hm
  cases arriveRendezvous s h fresh arr unseen vf vr with
  | error e => exact fun _ => trivial
  | ok p => exact fun hm => wf_of_mem hm hs

theorem execRunend_wf {post wait : BitVec 8} {s : State} (hs : Memory.wf s) : NextWf (execRunend post wait s) := by
  unfold execRunend
  split
  · trivial
  · split
    · exact State.wf_stopWith _ _ hs
    · exact State.wf_trailer _ _ hs

theorem execImmx_wf {imm : BitVec 24} {s : State} (hs : Memory.wf s) : NextWf (execImmx imm s) := by
  unfold execImmx
  split
  · trivial
  · dsimp only
    split
    · exact State.wf_stopWith _ _ hs
    · split
      · exact State.wf_markWaiting _ _ hs
      · exact State.wf_stopWith _ _ hs
      · split
        · exact State.wf_put _ hs
        · exact State.wf_stopWith _ _ hs

theorem execReplayToken_wf {sw : Bool} {reg : BitVec 8} {s : State} (hs : Memory.wf s) :
    NextWf (execReplayToken sw reg s) :=
  native_wf hs fun _ _ hx => .ite trivial (.bind fun _ => hx)

theorem execReplayPage_wf {sw : Bool} {reg : BitVec 8} {s : State} (hs : Memory.wf s) :
    NextWf (execReplayPage sw reg s) :=
  native_wf hs fun _ _ hx => .ite trivial (.bind fun _ => .bind fun _ => hx)

theorem execCopy_wf {sw : Bool} {b : BitVec 8} {sl dl xf : BitVec 3} {tag : BitVec 6} {s : State} (hs : Memory.wf s) :
    NextWf (execCopy sw b sl dl xf tag s) :=
  native_wf hs fun x h hx => by
    refine .bind fun _ => .bind fun _ => .ite ?_ ?_
    · exact .bind fun _ => .bind fun _ => .bind fun _ => .bind fun _ => .bind fun _ => .bind fun _ => .bind fun _ =>
        issueTagged_wf _ _ _ _ _ _ hx
    · exact .bind fun _ => .bind fun _ => .bind fun _ => .bind fun _ => .bind fun _ =>
        issueTagged_wf _ _ _ _ _ _ hx

theorem execGsjob_wf {sw : Bool} {b : BitVec 8} {dir : BitVec 1} {iw : BitVec 2} {es dl : BitVec 3} {tag : BitVec 6}
    {s : State} (hs : Memory.wf s) : NextWf (execGsjob sw b dir iw es dl tag s) :=
  native_wf hs fun x h hx => by
    repeat' first
      | refine .bind fun _ => ?_
      | refine .ite ?_ ?_
    all_goals exact issueTagged_wf _ _ _ _ _ _ hx

theorem execRcall_wf {sw : Bool} {b : BitVec 8} {narg : BitVec 5} {nret : BitVec 4} {sc : BitVec 3} {s : State}
    (hs : Memory.wf s) : NextWf (execRcall sw b narg nret sc s) :=
  native_wf hs fun x h hx => by
    refine .bind fun _ => .ite trivial (.bind fun _ => .bind fun _ => .bind fun _ => ?_)
    extract_lets _ ex
    split
    case h_1 => exact hx
    case h_2 y e =>
      have hy : y.mem = x.mem := (State.tryAdmit_mem x _ _ _ _ _).of_eq e
      exact wf_of_mem hy hx

theorem execRcprobe_wf {sw : Bool} {reg : BitVec 8} {k : BitVec 6} {s : State} (hs : Memory.wf s) :
    NextWf (execRcprobe sw reg k s) :=
  native_wf hs fun x h hx => by
    refine .bind fun _ => ?_
    extract_lets y
    split
    case h_1 => exact hx
    case h_2 => exact ite_wf hx (by simpa [Memory.wf] using hx)

theorem execMma_wf {sw : Bool} {b f : BitVec 8} {rb za : BitVec 1} {rm : BitVec 2} {s : State} (hs : Memory.wf s) :
    NextWf (execMma sw b f rb za rm s) :=
  native_wf hs fun x h hx => by
    refine .bind fun _ => .ite trivial (.bind fun _ => .bind fun _ => .bind fun _ => .bind fun _ => .bind fun _ =>
      .bind fun _ => .bind fun _ => .ite ?_ ?_)
    · exact .bind fun _ => arriveRendezvous_wf _ _ _ _ _ _ hx
    · exact arriveRendezvous_wf _ _ _ _ _ _ hx

theorem execMloop_wf {sw : Bool} {b : BitVec 8} {za : BitVec 1} {rm : BitVec 2} {s : State} (hs : Memory.wf s) :
    NextWf (execMloop sw b za rm s) :=
  native_wf hs fun _ _ hx =>
    .bind fun _ => .bind fun _ => .bind fun _ => .bind fun _ => .bind fun _ => .bind fun _ => .bind fun _ => .bind fun _ =>
      .bind fun _ => arriveRendezvous_wf _ _ _ _ _ _ hx

theorem execMdrain_wf {sw : Bool} {b : BitVec 8} {tm sat : BitVec 1} {rm : BitVec 2} {s : State} (hs : Memory.wf s) :
    NextWf (execMdrain sw b tm sat rm s) :=
  native_wf hs fun x h hx => by
    repeat' first
      | refine .bind fun _ => ?_
      | refine .ite ?_ ?_
    all_goals exact hx

theorem execQuant2_wf {sw : Bool} {b : BitVec 8} {s : State} (hs : Memory.wf s) : NextWf (execQuant2 sw b s) :=
  native_wf hs fun _ _ hx =>
    .bind fun _ => .bind fun _ => .bind fun _ => .bind fun _ => .bind fun _ => .bind fun _ => .bind fun _ => .bind fun _ =>
      .bind fun _ => .bind fun _ => .bind fun _ => hx

theorem execMvstack_wf {sw : Bool} {b : BitVec 8} {s : State} (hs : Memory.wf s) : NextWf (execMvstack sw b s) :=
  native_wf hs fun x h hx => by
    refine .bind fun _ => .bind fun _ => .ite trivial (.bind fun _ => .bind fun _ => .bind fun _ => .bind fun _ => ?_)
    exact .bind fun _ => .bind fun _ => .bind fun _ => .bind fun _ => .bind fun _ => issueTagged_wf _ _ _ _ _ _ hx

theorem execEnvld_wf {sw : Bool} {wh : BitVec 3} {d : BitVec 4} {r : BitVec 8} {s : State} (hs : Memory.wf s) :
    NextWf (execEnvld sw wh d r s) :=
  native_wf hs fun _ _ hx =>
    .bind fun _ => .bind fun _ => .bind fun _ => .ite trivial (.bind fun _ => .ite trivial (.bind fun _ =>
      State.wf_noteAll _ _ _ hx))

theorem execEnvst_wf {sw : Bool} {wh : BitVec 3} {d : BitVec 4} {r : BitVec 8} {s : State} (hs : Memory.wf s) :
    NextWf (execEnvst sw wh d r s) :=
  native_wf hs fun _ _ hx =>
    .bind fun _ => .bind fun _ => .bind fun _ =>
      State.wf_noteAll _ _ _ (foldl_wf (fun _ _ hx => State.wf_storeData _ _ _ _ _ hx) _ hx)

theorem execBararv_wf {sw : Bool} {reg : BitVec 8} {ci : BitVec 1} {cnt : BitVec 5} {bar : BitVec 4} {s : State}
    (hs : Memory.wf s) : NextWf (execBararv sw reg ci cnt bar s) :=
  barrierOp_wf hs fun _ _ hx => .bind fun _ => .bind fun _ => ite_wf hx hx

theorem execBarsync_wf {sw : Bool} {reg : BitVec 8} {ci : BitVec 1} {cnt : BitVec 5} {bar : BitVec 4} {s : State}
    (hs : Memory.wf s) : NextWf (execBarsync sw reg ci cnt bar s) :=
  barrierOp_wf hs fun x h hx => by
    refine .bind fun _ => ?_
    extract_lets r back closed
    split
    · trivial
    · exact hx
    · exact .ite (.bind fun _ => ite_wf hx hx) trivial

/-! ### Celud instructions -/

theorem execCeludSt_wf {sc : BitVec 3} {ord rev : BitVec 2} {lit : Option (BitVec 64)} {a b : BitVec 12} {space : BitVec 3}
    {size hint : BitVec 2} {s : State} (hs : Memory.wf s) : NextWf (execCeludSt sc ord rev lit a b space size hint s) :=
  celudOp_wf hs fun h => .bind fun c => State.wf_noteAll _ _ _ <| by
    simpa [Memory.wf] using State.wf_writeData h.agent c.loc (leBytes (2 ^ size.toNat) (h.r b).toNat) hs

theorem execCeludAtom_wf {sc : BitVec 3} {ord rev : BitVec 2} {lit : Option (BitVec 64)} {d a b : BitVec 12} {space : BitVec 3}
    {hint : BitVec 2} {op : BitVec 3} {s : State} (hs : Memory.wf s) :
    NextWf (execCeludAtom sc ord rev lit d a b space hint op s) :=
  celudOp_wf hs fun h => .bind fun c => State.wf_noteAll _ _ _ <| by
    simpa [Memory.wf] using State.wf_writeData h.agent c.loc _ hs

theorem execCeludBar_wf {s : State} (hs : Memory.wf s) : NextWf (execCeludBar s) :=
  celudOp_wf hs fun _ => (by simpa [Memory.wf] using hs : Memory.wf (s.settleBar _ _ _))

theorem execCeludEnd_wf {s : State} (hs : Memory.wf s) : NextWf (execCeludEnd s) :=
  celudOp_wf hs fun _ => (by simpa [Memory.wf] using hs : Memory.wf (s.settleBar _ _ _))

/-! ### Events of issue, calls and swaps -/

theorem execMatrixJobCompletion_wf {core : Nat} {s : State} (hs : Memory.wf s) :
    NextWf (execMatrixJobCompletion core s) := by
  refine whenRunning_wf hs ?_
  have hd := State.wf_spoilDone hs
  dsimp only
  split
  · exact hd
  · split
    · exact wf_of_mem (State.markBoth_mem _ _ _) hd
    · exact State.wf_performJob _ hd

theorem execMatrixRendezvous_wf {team rdv : Nat} {s : State} (hs : Memory.wf s) :
    NextWf (execMatrixRendezvous team rdv s) := by
  refine whenRunning_wf hs ?_
  split
  · exact hs
  · split
    · extract_lets parked absent t
      have ht : Memory.wf t := hs
      clear_value t
      split
      · exact hs
      · refine foldl_wf (fun x a hx => ?_) _ ht
        split
        · exact hx
        · split
          · exact hx
          · exact State.wf_stopWith _ _ hx
    · exact hs

theorem execIssueDecision_wf {half : Nat} {s : State} (hs : Memory.wf s) : NextWf (execIssueDecision half s) := by
  refine whenRunning_wf hs ?_
  extract_lets x t ready
  have hh : Memory.wf t := State.wf_settleHalf half hs
  clear_value t ready
  split
  · exact hs
  · split
    case h_1 => exact hh
    case h_2 team ci _ _ =>
      extract_lets s1 s2
      have h1 : Memory.wf s1 := by
        refine foldl_wf (fun x y hx => ?_) ready hh
        split <;> exact hx
      have h2 : Memory.wf s2 := h1
      clear_value s2
      split
      · exact h2
      · split
        · exact h2
        · exact h2

theorem execLongResultReturn_wf {ctx : Ctx} {ix : Nat} {s : State} (hs : Memory.wf s) :
    NextWf (execLongResultReturn ctx ix s) := by
  refine whenRunning_wf hs ?_
  have hc (f : Coach → Coach) : Memory.wf (s.modCtx ctx f) := by simpa [Memory.wf] using hs
  dsimp only
  show Memory.wf _
  split
  · exact State.wf_tryEntry _ _ (hc _)
  · exact hc _

theorem execHandlerEntry_wf {team coach : Nat} {s : State} (hs : Memory.wf s) :
    NextWf (execHandlerEntry team coach s) :=
  whenRunning_wf hs (State.wf_tryEntry _ _ hs)

theorem execMemberLanesEnd_wf {ctx : Ctx} {sub : Nat} {s : State} (hs : Memory.wf s) :
    NextWf (execMemberLanesEnd ctx sub s) := by
  refine whenRunning_wf hs ?_
  extract_lets t
  have hd : Memory.wf t := wf_of_mem (State.settle_mem _ _ _) (State.wf_spoilDone hs)
  clear_value t
  split
  · exact hd
  · split
    · exact hd
    · split
      · exact hd
      · split
        · exact wf_of_mem (State.endCall_mem _ _ _ _) hd
        · split
          · exact hd
          · extract_lets c u
            split
            · exact State.wf_checkStall _ hd
            · exact State.wf_checkStall _ (State.wf_tryEntry _ _ (State.wf_arriveAfterEnd _ _ hd))

theorem execRemoteFunctionStart_wf {ex : Nat} {s : State} (hs : Memory.wf s) :
    NextWf (execRemoteFunctionStart ex s) := by
  refine whenRunning_wf hs ?_
  split
  · exact hs
  · split
    · split
      · exact hs
      · split
        · exact hs
        · split
          · exact hs
          · split
            · exact State.wf_markWaiting _ _ hs
            · dsimp only
              split
              · exact hs
              · exact wf_of_mem (State.endCall_mem _ _ _ _) hs
    · exact hs

theorem execReply_wf {call : Nat} {s : State} (hs : Memory.wf s) : NextWf (execReply call s) := by
  refine whenRunning_wf hs ?_
  split
  · exact hs
  · split
    · exact hs
    · split
      · exact hs
      · exact hs
      · extract_lets va
        split
        · exact State.wf_markWaiting _ _ hs
        · exact State.wf_gStore _ _ _ hs
      · split
        · split
          · exact hs
          · split
            · exact hs
            · exact ite_wf (a := State.modCoach _ _ _ _) hs hs
        · exact hs

theorem execCallLost_wf {call : Nat} {s : State} (hs : Memory.wf s) : NextWf (execCallLost call s) := by
  refine whenRunning_wf hs ?_
  split
  · exact hs
  · split
    · exact hs
    · extract_lets s1
      show Memory.wf _
      split <;> exact hs

theorem execProbeAnswer_wf {call : Nat} {s : State} (hs : Memory.wf s) : NextWf (execProbeAnswer call s) := by
  refine whenRunning_wf hs ?_
  split
  · exact hs
  · split
    · exact hs
    · extract_lets a t u
      have hu : Memory.wf u := ite_wf hs hs
      clear_value u
      split
      · exact hs
      · exact ite_wf hu hu

theorem execSwapRequest_wf {oid va pa : Nat} {s : State} (hs : Memory.wf s) :
    NextWf (execSwapRequest oid va pa s) := by
  refine whenRunning_wf hs ?_
  split
  · exact hs
  · exact State.wf_markWaiting _ _ hs
  · dsimp only
    split <;> exact hs

theorem execSwapBegin_wf {swap : Nat} {s : State} (hs : Memory.wf s) : NextWf (execSwapBegin swap s) := by
  refine whenRunning_wf hs ?_
  split
  · exact hs
  · split <;> exact hs

theorem execHeldTranslationRelease_wf {swap : Nat} {s : State} (hs : Memory.wf s) :
    NextWf (execHeldTranslationRelease swap s) := by
  refine whenRunning_wf hs ?_
  split
  · exact hs
  · split
    · exact State.wf_markWaiting _ _ hs
    · exact State.wf_writeLocs (s := State.pageMoved _ _ _ _) _ (State.wf_pageMoved _ _ _ hs)

/-! ### Events of requests and drays -/

theorem execCopyCompletion_wf {req : Nat} {s : State} (hs : Memory.wf s) : NextWf (execCopyCompletion req s) := by
  refine whenFree_wf hs fun r => ?_
  split
  · split
    · exact hs
    · exact State.wf_finishRequest _ _ _ (State.wf_performUnits _ _ _ hs)
  · exact hs

theorem execDrayRequestCompletion_wf {req chan : Nat} {s : State} (hs : Memory.wf s) :
    NextWf (execDrayRequestCompletion req chan s) := by
  refine whenFree_wf hs fun r => ?_
  split
  · split
    · exact hs
    · exact State.wf_performCopy _ _ _ _ _ _ _ _ _ _ hs
  · exact hs

theorem execGsjobCompletion_wf {req : Nat} {s : State} (hs : Memory.wf s) : NextWf (execGsjobCompletion req s) := by
  refine whenFree_wf hs fun r => ?_
  split
  · exact State.wf_finishRequest _ _ _ (State.wf_performUnits _ _ _ hs)
  · exact hs

theorem execMvstackCompletion_wf {req : Nat} {s : State} (hs : Memory.wf s) :
    NextWf (execMvstackCompletion req s) := by
  refine whenFree_wf hs fun r => ?_
  split
  · exact State.wf_finishRequest _ _ _ (State.wf_performUnits _ _ _ hs)
  · exact hs

theorem execOpenCommand_wf {chan : Nat} {s : State} (hs : Memory.wf s) : NextWf (execOpenCommand chan s) := by
  refine rowCommand_wf hs fun x d c hx => ?_
  split
  · exact State.wf_flush _ _ _ hx
  · trivial

theorem execReadCommand_wf {chan : Nat} {s : State} (hs : Memory.wf s) : NextWf (execReadCommand chan s) := by
  refine rowCommand_wf hs fun x d c hx => ?_
  split
  · split <;> exact hx
  · trivial

theorem execWbackCommand_wf {chan : Nat} {s : State} (hs : Memory.wf s) : NextWf (execWbackCommand chan s) := by
  refine rowCommand_wf hs fun x d c hx => ?_
  split
  · split
    · exact hx
    · exact State.wf_writeLocs _ hx
  · trivial

theorem execCloseCommand_wf {chan : Nat} {s : State} (hs : Memory.wf s) : NextWf (execCloseCommand chan s) := by
  refine rowCommand_wf hs fun x d c hx => ?_
  split
  · split
    · exact State.wf_flush _ _ _ hx
    · exact hx
  · trivial

theorem execArbitrationWindow_wf {chan : Nat} {s : State} (hs : Memory.wf s) :
    NextWf (execArbitrationWindow chan s) := by
  refine whenRunning_wf hs ?_
  split
  · exact hs
  · dsimp only
    split
    · exact State.wf_serveFree (State.wf_flush _ _ _ hs)
    · exact hs

theorem execWindowExpiry_wf {chan : Nat} {s : State} (hs : Memory.wf s) : NextWf (execWindowExpiry chan s) := by
  refine whenRunning_wf hs ?_
  split <;> exact hs

theorem execDrayKernelEnd_wf {chan : Nat} {s : State} (hs : Memory.wf s) : NextWf (execDrayKernelEnd chan s) := by
  refine whenRunning_wf hs ?_
  split
  · exact hs
  · split
    · exact hs
    · split
      · exact State.wf_endDray _ _ hs
      · exact hs

theorem execReductionPacket_wf {oid pa fmt op : Nat} {elems : List Byte} {s : State} (hs : Memory.wf s) :
    NextWf (execReductionPacket oid pa fmt op elems s) := by
  refine whenRunning_wf hs ?_
  split
  · exact State.wf_takePacket _ hs
  · exact hs

theorem execClockRatioChange_wf {stack num den : Nat} {s : State} (hs : Memory.wf s) :
    NextWf (execClockRatioChange stack num den s) := by
  refine whenRunning_wf hs ?_
  split
  · split <;> exact hs
  · split
    · exact State.wf_serveFree hs
    · exact hs

/-! ### Events of queues, nodes and teams -/

theorem execQueueOidPmaxSet_wf {q oid pmax : Nat} {s : State} (hs : Memory.wf s) :
    NextWf (execQueueOidPmaxSet q oid pmax s) := by
  refine whenRunning_wf hs ?_
  split <;> exact hs

theorem execRecordFetch_wf {f : Fetch} {s : State} (hs : Memory.wf s) : NextWf (execRecordFetch f s) := by
  refine whenRunning_wf hs ?_
  extract_lets q x at_ words waits n
  split
  · exact hs
  · split
    · exact State.wf_markWaiting _ _ hs
    · have hl := State.wf_loadNode n x.lgsz f.place hs
      split
      case h_1 => exact State.wf_markWaiting _ _ (State.wf_markWaiting _ _ hs)
      case h_2 e => exact hl.of_eq e

theorem execDzitumTranslation_wf {node : Nat} {code : List Word} {keep : Keep} {s : State} (hs : Memory.wf s) :
    NextWf (execDzitumTranslation node code keep s) := by
  refine whenRunning_wf hs ?_
  split
  · exact hs
  · split
    · split
      · exact hs
      · dsimp only
        split <;> exact hs
    · exact hs

theorem execNodeCompletion_wf {node : Nat} {s : State} (hs : Memory.wf s) : NextWf (execNodeCompletion node s) := by
  refine whenRunning_wf hs ?_
  split
  · exact hs
  · extract_lets x
    split
    · exact hs
    · split
      · exact hs
      · split
        · exact State.wf_markWaiting _ _ hs
        · extract_lets status s1 s2 x1 x2 s3 s4 s5
          have h1 : Memory.wf s1 := wf_of_mem (State.gRelease_mem _ _ _ _) (State.wf_gStore _ _ _ hs)
          have h2 : Memory.wf s2 := wf_of_mem (State.startAll_mem _) h1
          have h5 : Memory.wf s5 := ite_wf h2 h2
          exact ite_wf h5 h5

theorem execOverrun_wf {node : Nat} {s : State} (hs : Memory.wf s) : NextWf (execOverrun node s) := by
  refine whenRunning_wf hs ?_
  split
  · exact hs
  · split
    · exact hs
    · split
      · exact hs
      · split <;> exact hs

theorem execNodeAdmission_wf {node : Nat} {s : State} (hs : Memory.wf s) : NextWf (execNodeAdmission node s) := by
  refine whenRunning_wf hs ?_
  split
  case h_1 => exact hs
  case h_2 n _ =>
    split
    · exact hs
    · split
      · exact wf_of_mem (State.rejoin_mem s node n) hs
      · split
        · exact hs
        · split
          · exact State.wf_markWaiting _ _ hs
          · have ht := State.tryNode_mem s node n
            split
            case h_1 x k e =>
              rw [e] at ht
              exact wf_of_mem ((State.startAll_mem _).trans ht) hs
            case h_2 => exact hs
            case h_3 => exact hs

theorem execTeamLaunch_wf {node : Nat} {cores areas : List Nat} {s : State} (hs : Memory.wf s) :
    NextWf (execTeamLaunch node cores areas s) := by
  refine whenRunning_wf hs ?_
  split
  · exact hs
  · split
    · exact hs
    · extract_lets g cluster
      split
      · exact hs
      · split
        case h_1 => exact hs
        case h_2 x e =>
          have hx : x.mem = s.mem := (State.launchGroup_mem _ _ _ _ _ _ s).of_eq e
          exact wf_of_mem hx hs

theorem State.wf_stopTeam {s : State} (team : Nat) (evict all : Bool) (hs : Memory.wf s) :
    Memory.wf (s.stopTeam team evict all) :=
  wf_of_mem (State.stopTeam_mem _ _ _ _) hs

theorem execStopOrder_wf {team : Nat} {s : State} (hs : Memory.wf s) : NextWf (execStopOrder team s) := by
  refine whenRunning_wf hs ?_
  split
  · exact hs
  · split
    · exact State.wf_stopTeam _ _ _ hs
    · exact hs

theorem execEviction_wf {team : Nat} {s : State} (hs : Memory.wf s) : NextWf (execEviction team s) :=
  whenRunning_wf hs (State.wf_evictTeam _ hs)

theorem execEngineAcknowledgement_wf {team : Nat} {engine : EngineClass} {s : State} (hs : Memory.wf s) :
    NextWf (execEngineAcknowledgement team engine s) := by
  refine whenRunning_wf hs ?_
  split
  · split
    · split
      · exact State.wf_stopOn _ _ _ _ _ (State.wf_stopWork _ _ _ _ hs)
      · exact hs
    · exact hs
  · split
    · split
      · exact State.wf_saveDrays _ hs
      · exact hs
    · exact hs

theorem execSliceExpiry_wf {team : Nat} {s : State} (hs : Memory.wf s) : NextWf (execSliceExpiry team s) := by
  refine whenRunning_wf hs ?_
  split
  · exact hs
  · split
    · exact State.wf_stopTeam _ _ _ hs
    · exact hs

/-- An evicted team that returns is admitted again, which stores nothing. -/
theorem State.readmitted_mem (s : State) (t : Team) (core : Nat) (ev : Bool) :
    OkHas (·.mem = s.mem) (if ev then (s.renewNode t core).bind fun s => s.readmitAll core t.stopped else .ok s) := by
  split
  · have hr := State.renewNode_mem s t core
    revert hr
    cases s.renewNode t core with
    | error e => exact fun _ => trivial
    | ok x => exact fun hx => (hx : x.mem = s.mem) ▸ State.readmitAll_mem core t.stopped x
  · rfl

theorem execTeamResume_wf {team core : Nat} {s : State} (hs : Memory.wf s) : NextWf (execTeamResume team core s) := by
  refine whenRunning_wf hs ?_
  split
  case h_1 => exact hs
  case h_2 t _ =>
    split
    case h_1 ev n _ _ =>
      extract_lets live allot again
      have ha : OkHas (·.mem = s.mem) again := State.readmitted_mem s t core ev
      clear_value again
      split
      · exact hs
      · split
        · exact hs
        · show Memory.wf _
          cases again with
          | ok x => exact wf_of_mem ((State.restoreTeam_mem _ _ _ _ _).trans (ha : x.mem = s.mem)) hs
          | error c => exact hs
    case h_2 => exact hs

theorem execQueueSwitchOut_wf {q : Nat} {s : State} (hs : Memory.wf s) : NextWf (execQueueSwitchOut q s) := by
  refine whenRunning_wf hs ?_
  extract_lets x s1 mine s2
  split
  · exact hs
  · have h1 : Memory.wf s1 := hs
    have h2 : Memory.wf s2 := foldl_wf (fun _ p hx => State.wf_evictTeam p.1 hx) mine (State.wf_stopGathers q h1)
    exact wf_of_mem (State.finishSwitchOut_mem _ _) h2

theorem execQueueResume_wf {q : Nat} {s : State} (hs : Memory.wf s) : NextWf (execQueueResume q s) := by
  refine whenRunning_wf hs ?_
  dsimp only
  split <;> exact hs

/-! ### Events of registers, firmware, boot and the fabric -/

theorem execRegisterWrite_wf {link : Link} {off size : Nat} {v : BitVec 64} {s : State} (hs : Memory.wf s) :
    NextWf (execRegisterWrite link off size v s) := by
  unfold execRegisterWrite
  split
  · exact hs
  · split
    · split
      · exact hs
      · split
        · exact wf_of_mem (State.writeMailbox_mem _ _ _ _) hs
        · exact hs
    · split
      · exact wf_of_mem (State.writeMgmt_mem _ _ _ _ _) hs
      · exact hs

theorem execApertureAccess_wf {store : Bool} {off size : Nat} {v : BitVec 64} {s : State} (hs : Memory.wf s) :
    NextWf (execApertureAccess store off size v s) := by
  unfold execApertureAccess
  dsimp only
  split
  · exact hs
  · split
    · exact State.wf_markWaiting _ _ hs
    · exact hs
    · split
      · exact State.wf_markWaiting _ _ hs
      · exact ite_wf (State.wf_writeLocs _ hs) hs

theorem execGranuleAssignment_wf {granule oid : Nat} {s : State} (hs : Memory.wf s) :
    NextWf (execGranuleAssignment granule oid s) := by
  refine whenRunning_wf hs ?_
  split <;> exact hs

theorem execTranslationRootWrite_wf {oid pa : Nat} {s : State} (hs : Memory.wf s) :
    NextWf (execTranslationRootWrite oid pa s) := by
  refine whenRunning_wf hs ?_
  split <;> exact hs

theorem execHandlerImageLoad_wf {oid vbase len pool : Nat} {s : State} (hs : Memory.wf s) :
    NextWf (execHandlerImageLoad oid vbase len pool s) := by
  refine whenRunning_wf hs ?_
  split
  · exact hs
  · split
    · exact State.wf_markWaiting _ _ hs
    · split <;> exact hs

theorem execPowerOn_wf {s : State} (hs : Memory.wf s) : NextWf (execPowerOn s) := by
  have hc := State.wf_cold s
  unfold execPowerOn
  split
  · exact hs
  · dsimp only
    split
    · exact hc
    · split
      · exact hc
      · split <;> exact hc

theorem execTrip_wf {s : State} (hs : Memory.wf s) : NextWf (execTrip s) := by
  unfold execTrip
  split <;> exact hs

theorem execLifetimeLogWrite_wf {s : State} (hs : Memory.wf s) : NextWf (execLifetimeLogWrite s) := by
  unfold execLifetimeLogWrite
  split <;> exact hs

theorem execLoadkey_wf {s : State} (hs : Memory.wf s) : NextWf (execLoadkey s) := by
  refine command_wf hs ?_
  dsimp only
  split
  · exact hs
  · split <;> exact hs

theorem execWithdraw_wf {s : State} (hs : Memory.wf s) : NextWf (execWithdraw s) := by
  refine command_wf hs ?_
  dsimp only
  split
  · exact foldl_wf (fun _ p hx => State.wf_evictTeam p.1 hx) _ hs
  · exact hs

theorem execFabricRequest_wf {req : FabricReq} {s : State} (hs : Memory.wf s) : NextWf (execFabricRequest req s) := by
  refine whenRunning_wf hs ?_
  split
  · exact hs
  · split
    case h_1 =>
      extract_lets ss ds len
      split
      · exact hs
      · split
        · exact State.wf_markWaiting _ _ hs
        · exact hs
        · extract_lets held
          split
          · exact State.wf_markWaiting _ _ hs
          · split
            case h_1 => exact hs
            case h_2 x e =>
              have hx : x.mem = s.mem := (State.tryAdmit_mem s _ _ _ _ _).of_eq e
              exact State.wf_fabricCopy _ _ _ _ _ _ _ _ _ (wf_of_mem hx hs)
    case h_2 =>
      split
      · exact State.wf_takePacket _ hs
      · exact hs
    case h_3 =>
      split
      · exact hs
      · split
        · exact State.wf_markWaiting _ _ hs
        · exact hs
        · extract_lets ex
          split
          case h_1 => exact hs
          case h_2 x e =>
            have hx : x.mem = s.mem := (State.tryAdmit_mem s _ _ _ _ _).of_eq e
            exact wf_of_mem hx hs

theorem execFabricRelayRequest_wf {r : RelayReq} {s : State} (hs : Memory.wf s) :
    NextWf (execFabricRelayRequest r s) := by
  refine whenRunning_wf hs ?_
  extract_lets src req
  split
  extract_lets number taken
  split
  · exact hs
  · split
    · exact State.wf_markWaiting _ _ hs
    · exact hs
    · split
      · exact State.wf_markWaiting _ _ hs
      · extract_lets needs
        split
        case h_1 => exact hs
        case h_2 x e =>
          have hx : x.mem = s.mem := (State.tryAdmit_mem s _ _ _ _ _).of_eq e
          split
          · exact hs
          · exact wf_of_mem ((State.relaySend_mem _ _ _).trans hx) hs

theorem execUcieRetrain_wf {m : Nat} {trained : Bool} {s : State} (hs : Memory.wf s) :
    NextWf (execUcieRetrain m trained s) := by
  unfold execUcieRetrain
  split <;> exact hs

theorem execLaneRetrain_wf {lane : Nat} {s : State} (hs : Memory.wf s) : NextWf (execLaneRetrain lane s) := by
  refine whenPowered_wf hs ?_
  split <;> exact hs

theorem execSoftError_wf {region : Nat} {corrected : Bool} {node : Nat} {s : State} (hs : Memory.wf s) :
    NextWf (execSoftError region corrected node s) := by
  refine whenPowered_wf hs ?_
  split
  · exact hs
  · split
    · exact hs
    · extract_lets t
      have ht : Memory.wf t := hs
      show Memory.wf _
      split
      · exact ite_wf ht ht
      · exact ht

theorem execDroopEvent_wf {mv : Nat} {s : State} (hs : Memory.wf s) : NextWf (execDroopEvent mv s) := by
  refine whenPowered_wf hs ?_
  split <;> exact hs

/-! ### Every instruction keeps the form -/

theorem exec_native_wf {i : Instr} {s : State} (hn : (encodeFields i).isSome = true) (hs : Memory.wf s) :
    NextWf (exec i s) := by
  cases i
  case uadd | usub | umul | umulh | umulhu | udiv | urem | uand | uor | uxor | ushl | ushr | usar | umin | umax |
      uceq | uclt | ucltu | usel | uaddp | uaddImm | uandImm | uorImm | ushlImm | ushrImm | usarImm | uaddpi |
      umovi | srrd | srwr | opfence | exrd | exwr | exld | exsv | mand | mor | mxor | mnot | mrd | mwr | mpop |
      mwait | tidset | tidget | iadd | isub | imul | imulh | imulhu | imin | imax | iand | ior | ixor | ishl |
      ishr | isar | iceq | iclt | icltu | isel | p8add | p8sub | p8max | p8min | p16add | p16sub | p16mul | fadd |
      fsub | fmul | ffma | fmin | fmax | fceq | fclt | fcle | hadd2 | hfma2 | badd2 | bfma2 | iaddImm | iandImm |
      iorImm | ishlImm | ishrImm | isarImm | p8shl | p8shr | p8sar | p16shl | p16shr | p16sar | exp2 | log2 | rcp |
      rsqrt | sin | cos | cvt | cvts | vrd | vwr | lpush | lpull | imovi | pshift | prot | pspread | pfold |
      prefold | padd | psub | pmul | pmax | pmin | pdset | pdget | envclr | envins | envsum | envmax | envconv |
      envleg | enveval | envsimp | smxacc | smxfin =>
    dsimp only [exec]
    exact nativeHere_wf hs
  case bz | bnz | bra | call | callr | brr | ret | endLanes | trap | rfe | icinv | waitany | waitall | rcwait |
      bvz | bvnz =>
    dsimp only [exec, execBz, execBnz, execBra, execCall, execCallr, execBrr, execRet, execEndLanes, execTrap, execRfe,
      execIcinv, execWaitany, execWaitall, execRcwait, execBvz, execBvnz, uniBranch, regJump, laneBranch]
    exact closing_wf hs
  case replayToken => exact execReplayToken_wf hs
  case replayPage => exact execReplayPage_wf hs
  case fence =>
    dsimp only [exec, execFence]
    exact native_wf hs fun _ _ hx => hx
  case ffrdy =>
    dsimp only [exec, execFfrdy]
    exact native_wf hs fun _ _ hx => .bind fun _ => hx
  case rcprobe => exact execRcprobe_wf hs
  case bararv => exact execBararv_wf hs
  case barsync => exact execBarsync_wf hs
  case uldb | uldh | uldw | uldd | uldq | uldwAcq | ulddAcq | uldcw | uldcd => exact uniLoad_wf hs
  case ustb | usth | ustw | ustd | ustq | ustwRel | ustdRel => exact uniStore_wf hs
  case uaadd | uamin | uamax | uaand | uaor | uaxor | uaxchg | uacas => exact uniAtomic_wf hs
  case copy => exact execCopy_wf hs
  case gsjob => exact execGsjob_wf hs
  case rcall sw b narg nret sc => exact execRcall_wf (sc := sc) hs
  case mma => exact execMma_wf hs
  case mloop => exact execMloop_wf hs
  case mdrain => exact execMdrain_wf hs
  case mvstack => exact execMvstack_wf hs
  case quant2 => exact execQuant2_wf hs
  case immx => exact execImmx_wf hs
  case runend => exact execRunend_wf hs
  case ldb | ldh | ldw | ldd | ldq | ldwAcq | lddAcq | ldcw | ldcd => exact laneLoad_wf hs
  case stb | sth | stw | std | stq | stwRel | stdRel => exact laneStore_wf hs
  case aadd | amin | amax | aand | aor | axor | axchg | acas => exact laneAtomic_wf hs
  case envld => exact execEnvld_wf hs
  case envst => exact execEnvst_wf hs
  all_goals exact Bool.noConfusion (show false = true from hn)

theorem exec_dray_wf {i : Instr} {s : State} (hn : (encodeDray i).isSome = true) (hs : Memory.wf s) :
    NextWf (exec i s) := by
  obtain ⟨w, hw⟩ := Option.isSome_iff_exists.mp hn
  obtain ⟨f, h⟩ := exec_dray s hw
  rw [h]
  exact drayOp_wf hs

theorem exec_celud_wf {i : Instr} {s : State} (hn : (encodeCelud i).isSome = true) (hs : Memory.wf s) :
    NextWf (exec i s) := by
  cases i
  case celudDecl | celudFence | celudJmp | celudBrz | celudBrnz =>
    dsimp only [exec, execCeludDecl, execCeludFence, execCeludJmp, execCeludBrz, execCeludBrnz, celudBranch]
    exact celudOp_wf hs fun _ => hs
  case celudTid | celudNthr | celudMov | celudAdd | celudSub | celudMul | celudMulh | celudMin | celudMax |
      celudAnd | celudOr | celudXor | celudShl | celudShr | celudSar | celudCeq | celudClt | celudCltu | celudSel |
      celudAdd64 | celudFadd | celudFsub | celudFmul | celudFfma | celudFmin | celudFmax | celudFceq | celudFclt |
      celudFcle | celudSfn | celudCvt | celudHadd2 | celudHfma2 | celudBadd2 | celudBfma2 | celudDot2 =>
    exact celudReg1_wf hs
  case celudLd | celudLdc => exact celudLoad_wf hs
  case celudSt sc ord rev lit a b space size hint => exact execCeludSt_wf (rev := rev) (hint := hint) hs
  case celudAtom sc ord rev lit d a b space hint op => exact execCeludAtom_wf (rev := rev) (hint := hint) hs
  case celudBar => exact execCeludBar_wf hs
  case celudEnd => exact execCeludEnd_wf hs
  all_goals exact Bool.noConfusion (show false = true from hn)

theorem exec_event_wf {i : Instr} {s : State} (hn : Instr.isEvent i = true) (hs : Memory.wf s) :
    NextWf (exec i s) := by
  cases i
  case issueDecision => exact execIssueDecision_wf hs
  case coachOverdue | subgroupOverdue | shoot | reptok | apctlErrClear | pwrcapWrite => exact whenRunning_wf hs hs
  case powerLoss => exact State.wf_cold s
  case longResultReturn => exact execLongResultReturn_wf hs
  case memberLanesEnd => exact execMemberLanesEnd_wf hs
  case handlerEntry => exact execHandlerEntry_wf hs
  case overrun => exact execOverrun_wf hs
  case copyCompletion => exact execCopyCompletion_wf hs
  case gsjobCompletion => exact execGsjobCompletion_wf hs
  case drayRequestCompletion => exact execDrayRequestCompletion_wf hs
  case mvstackCompletion => exact execMvstackCompletion_wf hs
  case matrixJobCompletion => exact execMatrixJobCompletion_wf hs
  case matrixRendezvous => exact execMatrixRendezvous_wf hs
  case remoteFunctionStart => exact execRemoteFunctionStart_wf hs
  case reply => exact execReply_wf hs
  case callLost => exact execCallLost_wf hs
  case probeAnswer => exact execProbeAnswer_wf hs
  case swapRequest => exact execSwapRequest_wf hs
  case swapBegin => exact execSwapBegin_wf hs
  case qtailWrite | queueEnable | queueDisable | qcfgErrClear =>
    dsimp only [exec, execQtailWrite, execQueueEnable, execQueueDisable, execQcfgErrClear]
    exact hostQueue_wf hs
  case registerWrite => exact execRegisterWrite_wf hs
  case recordFetch => exact execRecordFetch_wf hs
  case dzitumTranslation => exact execDzitumTranslation_wf hs
  case nodeAdmission => exact execNodeAdmission_wf hs
  case teamLaunch => exact execTeamLaunch_wf hs
  case nodeCompletion => exact execNodeCompletion_wf hs
  case sliceExpiry => exact execSliceExpiry_wf hs
  case teamResume => exact execTeamResume_wf hs
  case stopOrder => exact execStopOrder_wf hs
  case engineAcknowledgement => exact execEngineAcknowledgement_wf hs
  case eviction => exact execEviction_wf hs
  case queueSwitchOut => exact execQueueSwitchOut_wf hs
  case queueResume => exact execQueueResume_wf hs
  case openCommand => exact execOpenCommand_wf hs
  case readCommand => exact execReadCommand_wf hs
  case wbackCommand => exact execWbackCommand_wf hs
  case closeCommand => exact execCloseCommand_wf hs
  case arbitrationWindow => exact execArbitrationWindow_wf hs
  case windowExpiry => exact execWindowExpiry_wf hs
  case drayKernelEnd => exact execDrayKernelEnd_wf hs
  case reductionPacket => exact execReductionPacket_wf hs
  case clockRatioChange => exact execClockRatioChange_wf hs
  case apertureAccess => exact execApertureAccess_wf hs
  case fabricRequest => exact execFabricRequest_wf hs
  case ucieRetrain => exact execUcieRetrain_wf hs
  case laneRetrain => exact execLaneRetrain_wf hs
  case softError => exact execSoftError_wf hs
  case powerOn => exact execPowerOn_wf hs
  case attest | getek =>
    dsimp only [exec, execAttest, execGetek]
    exact command_wf hs hs
  case loadkey => exact execLoadkey_wf hs
  case withdraw => exact execWithdraw_wf hs
  case trip => exact execTrip_wf hs
  case lifetimeLogWrite => exact execLifetimeLogWrite_wf hs
  case heldTranslationRelease => exact execHeldTranslationRelease_wf hs
  case granuleAssignment => exact execGranuleAssignment_wf hs
  case translationRootWrite => exact execTranslationRootWrite_wf hs
  case queueOidPmaxSet => exact execQueueOidPmaxSet_wf hs
  case fabricRelayRequest => exact execFabricRelayRequest_wf hs
  case handlerImageLoad => exact execHandlerImageLoad_wf hs
  case droopEvent => exact execDroopEvent_wf hs
  all_goals exact Bool.noConfusion (show false = true from hn)

/-- An instruction is a native one, a dray one, a Celud one or an event. -/
theorem Instr.kinds (i : Instr) : (encodeFields i).isSome = true ∨ (encodeDray i).isSome = true ∨
    (encodeCelud i).isSome = true ∨ Instr.isEvent i = true := by
  cases i
  case uadd | usub | umul | umulh | umulhu | udiv | urem | uand | uor | uxor | ushl | ushr | usar | umin | umax |
      uceq | uclt | ucltu | usel | uaddp | uaddImm | uandImm | uorImm | ushlImm | ushrImm | usarImm | uaddpi |
      umovi | bz | bnz | srrd | srwr | bra | call | callr | brr | ret | endLanes | trap | rfe | replayToken |
      replayPage | icinv | fence | opfence | waitany | waitall | ffrdy | rcwait | rcprobe | exrd | exwr | exld |
      exsv | mand | mor | mxor | mnot | mrd | mwr | mpop | bararv | barsync | uldb | uldh | uldw | uldd | uldq |
      ustb | usth | ustw | ustd | ustq | uldwAcq | ulddAcq | ustwRel | ustdRel | uldcw | uldcd | uaadd | uamin |
      uamax | uaand | uaor | uaxor | uaxchg | uacas | copy | gsjob | rcall | mma | mloop | mwait | mdrain |
      mvstack | quant2 | tidset | tidget | immx | runend | iadd | isub | imul | imulh | imulhu | imin | imax |
      iand | ior | ixor | ishl | ishr | isar | iceq | iclt | icltu | isel | p8add | p8sub | p8max | p8min | p16add |
      p16sub | p16mul | fadd | fsub | fmul | ffma | fmin | fmax | fceq | fclt | fcle | hadd2 | hfma2 | badd2 |
      bfma2 | iaddImm | iandImm | iorImm | ishlImm | ishrImm | isarImm | p8shl | p8shr | p8sar | p16shl | p16shr |
      p16sar | exp2 | log2 | rcp | rsqrt | sin | cos | cvt | cvts | vrd | vwr | lpush | lpull | imovi | bvz | bvnz |
      ldb | ldh | ldw | ldd | ldq | stb | sth | stw | std | stq | ldwAcq | lddAcq | stwRel | stdRel | ldcw | ldcd |
      aadd | amin | amax | aand | aor | axor | axchg | acas | pshift | prot | pspread | pfold | prefold | padd |
      psub | pmul | pmax | pmin | pdset | pdget | envclr | envins | envsum | envmax | envconv | envleg | enveval |
      envld | envst | envsimp | smxacc | smxfin =>
    exact .inl rfl
  case aend | jmovi | jaddi | jadd | jloop | drayOpen | drayRead | drayWback | drayClose | xend | xpop | xadd |
      xmul | xfma | xmax | xmin | xset | xacc | xrel | xcmovi | xloop =>
    exact .inr (.inl rfl)
  case celudDecl | celudTid | celudNthr | celudMov | celudAdd | celudSub | celudMul | celudMulh | celudMin |
      celudMax | celudAnd | celudOr | celudXor | celudShl | celudShr | celudSar | celudCeq | celudClt | celudCltu |
      celudSel | celudAdd64 | celudFadd | celudFsub | celudFmul | celudFfma | celudFmin | celudFmax | celudFceq |
      celudFclt | celudFcle | celudSfn | celudCvt | celudHadd2 | celudHfma2 | celudBadd2 | celudBfma2 | celudDot2 |
      celudLd | celudSt | celudLdc | celudAtom | celudFence | celudBar | celudJmp | celudBrz | celudBrnz |
      celudEnd =>
    exact .inr (.inr (.inl rfl))
  all_goals exact .inr (.inr (.inr rfl))

theorem exec_wf {s : State} (i : Instr) (hs : Memory.wf s) : NextWf (exec i s) := by
  obtain h | h | h | h := Instr.kinds i
  · exact exec_native_wf h hs
  · exact exec_dray_wf h hs
  · exact exec_celud_wf h hs
  · exact exec_event_wf h hs

/-! ### Every move, and so every step, keeps the form -/

theorem State.issueWord_wf {s : State} (hs : Memory.wf s) : NextWf s.issueWord := by
  unfold State.issueWord
  split
  · exact hs
  · split
    · exact State.wf_markWaiting _ _ hs
    · exact State.wf_stopWith _ _ hs
    · split
      · exact State.wf_closerTrap _ _ hs
      · dsimp only
        split
        · exact exec_wf _ (State.wf_put _ hs)
        · exact native_wf (State.wf_put _ hs) fun _ _ _ => trivial

theorem State.runHalf_wf {s : State} (half : Nat) (hs : Memory.wf s) : NextWf (s.runHalf half) := by
  unfold State.runHalf
  split
  · exact hs
  · split
    · exact hs
    · split
      · exact State.issueWord_wf hs
      · exact hs

theorem State.runRemote_wf {s : State} (ex : Nat) (hs : Memory.wf s) : NextWf (s.runRemote ex) := by
  have hx : Memory.wf { s.settle (.remote ex) [0] with cur := .remote ex, curSub := 0 } :=
    wf_of_mem (State.settle_mem s (.remote ex) [0]) hs
  unfold State.runRemote
  dsimp only
  split
  · exact hx
  · split
    · exact State.issueWord_wf (wf_of_mem (State.modCtx_mem _ _ _) hx)
    · exact hx

theorem State.runThread_wf {s : State} (team n : Nat) (i : Instr) (hs : Memory.wf s) :
    NextWf (s.runThread team n i) := by
  unfold State.runThread
  dsimp only
  split
  · exact hs
  · split
    · exact hs
    · split
      · exact exec_wf i hs
      · exact hs

theorem State.runDray_wf {s : State} (chan : Nat) (addr : Bool) (hs : Memory.wf s) :
    NextWf (s.runDray chan addr) := by
  unfold State.runDray
  dsimp only
  split
  · exact hs
  · split
    · exact hs
    · exact hs
    · split
      · split
        · exact exec_wf _ hs
        · exact hs
      · exact hs

theorem State.runMove_wf {s : State} (m : Move) (hs : Memory.wf s) : NextWf (s.runMove m) := by
  cases m with
  | event i =>
    show NextWf (if Instr.isEvent i then exec i { s with now := some (.event i) } else .next _)
    split
    · exact exec_wf i hs
    · exact hs
  | word half => exact whenRunning_wf hs (State.runHalf_wf half hs)
  | remote ex => exact whenRunning_wf hs (State.runRemote_wf ex hs)
  | thread team n i => exact whenRunning_wf hs (State.runThread_wf team n i hs)
  | drayA chan => exact whenRunning_wf hs (State.runDray_wf chan true hs)
  | drayX chan => exact whenRunning_wf hs (State.runDray_wf chan false hs)
  | overrun node => exact execOverrun_wf hs
  | callLost call => exact execCallLost_wf hs
  | entry team coach => exact execHandlerEntry_wf hs
  | serve => exact whenRunning_wf hs (State.wf_serveFree hs)

theorem step_wf {s : State} (hs : Memory.wf s) : NextWf (step s) := by
  have hp : Memory.wf { s with tick := s.tick + 1 }.passTime := wf_of_mem (State.passTime_mem _) hs
  unfold step
  dsimp only
  split
  · exact State.runMove_wf _ hs
  · split
    · exact State.runMove_wf _ hp
    · exact State.runMove_wf _ hp

/-- Settles O56. Every operation of the state either leaves storage as it is or puts bytes into it in order, and an
instruction is made of such operations. -/
theorem stepKeepsMemoryForm : Obligations.StepKeepsMemoryForm := by
  intro s s' hs h
  have hn := step_wf hs
  rw [h] at hn
  exact hn

end Sys2Proof.Machine
end

section
/-!
SUPPORT. No word runs without its issuer: what a decoder answers issues in the frame of its decoder, and the issuer of that
frame stands where the word was fetched.
-/

namespace Sys2Proof.Machine

theorem SomeHas.ite {α : Type} {P : α → Prop} {p : Prop} [Decidable p] {x y : Option α} (hx : SomeHas P x)
    (hy : SomeHas P y) : SomeHas P (if p then x else y) := by
  split
  · exact hx
  · exact hy

/-- An instruction that has a native word. -/
abbrev Instr.Native (i : Instr) : Prop := (encodeFields i).isSome = true

theorem decodeUniform_native (sw : Bool) (n k : Nat) : SomeHas Instr.Native (decodeUniform sw n k) := by
  unfold decodeUniform
  split
  all_goals repeat' refine SomeHas.ite rfl ?_
  any_goals exact rfl
  all_goals exact trivial

theorem decodeLane_native (sw : Bool) (n k : Nat) : SomeHas Instr.Native (decodeLane sw n k) := by
  unfold decodeLane
  split
  all_goals repeat' refine SomeHas.ite rfl ?_
  any_goals exact rfl
  all_goals exact trivial

theorem native_of_decode {w : Word} {i : Instr} (h : decode w = some i) : Instr.Native i := by
  obtain ⟨hd, -⟩ := Option.filter_eq_some_iff.mp h
  have hs : SomeHas Instr.Native (decodeFields w.toNat) := .ite (decodeUniform_native _ _ _) (decodeLane_native _ _ _)
  exact hs.of_eq hd

/-- An instruction of the arithmetic thread of a dray, or of its address thread. -/
abbrev Instr.Dray (x : Bool) (i : Instr) : Prop := (encodeDray i).isSome = true ∧ i.drayArithmetic = x

theorem decodeDrayA_dray (n k : Nat) : SomeHas (Instr.Dray false) (decodeDrayA n k) := by
  unfold decodeDrayA
  split
  all_goals repeat' refine SomeHas.ite ⟨rfl, rfl⟩ ?_
  any_goals exact And.intro rfl rfl
  all_goals exact trivial

theorem decodeDrayX_dray (n k : Nat) : SomeHas (Instr.Dray true) (decodeDrayX n k) := by
  unfold decodeDrayX
  split
  all_goals repeat' refine SomeHas.ite ⟨rfl, rfl⟩ ?_
  all_goals exact trivial

theorem dray_of_decodeDray {w : Word} {i : Instr} (h : decodeDray w = some i) : Instr.Dray (fld w.toNat 31 1 == 1) i := by
  unfold decodeDray at h
  split at h
  case isTrue hx =>
    rw [hx]
    exact (decodeDrayX_dray _ _).of_eq h
  case isFalse hx =>
    rw [Bool.eq_false_iff.mpr hx]
    exact (decodeDrayA_dray _ _).of_eq h

theorem celud_of_isCelud {i : Instr} {w next : BitVec 64} (h : isCelud i w next = true) : (encodeCelud i).isSome = true := by
  unfold isCelud at h
  split at h
  case h_1 => exact absurd h Bool.false_ne_true
  case h_2 e => rw [e]; rfl

/-- A sub-group that takes the place of one with its number is found where that one was. -/
theorem Coach.sub_setSub_isSome {c : Coach} {id : Nat} {g g' : SubGroup} (h : c.sub id = some g) (hg : g'.id = g.id) :
    ((c.setSub g').sub id).isSome = true := by
  have hid : g.id = id := by simpa using List.find?_some h
  have hmem : g ∈ c.subs := List.mem_of_find?_eq_some h
  refine List.find?_isSome.mpr ⟨g', List.mem_map.mpr ⟨g, hmem, ?_⟩, ?_⟩
  · simp [hg]
  · simp [hg, hid]

theorem State.running_modCall {s : State} {ex k : Nat} {call : Call} (f : Call → Call) (h : s.running ex = some (k, call)) :
    (s.modCall k f).running ex = some (k, f call) := by
  unfold State.running at h
  split at h
  · cases h
  case h_2 e he =>
    split at h
    · cases h
    case h_2 k' hk =>
      obtain ⟨call', hc, e'⟩ := Option.map_eq_some_iff.mp h
      cases e'
      simp [State.running, State.modCall, he, hk, hc]

/-- The issuer is still there when its run has been noted. -/
theorem State.here_put_setRun {s : State} {h : Here} (r : Run) (hh : s.here = some h) :
    ∃ k, (s.put (h.setRun r)).here = some k := by
  rw [← Option.isSome_iff_exists]
  unfold State.here at hh
  split at hh
  case h_1 team ci hc =>
    split at hh
    · cases hh
    case h_2 t c e =>
      obtain ⟨g, hg, rfl⟩ := Option.map_eq_some_iff.mp hh
      unfold State.coach at e
      split at e
      · cases e
      case h_2 t' et =>
        obtain ⟨c', hc', e'⟩ := Option.map_eq_some_iff.mp e
        cases e'
        have hlt : ci < t.coaches.length := (List.getElem?_eq_some_iff.mp hc').1
        have hsub := Coach.sub_setSub_isSome (g' := { g with run := some r }) hg rfl
        simp [State.here, State.put, Here.setRun, hc, State.coach, et, hlt, hsub]
  case h_2 ex hc =>
    split at hh
    · cases hh
    case h_2 k call e =>
      split at hh
      · cases hh
      case h_2 c hfn =>
        obtain ⟨g, hg, rfl⟩ := Option.map_eq_some_iff.mp hh
        have hsub := Coach.sub_setSub_isSome (g' := { g with run := some r }) hg rfl
        simp [State.here, State.put, Here.setRun, hc, e, State.running_modCall _ e, hsub]
  case h_3 => cases hh

theorem exec_native_next {i : Instr} {s : State} {h : Here} (hi : Instr.Native i) (hh : s.here = some h) :
    ∃ t, exec i s = .next t := by
  by_cases hx : ∃ imm, i = .immx imm
  · obtain ⟨imm, rfl⟩ := hx
    show ∃ t, execImmx imm s = .next t
    unfold execImmx
    rw [hh]
    dsimp only
    repeat' split
    all_goals exact ⟨_, rfl⟩
  by_cases hr : ∃ p w, i = .runend p w
  · obtain ⟨p, w, rfl⟩ := hr
    show ∃ t, execRunend p w s = .next t
    unfold execRunend
    rw [hh]
    dsimp only
    split
    all_goals exact ⟨_, rfl⟩
  obtain ⟨sw, body, e | e⟩ := exec_native s hi (fun imm e => hx ⟨imm, e⟩) (fun p w e => hr ⟨p, w, e⟩)
  · rw [e]
    exact native_next hh
  · rw [e]
    exact barrierOp_next hh

theorem exec_dray_next {i : Instr} {s : State} {x : Bool} {ch : Nat} {d : Dray} (hi : Instr.Dray x i)
    (hh : s.drayHere = some (ch, !x, d)) : ∃ t, exec i s = .next t := by
  obtain ⟨w, hw⟩ := Option.isSome_iff_exists.mp hi.1
  obtain ⟨f, e⟩ := exec_dray s hw
  rw [e, hi.2]
  exact drayOp_next hh

theorem exec_celud_next {i : Instr} {s : State} {h : CelHere} (hi : (encodeCelud i).isSome = true)
    (hh : s.celudHere = some h) : ∃ t, exec i s = .next t := by
  obtain ⟨f, r, e⟩ := exec_celud s hi
  rw [e]
  exact celudOp_next hh

theorem State.issueWord_next (s : State) : ∃ t, s.issueWord = .next t := by
  unfold State.issueWord
  split
  · exact ⟨_, rfl⟩
  case h_2 h hh =>
    split
    · exact ⟨_, rfl⟩
    · exact ⟨_, rfl⟩
    case h_3 w _ =>
      split
      · exact ⟨_, rfl⟩
      · obtain ⟨k, hk⟩ := State.here_put_setRun { h.run with word := w } hh
        dsimp only
        split
        case h_1 i hd => exact exec_native_next (native_of_decode hd) hk
        case h_2 => exact native_next hk

theorem State.runHalf_next (s : State) (half : Nat) : ∃ t, s.runHalf half = .next t := by
  unfold State.runHalf
  split
  · exact ⟨_, rfl⟩
  · split
    · exact ⟨_, rfl⟩
    · split
      · exact State.issueWord_next _
      · exact ⟨_, rfl⟩

theorem State.runRemote_next (s : State) (ex : Nat) : ∃ t, s.runRemote ex = .next t := by
  unfold State.runRemote
  dsimp only
  split
  · exact ⟨_, rfl⟩
  · split
    · exact State.issueWord_next _
    · exact ⟨_, rfl⟩

theorem State.runThread_next (s : State) (team n : Nat) (i : Instr) : ∃ t, s.runThread team n i = .next t := by
  unfold State.runThread
  dsimp only
  split
  · exact ⟨_, rfl⟩
  case h_2 h hh =>
    split
    · exact ⟨_, rfl⟩
    · split
      case isTrue hw => exact exec_celud_next (celud_of_isCelud hw) hh
      case isFalse => exact ⟨_, rfl⟩

theorem State.runDray_next (s : State) (chan : Nat) (addr : Bool) : ∃ t, s.runDray chan addr = .next t := by
  unfold State.runDray
  dsimp only
  split
  · exact ⟨_, rfl⟩
  case h_2 d hd =>
    split
    · exact ⟨_, rfl⟩
    · exact ⟨_, rfl⟩
    case h_3 w _ =>
      split
      case h_2 => exact ⟨_, rfl⟩
      case h_1 i hw =>
        split
        case isFalse => exact ⟨_, rfl⟩
        case isTrue hx =>
          have hb : (fld w.toNat 31 1 == 1) = !addr := by rw [hx]; cases addr <;> rfl
          have hi : Instr.Dray (!addr) i := hb ▸ dray_of_decodeDray hw
          refine exec_dray_next hi (d := d) (ch := chan) ?_
          cases addr <;> simp [State.drayHere, hd]

theorem State.runMove_next (s : State) (m : Move) : ∃ t, s.runMove m = .next t := by
  cases m with
  | event i =>
    show ∃ t, (if Instr.isEvent i then exec i { s with now := some (.event i) } else .next _) = .next t
    split
    case isTrue hi => exact exec_event _ hi
    case isFalse => exact ⟨_, rfl⟩
  | word half => exact whenRunning_next (State.runHalf_next _ half)
  | remote ex => exact whenRunning_next (State.runRemote_next _ ex)
  | thread team n i => exact whenRunning_next (State.runThread_next _ team n i)
  | drayA chan => exact whenRunning_next (State.runDray_next _ chan true)
  | drayX chan => exact whenRunning_next (State.runDray_next _ chan false)
  | overrun node => exact exec_event (i := .overrun node) _ rfl
  | callLost call => exact exec_event (i := .callLost call) _ rfl
  | entry team coach => exact exec_event (i := .handlerEntry team coach) _ rfl
  | serve => exact whenRunning_next ⟨_, rfl⟩

/-- Settles O57. A word is executed only where its issuer stands and only in the frame that its decoder names, so no frame
finds its issuer missing; every other move answers by itself. -/
theorem stepNeverStops : Obligations.StepNeverStops := by
  intro s
  unfold State.proceeds step
  dsimp only
  split
  · exact State.runMove_next _ _
  · split
    · exact State.runMove_next _ _
    · exact State.runMove_next _ _

end Sys2Proof.Machine
end

section
/-!
SUPPORT. What a write of bytes leaves as it was: the places outside its bytes, byte by byte, and the fields of the state that
no write reaches.
-/

namespace Sys2Proof.Machine

open Sys2Proof.Claims

/-! ### Places -/

theorem Loc.plus_plus (l : Loc) (i j : Nat) : (l.plus i).plus j = l.plus (i + j) := by
  cases l <;> simp [Loc.plus, Nat.add_assoc]

theorem Loc.plus_zero (l : Loc) : l.plus 0 = l := by cases l <;> rfl

/-- A place outside some bytes is outside the first of them. -/
theorem not_sameByte_of_outside {l x : Loc} {n : Nat} (h : Outside l x (n + 1)) : ¬ SameByte l x := by
  have h0 := h 0 (Nat.succ_pos n)
  rwa [Loc.plus_zero] at h0

/-- A place outside some bytes is outside those that follow the first. -/
theorem outside_plus_one {l x : Loc} {n : Nat} (h : Outside l x (n + 1)) : Outside l (x.plus 1) n := by
  intro i hi
  have hs := h (1 + i) (by omega)
  rwa [Loc.plus_plus]

theorem keepsSector_plus_one {key reader : Nat} {l x : Loc} {n : Nat} (h : KeepsSector key reader l x (n + 1)) :
    KeepsSector key reader l (x.plus 1) n := by
  rintro a b hl hx ⟨i, hi, hs⟩
  cases x with
  | core t o => cases hx
  | lane t k o => cases hx
  | sto y =>
    cases hx
    exact h a y hl rfl ⟨i + 1, by omega, by rwa [Nat.add_comm i 1, ← Nat.add_assoc]⟩

/-! ### One byte -/

@[simp] theorem State.keyOf_writeLoc (s : State) (oid : Nat) (l : Loc) (b : Byte) (r : Nat) :
    (s.writeLoc oid l b).keyOf r = s.keyOf r := by
  cases l <;> rfl

theorem State.keyOf_ne_zero (s : State) (oid : Nat) : s.keyOf oid ≠ 0 := by
  unfold State.keyOf
  omega

/-- Entries put under some keys leave every other key as it was. -/
theorem Cells.find_foldl_put_ne {α : Type} {g : Nat → Nat} {f : Nat → α} {k : Nat} :
    ∀ {l : List Nat} (c : Cells α), (∀ i ∈ l, k ≠ g i) →
      Cells.find (l.foldl (fun c i => Cells.put c (g i) (f (g i))) c) k = Cells.find c k
  | [], _, _ => rfl
  | i :: l, c, h => by
    rw [List.foldl_cons, Cells.find_foldl_put_ne _ fun j hj => h j (List.mem_cons_of_mem i hj)]
    exact Cells.find_put_ne c _ (h i List.mem_cons_self)

/-- Entries put under some keys are found under each of them. -/
theorem Cells.find_foldl_put_self {α : Type} {g : Nat → Nat} {f : Nat → α} {k : Nat} :
    ∀ {l : List Nat} (c : Cells α), (∃ i ∈ l, g i = k) ∨ Cells.find c k = some (f k) →
      Cells.find (l.foldl (fun c i => Cells.put c (g i) (f (g i))) c) k = some (f k)
  | [], c, h => by simpa using h
  | i :: l, c, h => by
    rw [List.foldl_cons]
    refine Cells.find_foldl_put_self _ ?_
    by_cases hk : g i = k
    · exact .inr (by rw [hk, Cells.find_put_self])
    · rw [Cells.find_put_ne c _ (Ne.symm hk)]
      simpa [hk] using h

/-- A line refilled keeps who wrote each sector. -/
theorem State.refilled_owner (s : State) (key a : Nat) : (s.refilled key a).owner = s.mem.owner := by
  unfold State.refilled
  dsimp only
  split <;> rfl

/-- A line refilled under the key that it stands under, or that stands under none, keeps its bytes. -/
theorem State.refilled_own {s : State} {key a : Nat}
    (h : Cells.get 0 s.mem.owner (a / 32) = key ∨ Cells.get 0 s.mem.owner (a / 32) = 0) : s.refilled key a = s.mem := by
  unfold State.refilled
  dsimp only
  rw [if_pos (by simpa using h)]

/-- A line refilled under another key holds what its ciphertext decrypts to. -/
theorem State.find_refilled_alien {s : State} {key a c : Nat} (hk : Cells.get 0 s.mem.owner (a / 32) ≠ key)
    (h0 : Cells.get 0 s.mem.owner (a / 32) ≠ 0) (hc : c / 32 = a / 32) :
    Cells.find (s.refilled key a).bytes c = some (s.alienByte (Cells.get 0 s.mem.owner (a / 32)) key c) := by
  unfold State.refilled
  dsimp only
  rw [if_neg (by simp [hk, h0])]
  have hm : ∃ i ∈ List.range 32, 32 * (a / 32) + i = c := ⟨c % 32, List.mem_range.mpr (by omega), by omega⟩
  generalize List.range 32 = l at hm ⊢
  exact Cells.find_foldl_put_self (g := (32 * (a / 32) + ·)) (f := s.alienByte (Cells.get 0 s.mem.owner (a / 32)) key) _
    (.inl hm)

/-- A line refilled keeps the bytes of every other sector. -/
theorem State.find_refilled_ne {s : State} {key a c : Nat} (h : c / 32 ≠ a / 32) :
    Cells.find (s.refilled key a).bytes c = Cells.find s.mem.bytes c := by
  unfold State.refilled
  dsimp only
  split
  · rfl
  · have hm : ∀ i ∈ List.range 32, c ≠ 32 * (a / 32) + i := fun i hi => by
      have := List.mem_range.mp hi
      omega
    generalize List.range 32 = l at hm ⊢
    exact Cells.find_foldl_put_ne (g := (32 * (a / 32) + ·)) (f := s.alienByte (Cells.get 0 s.mem.owner (a / 32)) key) _ hm

/-- A sector reads as it did where its bytes and its key are as they were. -/
theorem State.readSto_congr {s x : State} {r a : Nat} (ht : x.tick = s.tick) (hb : x.keyBits = s.keyBits)
    (he : x.epochs = s.epochs) (ho : Cells.get 0 x.mem.owner (a / 32) = Cells.get 0 s.mem.owner (a / 32))
    (hm : ∀ c, c / 32 = a / 32 → Cells.find x.mem.bytes c = Cells.find s.mem.bytes c) : x.readSto r a = s.readSto r a := by
  have hk : x.keyOf r = s.keyOf r := by unfold State.keyOf; rw [he]
  have hsec : x.sector (a / 32) = s.sector (a / 32) := by
    unfold State.sector
    rw [List.foldl_ext _ _ 0 fun n i hi => by rw [hm _ (by have := List.mem_range.mp hi; omega), ht]]
  unfold State.readSto
  dsimp only
  unfold State.alienByte State.bitsOf
  rw [hk, ho, hm a rfl, ht, hb, hsec]

/-- A byte of storage written leaves every byte of another sector, and in its own sector what its own key reads. -/
theorem State.readSto_writeSto_ne {s : State} {oid r a c : Nat} (b : Byte) (hs : Memory.wf s) (hne : c ≠ a)
    (hk : c / 32 = a / 32 → s.keyOf r = s.keyOf oid) : (s.writeSto oid a b).readSto r c = s.readSto r c := by
  by_cases hsec : c / 32 = a / 32
  · have hrising := (Cells.wf_iff.mp (Storage.wf_iff.mp (State.wf_refilled (s.keyOf oid) a hs)).2.1).1
    have ho : Cells.get 0 (s.writeSto oid a b).mem.owner (c / 32) = s.keyOf oid := by
      rw [hsec]
      exact Cells.get_set_self 0 (a / 32) (s.keyOf oid) hrising
    have hb : Cells.find (s.writeSto oid a b).mem.bytes c = Cells.find (s.refilled (s.keyOf oid) a).bytes c :=
      Cells.find_put_ne _ b hne
    have hr : (s.writeSto oid a b).keyOf r = s.keyOf oid := hk hsec
    have ht : (s.writeSto oid a b).tick = s.tick := rfl
    unfold State.readSto
    dsimp only
    rw [ho, hr, hb, hk hsec, ht, if_pos (by simp)]
    split
    case isTrue hw =>
      rw [State.refilled_own (by simpa [hsec] using hw)]
    case isFalse hw =>
      rw [hsec] at hw ⊢
      obtain ⟨h1, h2⟩ := not_or.mp (by simpa using hw)
      rw [State.find_refilled_alien h1 h2 hsec]
      rfl
  · refine State.readSto_congr rfl rfl rfl ?_ fun d hd => ?_
    · show Cells.get 0 (Cells.set 0 (s.refilled (s.keyOf oid) a).owner (a / 32) (s.keyOf oid)) (c / 32) = _
      rw [Cells.get_set_ne 0 _ _ hsec, State.refilled_owner]
    · show Cells.find (Cells.put (s.refilled (s.keyOf oid) a).bytes a b) d = _
      rw [Cells.find_put_ne _ b (fun e => hsec (e ▸ hd).symm), State.find_refilled_ne (fun e => hsec (hd ▸ e))]

/-- One byte written leaves every other place, unless it is read under another key in the sector of the byte. -/
theorem State.readLoc_writeLoc_ne {s : State} {oid r : Nat} {l x : Loc} (b : Byte) (hs : Memory.wf s) (hne : ¬ SameByte l x)
    (hk : ∀ c a, l = .sto c → x = .sto a → c / 32 = a / 32 → s.keyOf r = s.keyOf oid) :
    (s.writeLoc oid x b).readLoc r l = s.readLoc r l := by
  cases x with
  | sto a =>
    cases l with
    | core t o => rfl
    | lane t k o => rfl
    | sto c => exact State.readSto_writeSto_ne (s := s.unpost (.sto a)) b hs (fun e => hne (e ▸ rfl)) (hk c a rfl rfl)
  | core u p =>
    cases l with
    | core t o =>
      by_cases ht : t = u
      · subst ht
        have ho : o ≠ p := fun e => hne (e ▸ rfl)
        simp only [State.readLoc, State.writeLoc, State.unpost, Cells.find_modify_self]
        cases Cells.find s.teams t with
        | none => rfl
        | some y => exact Cells.get_set_ne 0 y.scratch b ho
      · simp only [State.readLoc, State.writeLoc, State.unpost, Cells.find_modify_ne _ _ ht]
    | lane t k o =>
      by_cases ht : t = u
      · subst ht
        simp only [State.readLoc, State.writeLoc, State.unpost, Cells.find_modify_self]
        cases Cells.find s.teams t <;> rfl
      · simp only [State.readLoc, State.writeLoc, State.unpost, Cells.find_modify_ne _ _ ht]
    | sto c => rfl
  | lane u m p =>
    cases l with
    | core t o =>
      by_cases ht : t = u
      · subst ht
        simp only [State.readLoc, State.writeLoc, State.unpost, Cells.find_modify_self]
        cases Cells.find s.teams t <;> rfl
      · simp only [State.readLoc, State.writeLoc, State.unpost, Cells.find_modify_ne _ _ ht]
    | lane t k o =>
      by_cases ht : t = u
      · subst ht
        have ho : k * 8192 + o ≠ m * 8192 + p := fun e => hne ⟨rfl, e⟩
        simp only [State.readLoc, State.writeLoc, State.unpost, Cells.find_modify_self]
        cases Cells.find s.teams t with
        | none => rfl
        | some y => exact Cells.get_set_ne 0 y.lanes b ho
      · simp only [State.readLoc, State.writeLoc, State.unpost, Cells.find_modify_ne _ _ ht]
    | sto c => rfl

/-! ### Bytes from a place upward -/

theorem State.readLoc_writeLocs_outside {oid r : Nat} {l : Loc} : ∀ {bs : List Byte} {s : State} {x : Loc}, Memory.wf s →
    Outside l x bs.length → KeepsSector (s.keyOf oid) (s.keyOf r) l x bs.length →
    (s.writeLocs oid x bs).readLoc r l = s.readLoc r l
  | [], _, _, _, _, _ => rfl
  | b :: bs, s, x, hs, ho, hk => by
    have hrest : ((s.writeLoc oid x b).writeLocs oid (x.plus 1) bs).readLoc r l = (s.writeLoc oid x b).readLoc r l := by
      refine State.readLoc_writeLocs_outside (State.wf_writeLoc oid x b hs) (outside_plus_one ho) ?_
      rw [State.keyOf_writeLoc, State.keyOf_writeLoc]
      exact keepsSector_plus_one hk
    refine hrest.trans (State.readLoc_writeLoc_ne b hs (not_sameByte_of_outside ho) fun c a hl hx hc => ?_)
    exact hk c a hl hx ⟨0, Nat.succ_pos _, hc.symm⟩

theorem State.readStoN_succ (s : State) (oid a n : Nat) :
    s.readStoN oid a (n + 1) = s.readSto oid a :: s.readStoN oid (a + 1) n := by
  unfold State.readStoN
  rw [List.range_succ_eq_map, List.map_cons, List.map_map]
  congr 1
  exact List.map_congr_left fun i _ => by rw [Function.comp_apply, Nat.succ_eq_add_one, Nat.add_comm i 1, Nat.add_assoc]

theorem State.readStoN_writeLocs {oid : Nat} : ∀ {bs : List Byte} {s : State} {a : Nat}, Memory.wf s →
    (s.writeLocs oid (.sto a) bs).readStoN oid a bs.length = bs
  | [], _, _, _ => rfl
  | b :: bs, s, a, hs => by
    have h1 := State.wf_writeLoc oid (.sto a) b hs
    rw [List.length_cons, State.readStoN_succ]
    congr 1
    · have hout : Outside (.sto a) ((Loc.sto a).plus 1) bs.length := by
        intro i _ h
        have ha : a = a + 1 + i := Loc.sto.inj h
        omega
      calc ((s.writeLoc oid (.sto a) b).writeLocs oid ((Loc.sto a).plus 1) bs).readSto oid a
          = (s.writeLoc oid (.sto a) b).readSto oid a :=
            State.readLoc_writeLocs_outside (l := .sto a) h1 hout fun _ _ _ _ _ => rfl
        _ = b := State.readSto_writeSto_self (s := s.unpost (.sto a)) oid a b hs
    · exact State.readStoN_writeLocs h1

/-- Bytes written to storage change storage and the releases that stood in it. -/
theorem State.writeLocs_sto (oid : Nat) : ∀ (bs : List Byte) (s : State) (a : Nat),
    ∃ m p, s.writeLocs oid (.sto a) bs = { s with mem := m, posts := p }
  | [], _, _ => ⟨_, _, rfl⟩
  | b :: bs, s, a => State.writeLocs_sto oid bs (s.writeLoc oid (.sto a) b) (a + 1)

/-! ### What an access leaves behind -/

theorem State.cacheLeaf_eq (s : State) (cluster : Option Nat) (oid va leaf lvl : Nat) :
    ∃ t, s.cacheLeaf cluster oid va leaf lvl = { s with tlb := t } := by
  unfold State.cacheLeaf
  split
  · exact ⟨_, rfl⟩
  · split <;> exact ⟨_, rfl⟩

theorem State.noteAccess_eq (s : State) (ag : Agent) (space ea : Nat) (l : Loc) (leaf : Nat) :
    ∃ t u, s.noteAccess ag space ea l leaf = { s with tlb := t, stable := u } := by
  obtain ⟨t, ht⟩ := State.cacheLeaf_eq s ag.cluster ag.oid ea leaf (3 - fld leaf 2 2)
  unfold State.noteAccess
  dsimp only
  rw [ht]
  split
  · split
    · split <;> exact ⟨_, _, rfl⟩
    · exact ⟨_, _, rfl⟩
  · exact ⟨_, _, rfl⟩

theorem State.noteAll_eq (ag : Agent) (space : Nat) : ∀ (cs : List Checked) (s : State),
    ∃ t u, s.noteAll ag space cs = { s with tlb := t, stable := u }
  | [], _ => ⟨_, _, rfl⟩
  | c :: cs, s => by
    obtain ⟨t, u, hc⟩ := State.noteAccess_eq s ag space c.ea.toNat c.loc c.leaf
    obtain ⟨t', u', hr⟩ := State.noteAll_eq ag space cs (s.noteAccess ag space c.ea.toNat c.loc c.leaf)
    exact ⟨t', u', hr.trans (by rw [hc])⟩

/-- Settles O58, by induction on the bytes: one byte changes its own place, its sector under another key and the releases
that stood in it. -/
theorem storesChangeTheirBytesOnly : Obligations.StoresChangeTheirBytesOnly := by
  refine ⟨fun s ag x bs l oid hs ho hk => ?_, fun s ag a bs hs => ?_, fun s ag a bs => ?_, fun s ag sp cs => ?_⟩
  · exact State.readLoc_writeLocs_outside (s := s.spoil ag.oid [x.piece bs.length]) hs ho hk
  · exact State.readStoN_writeLocs (s := s.spoil ag.oid [(Loc.sto a).piece bs.length]) hs
  · obtain ⟨m, p, e⟩ := State.writeLocs_sto ag.oid bs (s.spoil ag.oid [(Loc.sto a).piece bs.length]) a
    rw [show s.writeData ag (.sto a) bs = { s.spoil ag.oid [(Loc.sto a).piece bs.length] with mem := m, posts := p } from e]
    rfl
  · obtain ⟨t, u, e⟩ := State.noteAll_eq ag sp cs s
    rw [e]

end Sys2Proof.Machine
end

section
/-!
SUPPORT. What a write of QTAIL and of QCFG makes of a queue, and which window a write of the device reaches over each link.
-/

namespace Sys2Proof.Machine

open Sys2Proof.Claims

/-! ### The queue registers -/

/-- A one-bit field is the bit of the number. -/
theorem fld_one_eq_one (v : Word) (k : Nat) : fld v.toNat k 1 = 1 ↔ bitOf v k = true := by
  unfold fld bitOf BitVec.getLsbD
  rw [Nat.testBit_eq_decide_div_mod_eq]
  simp

theorem fld_one_eq_zero (v : Word) (k : Nat) : fld v.toNat k 1 = 0 ↔ bitOf v k = false := by
  rw [← Bool.not_eq_true, ← fld_one_eq_one]
  unfold fld
  omega

/-- A write of QTAIL (R293, R294). -/
theorem Queue.writeTail_eq (x : Queue) (v : Word) (writes : Nat) : x.writeTail v writes = tailWritten x v writes := by
  have h0 : (v - x.tail).toNat = 0 ↔ v = x.tail := by
    constructor
    · intro h
      bv_omega
    · rintro rfl
      simp
  unfold Queue.writeTail tailWritten
  dsimp only
  simp only [h0]
  by_cases hv : v = x.tail
  · rw [if_pos hv, if_pos hv]
  · rw [if_neg hv, if_neg hv]
    by_cases ht : (v - x.tail).toNat < 2 ^ 31 ∧ (v - x.tail).toNat + (x.tail - x.prog).toNat ≤ 2 ^ x.lgsz
    · rw [if_pos ht, if_neg (by simp only [Bool.or_eq_true, decide_eq_true_eq]; omega)]
    · rw [if_neg ht, if_pos (by simp only [Bool.or_eq_true, decide_eq_true_eq]; omega)]

/-- A write of QCFG to a queue that is not switched out (R291, R292). -/
theorem Queue.writeCfg_eq {x : Queue} {v : Word} (h : x.state < 2) : x.writeCfg v = cfgWritten x v := by
  have hen : decide (fld v.toNat 31 1 = 1) = bitOf v 31 := by simp [fld_one_eq_one]
  have herr : decide (fld v.toNat 30 1 = 0) = !bitOf v 30 := by simp [fld_one_eq_zero]
  unfold Queue.writeCfg cfgWritten cfgWrite
  dsimp only
  rw [if_neg (by omega), hen, herr]
  simp only [Bool.or_eq_true, decide_eq_true_eq]
  rfl

theorem hostQueue_reached {s : State} {q : Nat} {f : Queue → Queue} (h : HostReaches s q) :
    hostQueue q s f = .next (withQueue s q (f (s.queue q))) := by
  obtain ⟨hm, hu, hq⟩ := h
  unfold hostQueue State.hostLink
  rw [if_pos (by simp [hm, hu, hq])]
  rfl

theorem Queue.pending_now {x : Queue} (h : x.later = none) : x.pending = (x.en, x.lgsz) := by
  unfold Queue.pending
  rw [h]

/-! ### Windows of the device -/

/-- A write over the main link reaches the queue window and the mailbox. -/
theorem execRegisterWrite_main {s : State} {off size : Nat} {v : BitVec 64} (hal : Aligned off size)
    (ha : s.answers .main off = true) : execRegisterWrite .main off size v s =
      if off < 0x1000 then .next (withQueue s (off / 64) ((s.queue (off / 64)).write (off % 64) size v.toNat s.mem.writes))
      else if 0x10000 ≤ off && off < 0x20000 then .next (s.writeMailbox (off - 0x10000) size v.toNat) else .next s := by
  obtain ⟨hsz, hmod⟩ := hal
  unfold execRegisterWrite
  rw [if_neg (by simp only [List.contains_eq_mem, hsz, hmod, ha]; simp)]
  rfl

theorem execRegisterWrite_management {s : State} {link : Link} {off size : Nat} {v : BitVec 64} (hl : link ≠ .main)
    (hal : Aligned off size) (ha : s.answers link off = true) (h1 : 0x1000 ≤ off) (h2 : off < 0x2000) :
    execRegisterWrite link off size v s = .next (s.writeMgmt (link = .firmware) (off - 0x1000) size v.toNat) := by
  obtain ⟨hsz, hmod⟩ := hal
  unfold execRegisterWrite
  rw [if_neg (by simp only [List.contains_eq_mem, hsz, hmod, ha]; simp)]
  cases link with
  | main => exact absurd rfl hl
  | sideband => exact if_pos (by simp [h1, h2])
  | firmware => exact if_pos (by simp [h1, h2])

/-- A write that the device does not answer changes nothing. -/
theorem execRegisterWrite_unanswered {s : State} {link : Link} {off size : Nat} {v : BitVec 64}
    (ha : s.answers link off = false) : execRegisterWrite link off size v s = .next s := by
  unfold execRegisterWrite
  rw [if_pos (by simp [ha])]

/-- A write to a window that the main link does not reach changes nothing. -/
theorem execRegisterWrite_main_outside {s : State} {off size : Nat} {v : BitVec 64}
    (h : (0x1000 ≤ off ∧ off < 0x10000) ∨ 0x20000 ≤ off) : execRegisterWrite .main off size v s = .next s := by
  unfold execRegisterWrite
  split
  · rfl
  · dsimp only
    rw [if_neg (by omega), if_neg (by simp; omega)]

/-- Nor does one to a window that the other links do not reach. -/
theorem execRegisterWrite_outside {s : State} {link : Link} {off size : Nat} {v : BitVec 64} (hl : link ≠ .main)
    (h : off < 0x1000 ∨ 0x2000 ≤ off) : execRegisterWrite link off size v s = .next s := by
  unfold execRegisterWrite
  split
  · rfl
  · cases link with
    | main => exact absurd rfl hl
    | sideband => exact if_neg (by simp; omega)
    | firmware => exact if_neg (by simp; omega)

/-- Settles O37: each write is the one of its register, and the windows of each link exclude each other. -/
theorem queueRegisterWritesComplete : Obligations.QueueRegisterWritesComplete := by
  refine ⟨fun s q v hr => ?_, fun s q v hr hst hl hen hv => ?_, fun s q v hr hst hl hen hv => ?_, fun s q v hr hst hv => ?_,
    fun s q oid pmax hm hq ho hp => ?_, fun s off size v hm hu hal hoff => ?_, fun s off size v hm hu hal h1 h2 => ?_,
    fun s off size v hm hu hal h1 h2 => ?_, fun s off size v hm hal h1 h2 => ?_, fun s off size v h => ?_,
    fun s link off size v hl h => ?_, fun s off size v hm hoff => ?_⟩
  · show execQtailWrite q v s = _
    unfold execQtailWrite
    rw [hostQueue_reached hr, Queue.writeTail_eq]
  · refine (hostQueue_reached hr).trans ?_
    rw [if_pos (by simp [Queue.pending_now hl, hen, fld_one_eq_one, hv]), Queue.writeCfg_eq hst]
  · refine (hostQueue_reached hr).trans ?_
    rw [if_pos (by simp [Queue.pending_now hl, hen, fld_one_eq_zero, hv]), Queue.writeCfg_eq hst]
  · refine (hostQueue_reached hr).trans ?_
    rw [if_pos ((fld_one_eq_one v 30).mpr hv), Queue.writeCfg_eq hst]
  · exact (whenRunning_running hm).trans (if_pos (by simp [hq, ho, hp]))
  · have ha : s.answers .main off = true := by simp [State.answers, hm, hu]
    exact (execRegisterWrite_main hal ha).trans (if_pos hoff)
  · have ha : s.answers .main off = true := by rcases hm with hm | hm <;> simp [State.answers, hm, hu, h1, h2]
    refine (execRegisterWrite_main hal ha).trans ?_
    rw [if_neg (by omega), if_pos (by simp [h1, h2])]
  · have ha : s.answers .sideband off = true := by simp [State.answers, hm, hu]
    exact execRegisterWrite_management (by decide) hal ha h1 h2
  · have ha : s.answers .firmware off = true := by simp [State.answers, hm]
    exact execRegisterWrite_management (by decide) hal ha h1 h2
  · exact execRegisterWrite_main_outside h
  · exact execRegisterWrite_outside hl h
  · have ha : s.answers .main off = false := by simp [State.answers, hm]; omega
    exact execRegisterWrite_unanswered ha

end Sys2Proof.Machine
end

section
/-!
SUPPORT. The checks of operands in the words of the statements, and the frame of a native instruction that changes its
issuer only.
-/

namespace Sys2Proof.Machine

open Sys2Proof.Claims

/-- An issuer that may issue, with a body that answers, retires. -/
theorem nativeHere_issues {sw ro : Bool} {s : State} {h h' : Here} {body : Here → Except Stop Here} (hi : Issues ro s h)
    (hb : body h = .ok h') : nativeHere sw ro s body = .next (after s h' sw) := by
  obtain ⟨hh, hr, hw⟩ := hi
  exact nativeHere_ok hh hr hw hb

/-- A check that passes is followed by the rest of the body. -/
theorem ok_then {α β : Type} {x : Except Stop α} {k : α → Except Stop β} {a : α} {r : Except Stop β}
    (hx : x = .ok a) (hk : k a = r) : (x >>= k) = r := by
  rw [hx]
  exact hk

section
variable {h : Here} {f : BitVec 8}

theorem okV_vFree {n : Nat} (hv : VFree h n) : h.okV n = .ok () := okV_of_free hv.1 hv.2

theorem okVs_vsFree {base n : Nat} (hv : VsFree h base n) : h.okVs base n = .ok () := okVs_of_free hv

theorem okU_usable (hf : Usable h f) : h.okU f = .ok () := okU_of_free hf

theorem okL_usable (hf : Usable h f) : h.okL f = .ok () := okL_of_free hf

theorem okLDst_laneDest (hf : LaneDest h f) : h.okLDst f = .ok () := okLDst_of_free hf

theorem okUPair_usablePair (hf : UsablePair h f) : h.okUPair f = .ok () := okUPair_of_free hf.1 hf.2

end

end Sys2Proof.Machine
end

section
/-!
SUPPORT. The VI-indexed moves and the cross-lane moves: LPUSH lane by lane against its winners taken at once.
-/

namespace Sys2Proof.Machine

open Sys2Proof.Claims

/-! ### The lanes of a mask -/

/-- Lanes are listed in rising order. -/
theorem lanesOf_rising (m : Word) : (lanesOf m).Pairwise (· < ·) := List.pairwise_lt_range.filter _

/-! ### LPUSH (R71) -/

/-- The lane that `l` sends to. -/
def pushTarget (h : Here) (x l : Nat) : Nat := (h.l x l).1.toNat

/-- A lane wins where its target is an active lane to which no lower active lane sends. -/
theorem wins_eq_true {h : Here} {x l : Nat} :
    wins h x l = true ↔ pushTarget h x l < 32 ∧ h.g.exec.getLsbD (pushTarget h x l) = true
      ∧ ∀ k ∈ lanesOf h.g.exec, k < l → pushTarget h x k ≠ pushTarget h x l := by
  simp only [wins, pushTarget, Bool.and_eq_true, decide_eq_true_eq, List.all_eq_true, Bool.or_eq_true, bne_iff_ne, and_assoc]
  refine and_congr_right fun _ => and_congr_right fun _ => forall₂_congr fun k _ => ?_
  rw [← Nat.not_lt, or_iff_not_imp_left, Classical.not_not]

section
variable {h : Here} {x l : Nat} {done rest : List Nat} (hl : lanesOf h.g.exec = done ++ l :: rest)

/-- What has been sent after the lanes `done`: exactly the active lanes that one of them names. -/
def SentBy (h : Here) (x : Nat) (done sent : List Nat) : Prop :=
  ∀ t, t < 32 → h.g.exec.getLsbD t = true → (t ∈ sent ↔ ∃ k ∈ done, pushTarget h x k = t)

/-- The issuer after lane `l` has sent its value. -/
def pushSend (h : Here) (d a x : Nat) (g : Here) (l : Nat) : Here :=
  g.setV d (pushTarget h x l) (h.v a l) (Cells.get false h.c.vt (keyV a l) || (h.l x l).2)

/-- A lane that wins adds its target to what has been sent. -/
theorem sentBy_win {sent : List Nat} (hs : SentBy h x done sent) :
    SentBy h x (done ++ [l]) (pushTarget h x l :: sent) := by
  intro t h1 h2
  rw [List.mem_cons, hs t h1 h2]
  simp only [List.mem_append, List.mem_singleton, or_and_right, exists_or, exists_eq_left]
  rw [or_comm, eq_comm]

include hl

/-- The active lanes below `l` are those before it in the list. -/
theorem lower_iff_done {k : Nat} : k ∈ lanesOf h.g.exec ∧ k < l ↔ k ∈ done := by
  have hp := lanesOf_rising h.g.exec
  rw [hl] at hp ⊢
  obtain ⟨-, hr, hd⟩ := List.pairwise_append.mp hp
  refine ⟨fun ⟨hk, hlt⟩ => ?_, fun hk => ⟨List.mem_append_left _ hk, hd k hk l List.mem_cons_self⟩⟩
  rcases List.mem_append.mp hk with hk | hk
  · exact hk
  · rcases List.mem_cons.mp hk with rfl | hk
    · exact absurd hlt (Nat.lt_irrefl k)
    · exact absurd (List.rel_of_pairwise_cons hr hk) (Nat.lt_asymm hlt)

/-- What has been sent tells whether the next lane wins. -/
theorem wins_iff_not_sent {sent : List Nat} (hs : SentBy h x done sent) : wins h x l = true ↔
    pushTarget h x l < 32 ∧ h.g.exec.getLsbD (pushTarget h x l) = true ∧ pushTarget h x l ∉ sent := by
  rw [wins_eq_true]
  refine and_congr_right fun h1 => and_congr_right fun h2 => ?_
  rw [hs _ h1 h2]
  simp only [← lower_iff_done hl, not_exists, not_and, and_imp]

/-- One lane of LPUSH, by whether it wins. -/
theorem pushLane_eq {d a : Nat} {acc : List Nat × Word × Here} (hs : SentBy h x done acc.1) :
    pushLane h d a x acc l =
      if wins h x l then (pushTarget h x l :: acc.1, acc.2.1, pushSend h d a x acc.2.2 l)
      else (acc.1, acc.2.1 ||| 1 <<< l, acc.2.2) := by
  have hw : wins h x l = true ↔
      ¬ (32 ≤ pushTarget h x l || !h.g.exec.getLsbD (pushTarget h x l) || acc.1.contains (pushTarget h x l)) = true := by
    simp [wins_iff_not_sent hl hs, and_assoc]
  unfold pushLane
  by_cases hx : wins h x l = true
  · rw [if_pos hx]
    exact if_neg (hw.mp hx)
  · rw [if_neg hx]
    exact if_pos (by rwa [hw, Classical.not_not] at hx)

/-- One that loses adds nothing: where its target is an active lane, it has been sent. -/
theorem sentBy_lose {sent : List Nat} (hs : SentBy h x done sent) (hx : ¬ wins h x l = true) :
    SentBy h x (done ++ [l]) sent := by
  intro t h1 h2
  simp only [List.mem_append, List.mem_singleton, or_and_right, exists_or, exists_eq_left, ← hs t h1 h2, iff_self_or]
  rintro rfl
  rw [wins_iff_not_sent hl hs] at hx
  exact Classical.not_not.mp fun hn => hx ⟨h1, h2, hn⟩

end

/-- The lanes that are left give what the winners among them send, and the mask of the losers. -/
theorem foldl_pushLane {h : Here} {d a x : Nat} : ∀ {rest done sent : List Nat} {m : Word} {g : Here},
    lanesOf h.g.exec = done ++ rest → SentBy h x done sent →
    (rest.foldl (pushLane h d a x) (sent, m, g)).2 =
      ((rest.filter fun l => !wins h x l).foldl (fun (m : Word) i => m ||| 1 <<< i) m,
        (rest.filter (wins h x)).foldl (pushSend h d a x) g)
  | [], _, _, _, _, _, _ => rfl
  | l :: rest, done, sent, m, g, hl, hs => by
    have hl' : lanesOf h.g.exec = (done ++ [l]) ++ rest := by rw [hl, List.append_assoc, List.singleton_append]
    rw [List.foldl_cons, pushLane_eq hl hs]
    by_cases hx : wins h x l = true
    · rw [if_pos hx, foldl_pushLane hl' (sentBy_win hs), List.filter_cons_of_neg (by simp [hx]),
        List.filter_cons_of_pos hx, List.foldl_cons]
    · rw [if_neg hx, foldl_pushLane hl' (sentBy_lose hl hs hx), List.filter_cons_of_pos (by simp [hx]),
        List.filter_cons_of_neg hx, List.foldl_cons]

/-- LPUSH lane by lane is LPUSH at once. -/
theorem pushLanes_eq (h : Here) (d a x mk : Nat) :
    ((lanesOf h.g.exec).foldl (pushLane h d a x) ([], 0, h)).2.2.setM mk
      ((lanesOf h.g.exec).foldl (pushLane h d a x) ([], 0, h)).2.1 = pushAll h d a x mk := by
  have hs : SentBy h x [] [] := fun t _ _ => by simp
  rw [foldl_pushLane (List.nil_append _).symm hs]
  rfl

/-! ### The moves -/

/-- A number within the allotment passes the bounds check of R240. -/
theorem okVI_free {h : Here} {k : BitVec 8} {n : Nat} (hn : viNumber h k = n) (hv : VFree h n) : h.okVI k = .ok n := by
  have hx : h.viIndex k = n := hn
  have ha := hv.1
  unfold Here.okVI
  rw [hx, if_neg (by simp [ha]), Int.toNat_natCast, okV_vFree hv]
  rfl

/-- Settles O3: the checks pass, and a lane of LPUSH wins exactly where no lower active lane sends to its target. -/
theorem laneMovesComplete : Obligations.LaneMovesComplete := by
  refine ⟨fun s h sw d k n hi hd hn hv => ?_, fun s h sw a k n hi ha hn hv => ?_, fun s h sw d a x mk hi hd ha hx => ?_,
    fun s h sw d a b hi hd ha hb => ?_⟩
  · show execVrd sw d k s = _
    exact nativeHere_issues hi (ok_then (okLDst_laneDest hd) (ok_then (okVI_free hn hv) rfl))
  · show execVwr sw a k s = _
    exact nativeHere_issues hi (ok_then (okL_usable ha) (ok_then (okVI_free hn hv) rfl))
  · show execLpush sw d a x mk s = _
    refine nativeHere_issues hi (ok_then (okV_vFree hd) (ok_then (okV_vFree ha) (ok_then (okL_usable hx) ?_)))
    rw [← pushLanes_eq]
    rfl
  · show execLpull sw d a b s = _
    refine nativeHere_issues hi (ok_then (okLDst_laneDest hd) (ok_then (okL_usable ha) (ok_then (okL_usable hb)
      (congrArg Except.ok (congrArg h.eachLane (funext₂ fun g l => ?_))))))
    by_cases ht : (h.l b.toNat l).1.toNat < 32
    · simp only [if_pos ht]
    · simp only [if_neg ht, Bool.false_or]

end Sys2Proof.Machine
end

section
/-!
SUPPORT. The place of an element of a plane (R53, R54, R61) in parts that are each read back: physical lane, sheet, slot and
position are digits of numbers in mixed radix.
-/

namespace Sys2Proof.Machine

/-! ### Numbers in mixed radix -/

/-- Two digits, the lower below `n`, give back the higher. -/
theorem digits_div {a b n : Nat} (h : b < n) : (a * n + b) / n = a := by
  rw [Nat.mul_comm, Nat.mul_add_div (by omega), Nat.div_eq_of_lt h, Nat.add_zero]

/-- And the lower. -/
theorem digits_mod {a b n : Nat} (h : b < n) : (a * n + b) % n = b := by
  rw [Nat.mul_comm, Nat.mul_add_mod, Nat.mod_eq_of_lt h]

/-- Two digits below their bounds make a number below the product. -/
theorem digits_lt {a b m n : Nat} (ha : a < m) (hb : b < n) : a * n + b < m * n :=
  calc a * n + b < (a + 1) * n := by rw [Nat.add_mul]; omega
    _ ≤ m * n := Nat.mul_le_mul_right n ha

/-- An index below `a` falls into one of the groups of `b` that hold `a` places. -/
theorem div_lt_ceilDiv {q a b : Nat} (hb : 0 < b) (hq : q < a) : q / b < ceilDiv a b :=
  calc q / b < q / b + 1 := Nat.lt_succ_self _
    _ = (q + b) / b := (Nat.add_div_right q hb).symm
    _ ≤ ceilDiv a b := Nat.div_le_div_right (by omega)

/-! ### The digits of a place (R53, R54, R61) -/

/-- The virtual lane gy · GW + gx of element (i, j). -/
def Plane.virtual (p : Plane) (i j : Nat) : Nat :=
  if p.fold = 0 then i % p.gh * p.gw + j % p.gw else i / p.fh * p.gw + j / p.fw

/-- The slot k of element (i, j) in its virtual lane. -/
def Plane.within (p : Plane) (i j : Nat) : Nat :=
  if p.fold = 0 then i / p.gh * p.fw + j / p.gw else i % p.fh * p.fw + j % p.fw

/-- The place q of element (d, i, j) among the slots of its virtual lane, plane after plane (R61, R62). -/
def Plane.slotOf (p : Plane) (d i j : Nat) : Nat := d * (p.fh * p.fw) + p.within i j

/-- The element in slot `k` of virtual lane `v`. -/
def Plane.element (p : Plane) (v k : Nat) : Nat × Nat :=
  if p.fold = 0 then (k / p.fw * p.gh + v / p.gw, k % p.fw * p.gw + v % p.gw)
  else (v / p.gw * p.fh + k / p.fw, v % p.gw * p.fw + k % p.fw)

/-- The physical lane of virtual lane `v` of plane copy `n`. -/
def Plane.laneOf (p : Plane) (n v : Nat) : Nat := if p.gh * p.gw ≤ 32 then n * (p.gh * p.gw) + v else v % 32

/-- The virtual sheet of virtual lane `v`. -/
def Plane.sheetOf (p : Plane) (v : Nat) : Nat := if p.gh * p.gw ≤ 32 then 0 else v / 32

/-- The plane copy and the virtual lane that physical lane `l` holds in sheet `t`. -/
def Plane.gridOf (p : Plane) (l t : Nat) : Nat × Nat :=
  if p.gh * p.gw ≤ 32 then (l / (p.gh * p.gw), l % (p.gh * p.gw)) else (0, t * 32 + l)

/-- The place of an element by its parts. -/
theorem Plane.at_eq (p : Plane) (n d i j : Nat) :
    p.at_ n d i j = (p.laneOf n (p.virtual i j),
      p.base + (p.sheetOf (p.virtual i j) * p.nr + p.slotOf d i j / p.epr),
      p.elem.width * (p.slotOf d i j % p.epr)) := by
  unfold Plane.at_ Plane.laneOf Plane.sheetOf Plane.slotOf Plane.virtual Plane.within
  by_cases hf : p.fold = 0 <;> simp [hf, Nat.mul_assoc, Nat.add_assoc]

/-- The element at a place by the same parts. -/
theorem Plane.from_eq (p : Plane) (l r pos : Nat) :
    p.from_ l r pos =
      if (r % p.nr * p.epr + pos) / (p.fh * p.fw) < p.depth then
        some ((p.gridOf l (r / p.nr)).1, (r % p.nr * p.epr + pos) / (p.fh * p.fw),
          p.element (p.gridOf l (r / p.nr)).2 ((r % p.nr * p.epr + pos) % (p.fh * p.fw)))
      else none := by
  unfold Plane.from_ Plane.gridOf Plane.element
  by_cases hs : p.gh * p.gw ≤ 32 <;> by_cases hf : p.fold = 0 <;> simp [hs, hf]

/-! ### Each digit within its bound, and read back -/

/-- The grid divides the plane, and fills whole sheets where it has more lanes than a coach (R60). -/
structure Plane.Tiled (p : Plane) : Prop where
  gh_pos : 0 < p.gh
  gw_pos : 0 < p.gw
  rows_eq : p.fh * p.gh = p.rows
  cols_eq : p.fw * p.gw = p.cols
  sheets : 32 < p.gh * p.gw → 32 ∣ p.gh * p.gw

section
variable {p : Plane} {i j : Nat}

theorem Plane.virtual_lt (ht : p.Tiled) (hi : i < p.rows) (hj : j < p.cols) : p.virtual i j < p.gh * p.gw := by
  rw [← ht.rows_eq] at hi
  rw [← ht.cols_eq] at hj
  unfold Plane.virtual
  split
  · exact digits_lt (Nat.mod_lt i ht.gh_pos) (Nat.mod_lt j ht.gw_pos)
  · exact digits_lt (Nat.div_lt_of_lt_mul hi) (Nat.div_lt_of_lt_mul hj)

theorem Plane.within_lt (ht : p.Tiled) (hi : i < p.rows) (hj : j < p.cols) : p.within i j < p.fh * p.fw := by
  rw [← ht.rows_eq] at hi
  rw [← ht.cols_eq] at hj
  unfold Plane.within
  split
  · exact digits_lt (Nat.div_lt_of_lt_mul (by rwa [Nat.mul_comm])) (Nat.div_lt_of_lt_mul (by rwa [Nat.mul_comm]))
  · exact digits_lt (Nat.mod_lt i (Nat.pos_of_lt_mul_right hi)) (Nat.mod_lt j (Nat.pos_of_lt_mul_right hj))

/-- Under either folding, virtual lane and slot together name the element. -/
theorem Plane.element_virtual_within (ht : p.Tiled) (hj : j < p.cols) :
    p.element (p.virtual i j) (p.within i j) = (i, j) := by
  rw [← ht.cols_eq] at hj
  unfold Plane.element Plane.virtual Plane.within
  by_cases hf : p.fold = 0
  · have hx : j % p.gw < p.gw := Nat.mod_lt j ht.gw_pos
    have hk : j / p.gw < p.fw := Nat.div_lt_of_lt_mul (by rwa [Nat.mul_comm])
    simp only [hf, if_true, digits_div hx, digits_mod hx, digits_div hk, digits_mod hk, Nat.div_add_mod']
  · have hx : j / p.fw < p.gw := Nat.div_lt_of_lt_mul hj
    have hk : j % p.fw < p.fw := Nat.mod_lt j (Nat.pos_of_lt_mul_right hj)
    simp only [hf, if_false, digits_div hx, digits_mod hx, digits_div hk, digits_mod hk, Nat.div_add_mod']

end

section
variable {p : Plane} {n v : Nat} (hv : v < p.gh * p.gw)
include hv

theorem Plane.laneOf_lt (hn : if p.gh * p.gw ≤ 32 then n < 32 / (p.gh * p.gw) else n = 0) : p.laneOf n v < 32 := by
  unfold Plane.laneOf
  by_cases hs : p.gh * p.gw ≤ 32
  · rw [if_pos hs] at hn ⊢
    exact Nat.lt_of_lt_of_le (digits_lt hn hv) (Nat.div_mul_le_self 32 (p.gh * p.gw))
  · rw [if_neg hs]
    exact Nat.mod_lt v (Nat.succ_pos 31)

theorem Plane.sheetOf_lt (ht : p.Tiled) : p.sheetOf v < p.sheets := by
  unfold Plane.sheetOf Plane.sheets
  by_cases hs : p.gh * p.gw ≤ 32
  · rw [if_pos hs, if_neg (by omega)]
    exact Nat.one_pos
  · rw [if_neg hs, if_pos (by omega)]
    exact Nat.div_lt_div_of_lt_of_dvd (ht.sheets (by omega)) hv

theorem Plane.gridOf_laneOf (hn : if p.gh * p.gw ≤ 32 then n < 32 / (p.gh * p.gw) else n = 0) :
    p.gridOf (p.laneOf n v) (p.sheetOf v) = (n, v) := by
  unfold Plane.gridOf Plane.laneOf Plane.sheetOf
  by_cases hs : p.gh * p.gw ≤ 32
  · simp only [hs, if_true, digits_div hv, digits_mod hv]
  · rw [if_neg hs] at hn
    simp only [hs, if_false, hn, Nat.div_add_mod']

end

/-! ### What a valid descriptor gives -/

theorem planeElem_width (t : Nat) : (planeElem t).width = 8 ∨ (planeElem t).width = 16 ∨ (planeElem t).width = 32 := by
  unfold planeElem
  split <;> simp [Elem.width, fp16, bf16, fp32]

theorem Plane.width_pos (p : Plane) : 0 < p.elem.width := by
  have := planeElem_width p.type
  unfold Plane.elem
  omega

theorem Plane.epr_pos (p : Plane) : 0 < p.epr := by
  unfold Plane.epr Plane.elem
  rcases planeElem_width p.type with h | h | h <;> rw [h] <;> decide

theorem Plane.dvd_of_ok {p : Plane} {allot : Nat} (h : p.ok allot = true) : p.gh ∣ p.rows ∧ p.gw ∣ p.cols := by
  simp only [Plane.ok, Bool.and_eq_true, beq_iff_eq] at h
  obtain ⟨⟨⟨_, hrows⟩, hcols⟩, _⟩ := h
  exact ⟨Nat.dvd_of_mod_eq_zero hrows, Nat.dvd_of_mod_eq_zero hcols⟩

theorem planeOf_tiled {allot x : Nat} (h : (planeOf x).ok allot = true) : (planeOf x).Tiled where
  gh_pos := Nat.two_pow_pos _
  gw_pos := Nat.two_pow_pos _
  rows_eq := Nat.div_mul_cancel (Plane.dvd_of_ok h).1
  cols_eq := Nat.div_mul_cancel (Plane.dvd_of_ok h).2
  sheets := by
    simp only [planeOf, ← Nat.pow_add]
    exact fun hlt => Nat.pow_dvd_pow 2 ((Nat.pow_lt_pow_iff_right (a := 2) (n := 5) Nat.one_lt_two).mp hlt).le

/-- The register of a slot, counted within its sheet, is below NR (R60). -/
theorem Plane.slotOf_div_epr_lt {p : Plane} {d i j : Nat} (hd : d < p.depth) (hk : p.within i j < p.fh * p.fw) :
    p.slotOf d i j / p.epr < p.nr :=
  div_lt_ceilDiv p.epr_pos (by rw [Nat.mul_assoc]; exact digits_lt hd hk)

/-- Settles O20: lane, register and slot are numbers in mixed radix, and each digit is below its bound. -/
theorem planePlacesNameTheirElements : Obligations.PlanePlacesNameTheirElements := by
  rintro p allot n d i j hok ⟨x, rfl⟩ hd hi hj hn
  have ht := planeOf_tiled hok
  generalize planeOf x = p at *
  have hv : p.virtual i j < p.gh * p.gw := Plane.virtual_lt ht hi hj
  have hk : p.within i j < p.fh * p.fw := Plane.within_lt ht hi hj
  have hr : p.slotOf d i j / p.epr < p.nr := Plane.slotOf_div_epr_lt hd hk
  have hreg : p.sheetOf (p.virtual i j) * p.nr + p.slotOf d i j / p.epr < p.sheets * p.nr :=
    digits_lt (Plane.sheetOf_lt hv ht) hr
  have hdepth : p.slotOf d i j / (p.fh * p.fw) = d := digits_div hk
  have hwithin : p.slotOf d i j % (p.fh * p.fw) = p.within i j := digits_mod hk
  rw [Plane.at_eq]
  refine ⟨Plane.laneOf_lt hv hn, Nat.le_add_right _ _, Nat.add_lt_add_left hreg p.base, ?_⟩
  simp only [Plane.from_eq, Nat.add_sub_cancel_left, digits_div hr, digits_mod hr,
    Nat.mul_div_cancel_left _ p.width_pos, Nat.div_add_mod', hdepth, hwithin, if_pos hd, Plane.gridOf_laneOf hv hn,
    Plane.element_virtual_within ht hj]

end Sys2Proof.Machine
end

section
/-!
SUPPORT. The plane instructions on descriptors that pass the checks of R67, and the moves of descriptors and tensor
identifiers.
-/

namespace Sys2Proof.Machine

open Sys2Proof.Claims

/-! ### Movement, spreading and folding (R63 to R68) -/

/-- Descriptors that are ready pass the checks of R67, and find no register of theirs on the scoreboard. -/
theorem okPlanes_ready {h : Here} {ps : List Plane} {fold : Bool} (hp : PlanesReady h ps fold) :
    h.okPlanes ps fold = .ok () := by
  obtain ⟨hok, hagree, hfold⟩ := hp
  have h1 : (ps.all fun p => p.ok h.c.allot) = true := List.all_eq_true.mpr fun p hp => (hok p hp).1
  have h2 : (ps.all fun p => ps.all fun q => p.agree q) = true :=
    List.all_eq_true.mpr fun p hp => List.all_eq_true.mpr fun q hq => hagree p hp q hq
  have h3 : (fold && !ps.all fun p => ps.all fun q => p.fold == q.fold) = false := by
    cases fold with
    | false => rfl
    | true =>
      rw [Bool.true_and, Bool.not_eq_false']
      exact List.all_eq_true.mpr fun p hp => List.all_eq_true.mpr fun q hq => beq_iff_eq.mpr (hfold rfl p hp q hq)
  have h4 : (ps.any fun p => (List.range (p.sheets * p.nr)).any fun r => h.c.boarded (p.base + r)) = false := by
    simp only [List.any_eq_false, List.mem_range, Bool.not_eq_true]
    exact fun p hp => (hok p hp).2
  unfold Here.okPlanes
  rw [h1, h2, h3, h4]
  rfl

/-- A plane is written alike where the new elements are alike. -/
theorem ok_writePlane {h : Here} {p : Plane} {taint : Bool} {out out' : Nat → Nat → Nat → Nat → Option Nat}
    (ho : ∀ m z i j, out m z i j = out' m z i j) :
    (pure (h.writePlane p taint out) : Except Stop Here) = .ok (h.writePlane p taint out') := by
  rw [show out = out' from funext fun m => funext fun z => funext₂ (ho m z)]
  rfl

/-- Settles O21: each instruction passes its checks, and gives at every element what its rule says. -/
theorem planeMovesComplete : Obligations.PlaneMovesComplete := by
  refine ⟨fun s h sw d a sk dir fl n hi hp => ?_, fun s h sw d a dir n hi hp => ?_, fun s h sw d a axis r hi hp hr => ?_,
    fun s h sw d a op dir hi hp => ?_, fun s h sw d a hi hp => ?_⟩
  · show execPshift sw d a sk dir fl n s = _
    exact nativeHere_issues hi (ok_then (okPlanes_ready hp) (ok_writePlane fun m z i j => by
      simp only [Bool.and_eq_true, decide_eq_true_eq, beq_iff_eq, and_assoc]))
  · show execProt sw d a dir n s = _
    exact nativeHere_issues hi (ok_then (okPlanes_ready hp) rfl)
  · show execPspread sw d a axis r s = _
    have hin : ¬ (if axis == 0 then (h.plane a).rows else (h.plane a).cols) ≤ r.toNat := by
      simpa only [beq_iff_eq, Nat.not_le] using hr
    refine nativeHere_issues hi (ok_then (okPlanes_ready hp) ((if_neg hin).trans (ok_writePlane fun m z i j => ?_)))
    simp only [beq_iff_eq]
  · show execPfold sw d a op dir s = _
    refine nativeHere_issues hi (ok_then (okPlanes_ready hp) (ok_writePlane fun m z i j => ?_))
    generalize dir.toNat = t
    match t with
    | 0 | 1 | 2 => rfl
    | t + 3 => exact ((if_neg (by omega)).trans ((if_neg (by omega)).trans (if_neg (by omega)))).symm
  · show execPrefold sw d a s = _
    exact nativeHere_issues hi (ok_then (okPlanes_ready hp) rfl)

/-! ### Descriptors and identifiers (R135, R274, R289) -/

/-- The low bits of a number (R15). -/
theorem fld_low (n len : Nat) : fld n 0 len = n % 2 ^ len := by
  rw [fld, Nat.pow_zero, Nat.div_one]

/-- Settles O23: the operands pass their checks, and bits [7:0] of Sx name the identifier. -/
theorem descriptorMovesComplete : Obligations.DescriptorMovesComplete := by
  refine ⟨fun s h sw v x wd hi hv hx => ?_, fun s h sw d x wd hi hd hx => ?_, fun s h sw d x hi he hlo hhi => ?_,
    fun s h sw a x hi hx => ?_⟩
  · show execTidset sw v x wd s = _
    exact nativeHere_issues hi (ok_then (okUPair_usablePair hv) (ok_then (okU_usable hx) (by simp only [fld_low]; rfl)))
  · show execTidget sw d x wd s = _
    exact nativeHere_issues hi (ok_then (okUPair_usablePair hd) (ok_then (okU_usable hx) (by simp only [fld_low]; rfl)))
  · show execPdset sw d x s = _
    exact nativeHere_issues hi (if_pos (by simp [he, hlo, hhi]))
  · show execPdget sw a x s = _
    obtain ⟨he, hv, hf⟩ := hx
    have hpair : ¬ ((decide (x.toNat % 2 ≠ 0) || decide (192 ≤ x.toNat)) = true) := by simp [he, hv]
    exact nativeHere_issues hi ((if_neg hpair).trans (ok_then (okVs_vsFree hf) rfl))

end Sys2Proof.Machine
end

section
/-!
SUPPORT. Native instructions that trap without naming a lane, and the one access of a uniform load, store or atomic that its
check refuses.
-/

namespace Sys2Proof.Machine

open Sys2Proof.Claims

/-! ### Traps of a body -/

/-- A check that fails ends the body. -/
theorem error_then {α β : Type} {x : Except Stop α} {k : α → Except Stop β} {e : Stop} (hx : x = .error e) :
    (x >>= k) = .error e := by
  rw [hx]
  rfl

/-- An issuer that may issue, with a body that answers, retires. -/
theorem native_issues {sw ro : Bool} {s s' : State} {h h' : Here} {body : State → Here → Res} (hi : Issues ro s h)
    (hb : body s h = .ok (s', h')) : native sw ro s body = .next (after s' h' sw) := by
  obtain ⟨hh, hr, hw⟩ := hi
  exact native_ok hh hr hw hb

/-- A trap that names no lane stops the coach, or in compatibility mode its sub-group (R47, R48). -/
theorem native_traps {sw ro : Bool} {s : State} {h : Here} {t : Trap} {body : State → Here → Res} (hi : Issues ro s h)
    (hb : body s h = .error (.trap t)) (hl : t.lanes = []) : native sw ro s body = .next (trapsAt s h t) := by
  obtain ⟨hh, hr, hw⟩ := hi
  have hro : (h.remote.isSome && !ro) = false := by
    cases hx : h.remote.isSome
    · rfl
    · rw [hr hx]; rfl
  have hc : (h.t.compat && h.remote.isNone && !h.c.hnd) = true
      ↔ h.t.compat = true ∧ h.remote = none ∧ h.c.saved = none := by
    simp [Coach.hnd, and_assoc]
  unfold native trapsAt
  rw [hh]
  simp only [hro, Nat.not_le.mpr hw, hb, hc, hl, List.isEmpty_nil, Bool.true_or, if_true, if_false, Bool.false_eq_true]
  split <;> rfl

/-! ### The checks of uniform accesses -/

theorem okUBlock_uniBlock {h : Here} {f : BitVec 8} {n : Nat} (hf : UniBlock h f n) : h.okUBlock f n = .ok () :=
  okUBlock_of_free hf.1 hf.2

theorem okBaseU_uniBase {h : Here} {space : Nat} {a : BitVec 8} {ab : Bool} (ha : UniBase h space a ab) :
    h.okBaseU space a ab = .ok () := by
  cases ab with
  | true => rfl
  | false => exact okUBlock_uniBlock (ha rfl)

/-- The base of a uniform atomic is an S register, the first of a pair where the space is GLOBAL. -/
theorem uniBase_atomic {h : Here} {space : Nat} {a : BitVec 6} (ha : space = 5 → a.toNat % 2 = 0) :
    UniBase h space (BitVec.ofNat 8 (192 + a.toNat)) false := by
  have hn : (BitVec.ofNat 8 (192 + a.toNat)).toNat = 192 + a.toNat := by simp; omega
  refine fun _ => ⟨?_, fun hlt => by omega⟩
  unfold baseCount
  split
  case isTrue hs => have := ha hs; omega
  case isFalse => exact Nat.mod_one _

/-- A check that fails traps with its cause, its reason and the address, and names no lane. -/
theorem checkOnce_fails {s : State} {ag : Agent} {space lane n : Nat} {acc : Access} {ea : Int} {cause : Cause} {reason : Nat}
    (hf : s.check ag space lane ea n acc = .fails cause reason) :
    s.checkOnce ag space lane n acc ea = .error (.trap (accessTrap cause reason space ea)) := by
  unfold State.checkOnce
  rw [hf]
  rfl

/-! ### The instructions of each shape (R245 to R251) -/

/-- Uniform loads share one meaning; an access of 1, 2, 4, 8 or 16 bytes uses a register for each four bytes that it begins. -/
theorem exec_uniformLoad {i : Instr} {sw : Bool} {d a : BitVec 8} {wh : BitVec 3} {ab : Bool} {n : Nat} {ldc : Bool}
    {acq : Option Nat} (s : State) (hi : uniformLoad i = some (sw, d, a, wh, ab, n, ldc, acq)) :
    exec i s = uniLoad sw d a wh ab s n ldc acq ∧ regsOf n = registersOf n := by
  unfold uniformLoad at hi
  split at hi
  all_goals cases hi
  all_goals exact ⟨rfl, rfl⟩

theorem exec_uniformStore {i : Instr} {sw : Bool} {d a : BitVec 8} {wh : BitVec 3} {ab : Bool} {n : Nat} {rel : Option Nat}
    (s : State) (hi : uniformStore i = some (sw, d, a, wh, ab, n, rel)) :
    exec i s = uniStore sw d a wh ab s n rel ∧ regsOf n = registersOf n := by
  unfold uniformStore at hi
  split at hi
  all_goals cases hi
  all_goals exact ⟨rfl, rfl⟩

theorem exec_uniformAtomic {i : Instr} {sw : Bool} {d a : BitVec 6} {wh : BitVec 3} {pair : Bool} {acq rel : Option Nat}
    {op : Nat} {f : Word → Word → Word → Word} (s : State) (hi : uniformAtomic i = some (sw, d, a, wh, pair, acq, rel, op, f)) :
    exec i s = uniAtomic sw d a wh s op acq rel := by
  unfold uniformAtomic at hi
  split at hi
  all_goals cases hi
  all_goals rfl

/-! ### The checks themselves (R72, R86, R243) -/

/-- A GLOBAL address within the space that is aligned fails as its translation does. -/
theorem check_global_fails {s : State} {ag : Agent} {lane o n : Nat} {acc : Access} {r : Nat} (hal : o % n = 0)
    (hr : o + n ≤ 2 ^ 56) (ht : s.translate ag.cluster ag.oid o acc = .fails r) :
    s.check ag 5 lane o n acc = .fails .pageFault r := by
  have h1 : ¬ (o : Int) % n ≠ 0 := not_not.mpr (by exact_mod_cast hal)
  unfold State.check
  rw [if_neg h1, if_neg (by omega)]
  dsimp only
  rw [Int.toNat_natCast, if_pos (show 5 = spaceGlobal from rfl), if_neg (Nat.not_lt.mpr hr), ht]

/-- Settles O45: the operands pass their checks, the access fails its own, and the trap names no lane. -/
theorem failedAccessesTrap : Obligations.FailedAccessesTrap := by
  refine ⟨fun i s h sw d a wh ab n ldc acq cause reason ea hi his hd ha he hf => ?_,
    fun i s h sw d a wh ab n rel cause reason ea hi his hd ha he hf => ?_,
    fun i s h sw d a wh pair acq rel op f cause reason ea hi his ha he hf => ?_,
    fun s ag space lane ea n acc hal => if_pos hal, fun s ag space lane ea n acc hal hneg => ?_,
    fun s ag lane o n acc r hal hr ht => check_global_fails hal hr ht⟩
  · obtain ⟨e, hn⟩ := exec_uniformLoad s hi
    rw [e]
    subst he
    exact native_traps his (ok_then (okUBlock_uniBlock (hn ▸ hd)) (ok_then (okBaseU_uniBase ha)
      (error_then (checkOnce_fails hf)))) rfl
  · obtain ⟨e, hn⟩ := exec_uniformStore s hi
    rw [e]
    subst he
    exact native_traps his (ok_then (okUBlock_uniBlock (hn ▸ hd)) (ok_then (okBaseU_uniBase ha)
      (error_then (checkOnce_fails hf)))) rfl
  · rw [exec_uniformAtomic s hi]
    subst he
    exact native_traps his (ok_then (okBaseU_uniBase (uniBase_atomic ha)) (error_then (checkOnce_fails hf))) rfl
  · exact (if_neg (not_not.mpr hal)).trans (if_pos hneg)

end Sys2Proof.Machine
end

section
/-!
SUPPORT. Translation by the walk of the tables where no older TLB entry stands in its way, and the steps of the swap engine.
-/

namespace Sys2Proof.Machine

open Sys2Proof.Claims

/-! ### Translation (R84 to R86, R95) -/

/-- A leaf denies an access for the permission that it withholds. -/
theorem denied_eq_withheld (acc : Access) (e : Nat) : denied acc e = withheld acc e := by
  cases acc <;> rfl

/-- A page that a swap moves is held back. -/
theorem State.translate_moving {s : State} {w : Swap} (cl : Option Nat) {va : Nat} (acc : Access) (hw : w ∈ s.swaps)
    (hb : w.begun = true) (hlo : w.va ≤ va) (hhi : va < w.va + w.size) : s.translate cl w.oid va acc = .held [] :=
  if_pos (List.any_eq_true.mpr ⟨w, hw, by simp [hb, hlo, hhi]⟩)

/-- What the walk for an access at `va` comes to. -/
def Walk.gives (acc : Access) (va : Nat) : Walk → Trans
  | .fails r => .fails r
  | .waits ch => .held [ch]
  | .leaf e lvl _ => leafFor acc va e lvl

/-- With no swap in progress and no entry in the TLB the walk of the tables decides. -/
theorem State.translate_eq_walk {s : State} {cl : Option Nat} {oid va : Nat} (acc : Access)
    (hw : ∀ w ∈ s.swaps, w.begun = false) (hc : s.cached cl oid va = none) :
    s.translate cl oid va acc = (s.walk oid va).gives acc va := by
  have hs : (s.swaps.any fun w => w.begun && decide (w.oid = oid) && decide (w.va ≤ va) && decide (va < w.va + w.size))
      = false :=
    List.any_eq_false.mpr fun w hm => by simp [hw w hm]
  unfold State.translate
  rw [hs, hc]
  generalize s.walk oid va = k
  cases k <;> rfl

theorem leafFor_granted {acc : Access} {e : Nat} (va lvl : Nat) (h : withheld acc e = 0) :
    leafFor acc va e lvl = .ok (fld e 16 36 * 2 ^ 16 + va % pageSize lvl) e lvl := by
  rw [← denied_eq_withheld] at h
  exact if_neg (not_not.mpr h)

theorem leafFor_withheld {acc : Access} {e : Nat} (va lvl : Nat) (h : withheld acc e ≠ 0) :
    leafFor acc va e lvl = .fails (withheld acc e) := by
  rw [← denied_eq_withheld] at h ⊢
  exact if_pos h

/-- Settles O47: the walk decides, and its leaf gives the place or denies the access. -/
theorem translationsFollowTheWalk : Obligations.TranslationsFollowTheWalk := by
  refine ⟨fun s cl oid va acc e lvl at_ hw hc hl hp => ?_, fun s cl oid va acc e lvl at_ hw hc hl hp => ?_,
    fun s cl oid va acc r hw hc hl => ?_, fun s cl oid va acc ch hw hc hl => ?_,
    fun s cl oid va acc w hw hb ho hlo hhi => ho ▸ State.translate_moving cl acc hw hb hlo hhi⟩
  · rw [State.translate_eq_walk acc hw hc, hl]
    exact leafFor_granted va lvl hp
  · rw [State.translate_eq_walk acc hw hc, hl]
    exact leafFor_withheld va lvl hp
  · rw [State.translate_eq_walk acc hw hc, hl]
    rfl
  · rw [State.translate_eq_walk acc hw hc, hl]
    rfl

/-! ### The swap engine (R95, R119) -/

/-- Bytes written to storage leave the swaps as they were. -/
theorem State.writeLocs_sto_swaps (s : State) (oid a : Nat) (bs : List Byte) :
    (s.writeLocs oid (.sto a) bs).swaps = s.swaps := by
  obtain ⟨m, p, e⟩ := State.writeLocs_sto oid bs s a
  rw [e]

/-- Settles O36: each event passes the checks that its rule names, and writes what the rule says. -/
theorem swapEventsComplete : Obligations.SwapEventsComplete := by
  refine ⟨fun s oid va pa e lvl at_ hm hl hal hb hpa hst hno => ?_, fun s k w hm hf hh hw => ?_,
    fun s k w x e hm hf hh hx he => ?_⟩
  · have hok : (pa % pageSize lvl = 0 && backed pa (pageSize lvl) && pa < 2 ^ 52
        && stackOf pa ≠ stackOf (fld e 16 36 * 2 ^ 16)
        && !s.swaps.any fun w => w.oid = oid && pagesMeet (w.va, w.size) (va / pageSize lvl * pageSize lvl, pageSize lvl))
        = true := by
      have hfree : (s.swaps.any fun w => w.oid = oid
          && pagesMeet (w.va, w.size) (va / pageSize lvl * pageSize lvl, pageSize lvl)) = false := by
        rw [List.any_eq_false]
        exact fun w hmem => by simpa using hno w hmem
      rw [hfree]
      simpa [hal, hb] using And.intro hpa hst
    show execSwapRequest oid va pa s = _
    unfold execSwapRequest
    rw [whenRunning_running hm, hl]
    exact if_pos hok
  · show execSwapBegin k s = _
    unfold execSwapBegin
    rw [whenRunning_running hm, hf]
    exact if_neg (by simp [hh, hw])
  · show execHeldTranslationRelease k s = _
    unfold execHeldTranslationRelease
    rw [whenRunning_running hm, hf]
    refine (if_neg (by simp [hh])).trans ?_
    dsimp only
    rw [← hx, ← he, State.writeLocs_sto_swaps, show x.swaps = s.swaps by rw [hx]; rfl]

end Sys2Proof.Machine
end

section
/-!
SUPPORT. The writes of the axle firmware, and the accesses of the host through the aperture.
-/

namespace Sys2Proof.Machine

open Sys2Proof.Claims

/-! ### The aperture (R391) -/

/-- What an access through the aperture does with the outcome of its translation. -/
def State.apertureWith (s : State) (st : Bool) (size : Nat) (v : BitVec 64) : Trans → State
  | .held chans => s.markWaiting chans
  | .fails _ => { s with mgmt := { s.mgmt with apErr := true } }
  | .ok pa _ _ =>
    if s.channelHeld pa then s.markWaiting [channelOf pa] (!st)
    else if st then s.writeLocs s.mgmt.apOid (.sto pa) (leBytes size v.toNat) else s

/-- An access that reaches the device is translated under the owner and the base of the aperture. -/
theorem execApertureAccess_translated {s : State} {off size : Nat} {x : Trans} (st : Bool) (v : BitVec 64)
    (h : ApertureOn s off size)
    (ht : s.translate none s.mgmt.apOid (s.mgmt.apBase * 2 ^ 36 + off) (if st then .store else .load) = x) :
    execApertureAccess st off size v s = .next (s.apertureWith st size v x) := by
  obtain ⟨hm, hu, hen, hoff, hsize, hal⟩ := h
  have hgo : (!s.hostLink || !s.mgmt.apEn || decide (2 ^ 36 ≤ off) || !([1, 2, 4, 8].contains size)
      || decide (off % size ≠ 0)) = false := by
    have hin : [1, 2, 4, 8].contains size = true := List.contains_iff_mem.mpr hsize
    rw [hin]
    simp [-Nat.reducePow, State.hostLink, hm, hu, hen, hal, Nat.not_le.mpr hoff]
  unfold execApertureAccess
  dsimp only
  rw [hgo, if_neg Bool.false_ne_true, ht]
  cases x with
  | fails r => rfl
  | held chans => rfl
  | ok pa leaf lvl => exact (apply_ite Host.Outcome.next _ _ _).symm

/-! ### The firmware (R79, R84, R315, R392, R403) -/

/-- Settles O41: each write is one of a part that runs, on arguments that its rule admits. -/
theorem firmwareEventsComplete : Obligations.FirmwareEventsComplete := by
  refine ⟨fun s oid vpn hm ho hv => ?_, fun s oid token hm ho => ?_, fun s w caps hm => ?_, fun s hm => whenRunning_running hm,
    fun s off size v pa leaf lvl hon ht hch => ?_, fun s off size v pa leaf lvl hon ht hch => ?_,
    fun s st off size v r hon ht => ?_, fun s st off size v chans hon ht => ?_,
    fun s st off size v pa leaf lvl hon ht hch => ?_, fun s g oid hm hg ho => ?_, fun s oid pa hm ho hal hpa => ?_,
    fun s oid vb len pool b hm hvb hvb' hal hlen hlen' hmov hw hb => ?_⟩
  · show execShoot oid vpn s = _
    unfold execShoot State.orderShoot
    rw [whenRunning_running hm, Nat.mod_eq_of_lt ho, Nat.mod_eq_of_lt hv]
  · show execReptok oid token s = _
    unfold execReptok State.orderReplay
    rw [whenRunning_running hm, Nat.mod_eq_of_lt ho]
  · show execPwrcapWrite w caps s = _
    have hz : w.toNat = 0 ↔ w = 0 := by simp [← BitVec.toNat_inj]
    unfold execPwrcapWrite State.clampPower
    rw [whenRunning_running hm]
    simp only [hz]
  · exact (execApertureAccess_translated true v hon ht).trans (congrArg _ (if_neg (Bool.eq_false_iff.mp hch)))
  · exact (execApertureAccess_translated false v hon ht).trans (congrArg _ (if_neg (Bool.eq_false_iff.mp hch)))
  · exact execApertureAccess_translated st v hon ht
  · exact execApertureAccess_translated st v hon ht
  · exact (execApertureAccess_translated st v hon ht).trans (congrArg _ (if_pos hch))
  · exact (whenRunning_running hm).trans (if_pos (by simp [hg, ho]))
  · exact (whenRunning_running hm).trans (if_pos (by simpa [ho, hal] using hpa))
  · show execHandlerImageLoad oid vb len pool s = _
    have hok : (decide (vb = 0) || decide (2 ^ 44 ≤ vb) || decide (len % 4096 ≠ 0) || decide (len = 0)
        || decide (2 ^ 26 < len) || s.moving oid) = false := by
      simp [-Nat.reducePow, hmov, hal, Nat.not_le.mpr hvb', Nat.not_lt.mpr hlen', Nat.ne_of_gt hvb, Nat.ne_of_gt hlen]
    unfold execHandlerImageLoad
    rw [whenRunning_running hm, hok, hw, hb]
    rfl

end Sys2Proof.Machine
end

section
/-!
SUPPORT. Engine requests whose arguments and ranges pass their checks: COPY, GSJOB and MVSTACK.
-/

namespace Sys2Proof.Machine

open Sys2Proof.Claims

/-! ### Checks that pass -/

theorem okTag_free {h : Here} {t : Nat} (ht : TagFree h t) : h.okTag t = .ok () := by
  obtain ⟨hn, hb⟩ := ht
  simp [Here.okTag, Nat.not_le.mpr hn, hb]

theorem badArgs_false {b : Bool} (hb : b = false) : badArgs b = .ok () := by
  rw [hb]
  rfl

theorem okTid_ok {t : List DWord} (ht : tidOk t = true) : okTid t = .ok () := if_pos ht

theorem okAlign_multiple (layer : Nat) {o n : Nat} (ho : o % n = 0) : okAlign layer o n = .ok () := if_pos ho

theorem holdWalks_free {l : List Walk} (hl : walkWaits l = []) : holdWalks l = .ok () := by
  simp [holdWalks, hl]

/-- Checks that are made under a condition, before a rest that is the same with and without them. -/
theorem checks_then {α : Type} {p : Prop} [Decidable p] {x y : Except Stop Unit} {k : Unit → Except Stop α}
    {r : Except Stop α} (hxy : p → x = .ok () ∧ y = .ok ()) (hk : k () = r) : (if p then x >>= fun _ => y >>= k else k ()) = r := by
  split
  case isTrue hp =>
    obtain ⟨hx, hy⟩ := hxy hp
    exact ok_then hx (ok_then hy hk)
  case isFalse => exact hk

/-! ### The answer to a request (R94, R255) -/

/-- A request that is issued on a tag gets one of the two answers of R255. -/
theorem requestAnswered_issueTagged {i : Instr} {s : State} {h : Here} {sw : Bool} {b : BitVec 8} {r : Request} {transit : Nat}
    {needs : List Need} {body : State → Here → Res} (he : exec i s = native sw false s body) (hi : Issues false s h)
    (hb : body s h = .ok (issueTagged s h b 7 r transit needs)) : RequestAnswered i s h sw b r transit needs := by
  constructor
  · intro s' hs
    rw [issueTagged, hs] at hb
    exact he.trans (native_issues hi hb)
  · intro k hs
    rw [issueTagged, hs] at hb
    exact he.trans (native_issues hi hb)

/-- A COPY whose ranges lie at `src` and `dst` (R256, R257). -/
theorem copyAnswered {s : State} {h : Here} (sw : Bool) {b : BitVec 8} {sl dl xf : BitVec 3} {tag : BitVec 6}
    {src dst : List Piece} (hi : Issues false s h) (ht : TagFree h tag.toNat) (ha : CopyArgs h b sl dl xf)
    (hsrc : s.wholeRange h.agent sl.toNat .load (h.arg64 b 0) (copySrcLen h b xf) = .ok src)
    (hdst : s.wholeRange h.agent dl.toNat .store (h.arg64 b 2) (h.arg b 4).toNat = .ok dst) :
    RequestAnswered (.copy sw b sl dl xf tag) s h sw b (copyRequest s h b sl dl xf tag src dst)
      (pathTransit (Config.towerOf h.t.core) (src ++ dst))
      (byteNeeds src dst ++ if xf ≠ 0 ∧ dl = 4 then drayNeeds dst else []) := by
  obtain ⟨hlen, hmax, hscope, hsl, hdl, hx, hso, hdo, hdlen⟩ := ha
  refine requestAnswered_issueTagged (by unfold execCopy; rfl : execCopy sw b sl dl xf tag s = native sw false s _) hi ?_
  refine ok_then (okTag_free ht) (ok_then (badArgs_false ?_) ?_)
  · simp only [Bool.or_eq_false_iff, beq_eq_false_iff_ne, decide_eq_false_iff_not, Bool.not_eq_false', and_assoc]
    refine ⟨hlen, Nat.not_lt.mpr hmax, hscope, hsl, hdl, ?_⟩
    by_cases h0 : xf = 0
    · simp [h0]
    · obtain ⟨h1, h2, -, -⟩ := hx h0
      rw [show xfFmt (tidFmt (h.c.tid _)) = true from h1, show xfFmt (tidFmt (h.c.tid _)) = true from h2]
      exact Bool.and_false _
  · simp only [beq_iff_eq, Bool.not_eq_true', beq_eq_false_iff_ne, Bool.and_eq_true]
    refine checks_then (fun h0 => ?_) (ok_then (okAlign_multiple _ hso) (ok_then (okAlign_multiple _ hdo)
      (ok_then (okAlign_multiple _ hdlen) (ok_then hsrc (ok_then hdst rfl)))))
    obtain ⟨-, -, h1, h2⟩ := hx h0
    exact ⟨okTid_ok h1, okTid_ok h2⟩

/-- A GSJOB: a gather checks its table first, a scatter last (R260; log entry 45). -/
theorem gsjobAnswered {s : State} {h : Here} (sw : Bool) {b : BitVec 8} {dir : BitVec 1} {iw : BitVec 2} {es dl : BitVec 3}
    {tag : BitVec 6} {table index dense : List Piece} (hi : Issues false s h) (ht : TagFree h tag.toNat) (ha : GsArgs s h b iw es)
    (hr : GsRanges s h b (dir = 1) iw es dl table index dense) :
    RequestAnswered (.gsjob sw b dir iw es dl tag) s h sw b (gsRequest s h b (dir = 1) iw es tag table index dense)
      (gsTransit (Config.towerOf h.t.core) (s.tableStack h.t.oid (h.arg64 b 0)) (index ++ dense))
      [.spread (8 + s.tableStack h.t.oid (h.arg64 b 0)) (h.arg b 4).toNat,
        .spread (s.tableStack h.t.oid (h.arg64 b 0)) ((h.arg b 4).toNat * gsBytes es)] := by
  obtain ⟨hcount, hmax, hscope, hmove, hwalk, hhost, htable, hindex, hdense⟩ := ha
  obtain ⟨hrt, hri, hrd⟩ := hr
  refine requestAnswered_issueTagged (by unfold execGsjob; rfl : execGsjob sw b dir iw es dl tag s = native sw false s _) hi ?_
  refine ok_then (okTag_free ht) (ok_then (badArgs_false ?_) ?_)
  · simp only [Bool.or_eq_false_iff, beq_eq_false_iff_ne, decide_eq_false_iff_not, and_assoc]
    exact ⟨hcount, Nat.not_lt.mpr hmax, hscope⟩
  · refine (if_neg (Bool.eq_false_iff.mp hmove)).trans (ok_then (holdWalks_free hwalk) (ok_then (badArgs_false hhost) ?_))
    simp only [beq_iff_eq]
    by_cases hdir : dir = 1
    · simp only [hdir, decide_true, if_true] at hrt hri hrd ⊢
      exact ok_then (ok_then (okAlign_multiple _ hindex) hri) (ok_then (ok_then (okAlign_multiple _ hdense) hrd)
        (ok_then (ok_then (okAlign_multiple _ htable) hrt) rfl))
    · simp only [hdir, beq_eq_false_iff_ne.mpr hdir, decide_false, if_false] at hrt hri hrd ⊢
      exact ok_then (ok_then (okAlign_multiple _ htable) hrt) (ok_then (ok_then (okAlign_multiple _ hindex) hri)
        (ok_then (ok_then (okAlign_multiple _ hdense) hrd) rfl))

/-- An MVSTACK whose matrix lies in one stack (R280, R288). -/
theorem mvstackAnswered {s : State} {h : Here} (sw : Bool) {b : BitVec 8} {va sa vb sb vy : List Piece} (hi : Issues false s h)
    (ht : TagFree h (fld (h.arg b 1).toNat 0 6)) (ha : MvArgs s h b) (hr : MvRanges s h b va sa vb sb vy) :
    RequestAnswered (.mvstack sw b) s h sw b (mvRequest s h b va sa vb sb vy)
      (pathTransit (Config.towerOf h.t.core) (vb ++ sa ++ sb))
      [.spread (mvStack vb) (lineBytes (mvA h b) (mvRows h b) + 4 * mvColumns h b
        + (mvColumns h b * lineBytes (mvB h b) (mvRows h b) + 3) / 4)] := by
  obtain ⟨hfa, hfb, hka, hkb, hrows, hscope, hmove, hwalk, hout, hta, htb⟩ := ha
  obtain ⟨hva, hsa, hvb, hsb, hvy⟩ := hr
  refine requestAnswered_issueTagged (by unfold execMvstack; rfl : execMvstack sw b s = native sw false s _) hi ?_
  refine ok_then (okTag_free ht) (ok_then (badArgs_false ?_) ((if_neg ?_).trans (ok_then (holdWalks_free hwalk)
    (ok_then (badArgs_false hout) (ok_then (okTid_ok hta) (ok_then (okTid_ok htb) (ok_then hva (ok_then hsa (ok_then hvb
    (ok_then hsb (ok_then hvy ?_)))))))))))
  · simp only [Bool.or_eq_false_iff, bne_eq_false_iff_eq, beq_eq_false_iff_ne, Bool.not_eq_false',
      List.contains_iff_mem, and_assoc]
    exact ⟨hfa, hfb, hka, hkb, hrows, hscope⟩
  · simp only [List.any_eq_true, List.mem_range, not_exists, not_and, Bool.not_eq_true]
    exact hmove
  · rfl

/-- Settles O16: the arguments and the ranges of each request pass their checks, and the calendar gives the answer. -/
theorem engineRequestsAnswered : Obligations.EngineRequestsAnswered :=
  ⟨fun _ _ sw _ _ _ _ _ _ _ hi ht ha hsrc hdst => copyAnswered sw hi ht ha hsrc hdst,
    fun _ _ sw _ _ _ _ _ _ _ _ _ hi ht ha hr => gsjobAnswered sw hi ht ha hr,
    fun _ _ sw _ _ _ _ _ _ hi ht ha hr => mvstackAnswered sw hi ht ha hr⟩

end Sys2Proof.Machine
end

section
/-!
SUPPORT. The jobs of a coach's own, MDRAIN and QUANT2, whose arguments and ranges pass their checks, and MWAIT.
-/

namespace Sys2Proof.Machine

open Sys2Proof.Claims

/-! ### Jobs that start at their issue (R282) -/

/-- An issuer that holds no registers for a job only awaits it. -/
theorem joined_none (h : Here) (id : Nat) : h.joined id none none = { h with c := { h.c with jobs := h.c.jobs ++ [id] } } := by
  simp [Here.joined]

/-- An instruction that starts a job of its issuer's own. -/
theorem native_starts {sw : Bool} {s : State} {h : Here} {work : JobWork} {pages : List (Nat × Nat)}
    {late : Option (Nat × Nat × Nat × Nat)} {body : State → Here → Res} (hi : Issues false s h)
    (hb : body s h = .ok (startJob s h work pages late)) : native sw false s body = .next (started s h work pages late sw) := by
  refine (native_issues hi hb).trans ?_
  rw [joined_none]
  rfl

theorem okAccu_store {h : Here} (ha : h.t.accu = true) : h.okAccu = .ok () := if_pos ha

/-- An MDRAIN takes its translations at its issue, or after the swap that a page of its output awaits (R95, R286). -/
theorem execMdrain_starts {s : State} {h : Here} (sw : Bool) {b : BitVec 8} {tm : BitVec 1} (sat : BitVec 1) (rm : BitVec 2)
    {dst max : List Piece} (hi : Issues false s h) (ha : h.t.accu = true) (hd : DrainArgs h b tm)
    (hdst : s.tensorRange h.agent (drainLayer h b) .store (h.arg64 b 2) (drainOut h b) (tidDim (drainOut h b) 0) = .ok dst)
    (hmax : if tm = 1 then s.wholeRange h.agent (maxLayer h b) .atomic (h.arg64 b 4) 4 = .ok max else max = []) :
    execMdrain sw b tm sat rm s = .next (started s h
      (.mdrain (drainOut h b) (fld (h.arg b 0).toNat 0 3) (tm == 1) (sat == 1) rm.toNat dst max)
      (if s.swapPending h.t.oid (drainPages s h b tm) then [] else drainPages s h b tm)
      (if s.swapPending h.t.oid (drainPages s h b tm) then some (drainLayer h b, h.arg64 b 2, maxLayer h b, h.arg64 b 4)
        else none) sw) := by
  obtain ⟨hfmt, hblk, hrank, hd1, hd0, hol, hml, hscope, htid, hword⟩ := hd
  unfold execMdrain
  refine native_starts hi ?_
  refine ok_then (okAccu_store ha) (ok_then (badArgs_false ?_) (ok_then (okTid_ok htid) (ok_then hdst ?_)))
  · simp only [Bool.or_eq_false_iff, bne_eq_false_iff_eq, beq_eq_false_iff_ne, decide_eq_false_iff_not, Bool.not_eq_false',
      Nat.not_lt, Nat.not_le, and_assoc]
    exact ⟨hfmt, hblk, hrank, hd1, hd0, hol, hml, hscope⟩
  · unfold drainPages
    by_cases ht : tm = 1
    · subst ht
      exact ok_then (okAlign_multiple _ (hword rfl)) (ok_then hmax rfl)
    · have hb : (tm == 1) = false := beq_eq_false_iff_ne.mpr ht
      rw [if_neg ht] at hmax ⊢
      subst hmax
      rw [hb]
      rfl

/-- A QUANT2 whose inputs and outputs lie in the scratchpad (R287). -/
theorem execQuant2_starts {s : State} {h : Here} (sw : Bool) {b : BitVec 8} {src ss ro co rs cs : List Piece}
    (hi : Issues false s h) (ha : h.t.accu = true) (hq : QuantArgs h b)
    (hsrc : s.tensorRange h.agent 0 .load (h.arg b 1).toNat (quantIn h b) (tidDim (quantIn h b) 0) = .ok src)
    (hss : s.scaleRange h.agent .load (quantIn h b) = .ok ss)
    (hro : s.tensorRange h.agent 0 .store (h.arg b 2).toNat (quantRow h b) (tidDim (quantRow h b) 0) = .ok ro)
    (hco : s.tensorRange h.agent 0 .store (h.arg b 3).toNat (quantCol h b) (tidDim (quantCol h b) 0) = .ok co)
    (hrs : s.scaleRange h.agent .store (quantRow h b) = .ok rs) (hcs : s.scaleRange h.agent .store (quantCol h b) = .ok cs) :
    execQuant2 sw b s = .next (started s h (.quant2 (quantIn h b) (quantRow h b) (quantCol h b)
      (src ++ ss.map fun p => { p with off := p.off + 2 ^ 60 }) ro co rs cs) [] none sw) := by
  obtain ⟨hfmt, hsame, hout, hboth, hrank, hd0, hd1, hbr, hbc, htid⟩ := hq
  obtain ⟨hr0, hr1, hrr, hrb, hrl, hrt⟩ := hboth _ (.inl rfl)
  obtain ⟨hc0, hc1, hcr, hcb, hcl, hct⟩ := hboth _ (.inr rfl)
  unfold execQuant2
  refine native_starts hi ?_
  refine ok_then (okAccu_store ha) (ok_then (badArgs_false ?_) (ok_then (okTid_ok htid) (ok_then (okTid_ok hrt)
    (ok_then (okTid_ok hct) (ok_then hsrc (ok_then hss (ok_then hro (ok_then hco (ok_then hrs (ok_then hcs rfl))))))))))
  simp only [Bool.or_eq_false_iff, bne_eq_false_iff_eq, decide_eq_false_iff_not, Bool.not_eq_false', List.contains_iff_mem,
    Nat.not_lt, Prod.mk.injEq, and_assoc]
  exact ⟨hfmt, hsame, hout, hr0.symm, hr1.symm, hc0.symm, hc1.symm, hrank, hrr, hcr, hd0, hd1, hrb, hcb, hbr, hbc, hrl, hcl⟩

/-- Settles O19: the operands pass their checks and the job starts; MWAIT waits for what awaits it. -/
theorem drainsQuantizesAndWaits : Obligations.DrainsQuantizesAndWaits := by
  refine ⟨fun s h sw b tm sat rm dst max hi ha hd hdst hmax => execMdrain_starts sw sat rm hi ha hd hdst hmax,
    fun s h sw b src ss ro co rs cs hi ha hq hsrc hss hro hco hrs hcs =>
      execQuant2_starts sw hi ha hq hsrc hss hro hco hrs hcs, fun s h sw hi => ?_⟩
  show execMwait sw s = _
  unfold execMwait
  refine nativeHere_issues hi ?_
  simp only [List.isEmpty_iff]
  split <;> rfl

end Sys2Proof.Machine
end

section
/-!
SUPPORT. The entry into a handler (R312, R319): when it is made, what it writes, and what holds it back.
-/

namespace Sys2Proof.Machine

open Sys2Proof.Claims

/-! ### The fault record (R317) -/

/-- Codes of R314 and R317 fill their fields of word 0. -/
theorem Stopped.record_eq {f : Stopped} (hf : RecordFits f) (token : Word) (pool : Nat) :
    f.record token pool = recordWords f token pool := by
  obtain ⟨hr, hs⟩ := hf
  have h0 : pack [(8, f.trap.cause.code), (4, f.trap.reason), (4, f.trap.space), (16, f.trap.detail.toNat)]
      = f.trap.cause.code * 2 ^ 24 + f.trap.reason % 16 * 2 ^ 20 + f.trap.space % 16 * 2 ^ 16 + f.trap.detail.toNat := by
    rw [Nat.mod_eq_of_lt hr, Nat.mod_eq_of_lt hs]
    simp only [pack, List.foldl]
    omega
  have h7 : (if f.trap.lanes.isEmpty then f.exec else maskOf (f.trap.lanes.map LaneFault.lane))
      = if f.trap.lanes = [] then f.exec else maskOf (f.trap.lanes.map LaneFault.lane) := by
    simp only [List.isEmpty_iff]
  unfold Stopped.record
  dsimp only
  rw [h0, h7]
  rfl

/-- The state with the record and the side buffer of a fault in the frame at `pa` (R316). -/
def State.framed (s : State) (oid pa : Nat) (f : Stopped) (token : Word) (pool : Nat) : State :=
  (s.writeLocs oid (.sto pa) (wordBytes (f.record token pool))).writeLocs oid (.sto (pa + 0x100))
    (wordBytes ((List.range 32).flatMap fun l => sideEntry f.trap l))

/-- A frame is written to storage: nothing else of the state changes but the releases that stood there. -/
theorem State.framed_eq (s : State) (oid pa : Nat) (f : Stopped) (token : Word) (pool : Nat) :
    ∃ m p, s.framed oid pa f token pool = { s with mem := m, posts := p } := by
  unfold State.framed
  obtain ⟨m, p, e⟩ := State.writeLocs_sto oid (wordBytes (f.record token pool)) s pa
  rw [e]
  exact State.writeLocs_sto oid _ { s with mem := m, posts := p } (pa + 0x100)

/-! ### The frame (R316, R321) -/

theorem State.coach_framed (s : State) (oid pa : Nat) (f : Stopped) (token : Word) (pool team ci : Nat) :
    (s.framed oid pa f token pool).coach team ci = s.coach team ci := by
  obtain ⟨m, p, e⟩ := State.framed_eq s oid pa f token pool
  rw [e]
  rfl

theorem State.life_framed (s : State) (oid pa : Nat) (f : Stopped) (token : Word) (pool : Nat) :
    (s.framed oid pa f token pool).life = s.life := by
  obtain ⟨m, p, e⟩ := State.framed_eq s oid pa f token pool
  rw [e]

/-- What a write of a frame of owner `oid` makes of the translation of the frame. -/
def State.frameAt (s : State) (oid : Nat) (f : Stopped) (token : Word) (pool : Nat) : Trans → FrameWrite
  | .held chans => .held chans true
  | .fails _ => .fails
  | .ok pa _ _ => if s.channelHeld pa then .held [channelOf pa] false else .done (s.framed oid pa f token pool)

theorem State.writeFrame_translated {s : State} {t : Team} {c : Coach} (f : Stopped) (token : Word) (pool : Nat) {x : Trans}
    (ht : s.translate (some (Config.clusterOf t.core)) t.oid (c.area.toNat * 1024) .store = x) :
    s.writeFrame t c f token pool = s.frameAt t.oid f token pool x := by
  unfold State.writeFrame
  dsimp only
  rw [ht]
  cases x <;> rfl

/-! ### The entry (R312, R315, R319) -/

/-- A coach that is changed in place is found changed. -/
theorem State.coach_modCoach {s : State} {team ci : Nat} {t : Team} {c : Coach} (g : Coach → Coach)
    (h : s.coach team ci = some (t, c)) :
    (s.modCoach team ci g).coach team ci = some ({ t with coaches := t.coaches.modify ci g }, g c) := by
  unfold State.coach at h
  split at h
  · cases h
  case h_2 t' ht =>
    obtain ⟨c', hc, e⟩ := Option.map_eq_some_iff.mp h
    cases e
    simp [State.coach, State.modCoach, ht, hc]

/-- A pending stop that may enter its handler does. -/
theorem execHandlerEntry_mayEnter {s : State} {team ci : Nat} {f : Stopped} (hm : s.mode = .running)
    (he : MayEnter s team ci f) : exec (.handlerEntry team ci) s = .next (s.enterHandler team ci f) := by
  obtain ⟨t, c, rest, hc, hs, hres, hrun, hret, hall, hsaved, hparked⟩ := he
  show execHandlerEntry team ci s = _
  unfold execHandlerEntry State.tryEntry
  rw [whenRunning_running hm, hc]
  dsimp only
  rw [hs]
  refine congrArg _ (if_pos ?_)
  have hall' : (f.whole || c.convergedAll) = true := by simpa using hall
  simp [Team.here, hres, hrun, hret, hall', hsaved, hparked]

/-- A coach in the handler of its first stop (R319, R320). -/
def handling (c : Coach) (f : Stopped) (token : Word) : Coach :=
  { c with saved := some (savedContext c f token), stops := c.stops.drop 1, subs := [handlerSub c f], parents := [],
           nextId := c.nextId + 1, act := 0, faults := (c.faults + 1) % 2 ^ 18 }

section
variable {s : State} {team ci : Nat} {t : Team} {c : Coach} (f : Stopped) (hc : s.coach team ci = some (t, c))
include hc

theorem State.enterHandler_noImage (hi : t.image = none) : s.enterHandler team ci f = s.stopNode t.node 5 := by
  unfold State.enterHandler
  rw [hc]
  dsimp only
  rw [hi]

theorem State.enterHandler_fails (hi : t.image.isSome = true)
    (hw : ∀ pool, s.writeFrame t c f (tokenOf t.core c) pool = .fails) : s.enterHandler team ci f = s.stopNode t.node 5 := by
  obtain ⟨im, hi⟩ := Option.isSome_iff_exists.mp hi
  unfold State.enterHandler
  rw [hc]
  dsimp only
  rw [hi]
  dsimp only
  rw [hw]

theorem State.enterHandler_held {chans : List Nat} {reads : Bool} (hi : t.image.isSome = true)
    (hw : ∀ pool, s.writeFrame t c f (tokenOf t.core c) pool = .held chans reads) :
    s.enterHandler team ci f = s.waitFor (.entry team ci) chans reads := by
  obtain ⟨im, hi⟩ := Option.isSome_iff_exists.mp hi
  unfold State.enterHandler
  rw [hc]
  dsimp only
  rw [hi]
  dsimp only
  rw [hw]

/-- An entry whose frame is written: the coach handles the stop, and the stop is counted. -/
theorem State.enterHandler_done {x : State} {im : Image} (hi : t.image = some im)
    (hw : s.writeFrame t c f (tokenOf t.core c) im.pool = .done x) :
    ∃ g : Coach → Coach, g c = handling c f (tokenOf t.core c)
      ∧ s.enterHandler team ci f = (x.modCoach team ci g).count (0x400 + f.trap.cause.code / 16) := by
  unfold State.enterHandler
  rw [hc]
  dsimp only
  rw [hi]
  dsimp only
  rw [hw]
  refine ⟨_, ?_, rfl⟩
  simp only [handling, savedContext, handlerSub, Coach.savedS, Coach.savedSt, List.isEmpty_iff]

end

/-- Settles O48: the stop may enter, and the outcome of the frame's write decides. -/
theorem handlerEntrySaves : Obligations.HandlerEntrySaves := by
  refine ⟨fun s team ci f t c im pa leaf lvl hm he hf hc hi ht hh => ?_, fun s team ci f t c chans hm he hc hi ht => ?_,
    fun s team ci f t c pa leaf lvl hm he hc hi ht hh => ?_, fun s team ci f t c r hm he hc hi ht => ?_,
    fun s team ci f t c hm he hc hi => ?_⟩
  · have hw := (State.writeFrame_translated f (tokenOf t.core c) im.pool ht).trans (if_neg (Bool.eq_false_iff.mp hh))
    obtain ⟨g, hg, e⟩ := State.enterHandler_done f hc hi hw
    have hcoach := State.coach_modCoach g ((State.coach_framed s t.oid pa f (tokenOf t.core c) im.pool team ci).trans hc)
    refine ⟨_, _, (execHandlerEntry_mayEnter hm he).trans (congrArg _ e), ?_, hcoach.trans (by rw [hg]; rfl), ?_⟩
    · rw [← Stopped.record_eq hf]
      rfl
    · rw [← State.life_framed s t.oid pa f (tokenOf t.core c) im.pool]
      rfl
  · exact (execHandlerEntry_mayEnter hm he).trans
      (congrArg _ (State.enterHandler_held f hc hi fun pool => State.writeFrame_translated f _ pool ht))
  · exact (execHandlerEntry_mayEnter hm he).trans (congrArg _ (State.enterHandler_held f hc hi fun pool =>
      (State.writeFrame_translated f _ pool ht).trans (if_pos hh)))
  · exact (execHandlerEntry_mayEnter hm he).trans
      (congrArg _ (State.enterHandler_fails f hc hi fun pool => State.writeFrame_translated f _ pool ht))
  · exact (execHandlerEntry_mayEnter hm he).trans (congrArg _ (State.enterHandler_noImage f hc hi))

end Sys2Proof.Machine
end

section
/-!
SUPPORT. Online softmax: the checks of R290 on V registers that are free.
-/

namespace Sys2Proof.Machine

open Sys2Proof.Claims

/-- An even pair of V registers passes the check of R290. -/
theorem okVPair_vPair {h : Here} {f : BitVec 8} (hf : VPair h f) : h.okVPair f = .ok () := by
  obtain ⟨he, hv, hfree⟩ := hf
  have hpair : ¬ ((decide (f.toNat % 2 ≠ 0) || decide (192 ≤ f.toNat)) = true) := by simp [he, hv]
  exact (if_neg hpair).trans (okVs_vsFree hfree)

/-- Settles O26: the state pair, the inputs and the result pair pass their checks, and every active lane takes its step. -/
theorem softmaxComplete : Obligations.SoftmaxComplete := by
  refine ⟨fun s h sw p a nm1 hi hp ha hf => ?_, fun s h sw d p hi hd hp => ?_⟩
  · show execSmxacc sw p a nm1 s = _
    exact nativeHere_issues hi (ok_then (okVPair_vPair hp) ((if_neg (Nat.not_le.mpr ha)).trans
      (ok_then (okVs_vsFree hf) rfl)))
  · show execSmxfin sw d p s = _
    exact nativeHere_issues hi (ok_then (okVPair_vPair hd) (ok_then (okVPair_vPair hp) rfl))

end Sys2Proof.Machine
end

section
/-!
SUPPORT. The prefix, the fences and REPLAY, on issuers and operands that pass their checks.
-/

namespace Sys2Proof.Machine

open Sys2Proof.Claims

/-- An IMMX before a word that has an immediate issues: its bits are kept for that word (R172, R207). -/
theorem execImmx_kept {s : State} {h : Here} {imm : BitVec 24} {w : Word} (hh : s.here = some h) (hw : h.run.words < 23)
    (hf : s.fetch h (h.g.pc + 4) = .ok w) (ht : takesImmx imm w = true) :
    execImmx imm s = .next (s.put { h with g := { h.g with
      pc := h.g.pc + 4, run := some { h.run with words := h.run.words + 1, pre := some imm } } }) := by
  unfold execImmx
  rw [hh]
  dsimp only
  rw [hf, if_neg (Nat.not_le.mpr hw)]
  exact if_pos ht

/-- A handler's check of HND passes (R213). -/
theorem hnd_then {β : Type} {h : Here} {k : Unit → Except Stop β} {x : Except Stop β} (hs : h.c.saved.isSome = true)
    (hk : k () = x) : (if (!h.c.hnd) = true then .error illegal >>= k else k ()) = x := by
  rw [show h.c.hnd = true from hs]
  exact hk

/-- A walk that finds no held channel is done (R339). -/
theorem State.walkDone_ok {s : State} {oid x : Nat} (hw : ∀ ch, s.walkLeaf oid x ≠ .waits ch) :
    s.walkDone oid x = .ok () := by
  unfold State.walkDone
  split
  case h_1 ch e => exact absurd e (hw ch)
  case h_2 => rfl

/-- Settles O8: no check stands in the way of a word; a walk that waits for no channel lets REPLAY of a page go on. -/
theorem prefixesFencesAndReplays : Obligations.PrefixesFencesAndReplays := by
  refine ⟨fun s h imm w hh hw hf ht => execImmx_kept hh hw hf ht, fun s h sw kind sc hi => ?_, fun s h sw hi => ?_,
    fun s h sw r hi hs hr => ?_, fun s h sw r hi hs hr hwalk => ?_⟩
  · show execFence sw kind sc s = _
    exact native_issues hi rfl
  · show execOpfence sw s = _
    exact nativeHere_issues hi rfl
  · show execReplayToken sw r s = _
    exact native_issues hi (hnd_then hs (ok_then (okU_usable hr) rfl))
  · show execReplayPage sw r s = _
    exact native_issues hi (hnd_then hs (ok_then (okUPair_usablePair hr) (ok_then (State.walkDone_ok hwalk) rfl)))

end Sys2Proof.Machine
end

section
/-!
SUPPORT. FFRDY and RCPROBE: the mask of tags, and the two answers to a probe.
-/

namespace Sys2Proof.Machine

open Sys2Proof.Claims

/-- A mask of tags that exist passes its check (R258, R259). -/
theorem tagMask_below {h : Here} {r : BitVec 8} (hr : UsablePair h r) (ht : TagsBelow h r) :
    h.tagMask r = .ok (h.uPair r.toNat).1 :=
  ok_then (okUPair_usablePair hr) (if_neg (not_not.mpr ht))

/-- The executor of a token has been asked where the coach has recorded so (R268). -/
theorem Coach.asked_iff {c : Coach} {token : Word} : c.asked token = true ↔ (token, 4, 1) ∈ c.disps :=
  List.contains_iff_mem

/-- Settles O9: the operand passes its check; a call whose final disposition the core holds leaves the calls of the coach, and
of a token without one the executor is asked once. -/
theorem readyTagsAndProbes : Obligations.ReadyTagsAndProbes := by
  refine ⟨fun s h sw r k hi hr ht => ?_, fun s h sw r k code fault hi hr hd => ?_, fun s h sw r k hi hr hd => ?_⟩
  · show execFfrdy sw r k s = _
    exact native_issues hi (ok_then (tagMask_below hr ht) rfl)
  · show ∃ g, execRcprobe sw r k s = _ ∧ _
    refine ⟨_, native_issues hi (ok_then (okU_usable hr) (by dsimp only; rw [hd]; rfl)), ?_, fun i x hx hmem => ?_⟩
    · rfl
    · have hkept := (List.mem_filter.mp hmem).2
      rw [hx] at hkept
      exact of_decide_eq_true hkept rfl
  · show ∃ g, execRcprobe sw r k s = _ ∧ _
    simp only [← Coach.asked_iff]
    refine ⟨_, native_issues hi (ok_then (okU_usable hr) (by dsimp only; rw [hd]; rfl)), ?_⟩
    rfl

end Sys2Proof.Machine
end

section
/-!
SUPPORT. The trailer of RFE (R320, R323): the coach after the return, and the three actions.
-/

namespace Sys2Proof.Machine

open Sys2Proof.Claims

/-! ### The trailer of RFE (R206) -/

theorem State.trailer_rfe {s : State} {h : Here} (wait : BitVec 8) (hk : h.run.closer = .rfe) :
    s.trailer h wait = s.rfe h := by
  unfold State.trailer
  dsimp only
  rw [hk]

/-- A trailer that is not the first word of its run takes the effect that the run keeps, its post applied (R175, R206). -/
theorem exec_runend_rfe {s : State} {h : Here} (post wait : BitVec 8) (hh : s.here = some h) (hw : 0 < h.run.words)
    (hk : h.run.closer = .rfe) : exec (.runend post wait) s = .next (s.rfe (h.post post)) := by
  show execRunend post wait s = _
  unfold execRunend
  rw [hh]
  exact (if_neg (Nat.ne_of_gt hw)).trans (congrArg _ (State.trailer_rfe (h := h.post post) wait hk))

/-! ### What an AR fence leaves unchanged -/

@[simp] theorem Coach.acquire_stops (c : Coach) (q : Spot) (sc : Nat) (rs : List Release) :
    (c.acquire q sc rs).stops = c.stops := by
  unfold Coach.acquire
  refine foldl_keeps (fun x : Coach => x.stops = c.stops) _ (fun x r hx => ?_) _ c rfl
  exact hx

@[simp] theorem Coach.fence_stops (c : Coach) (q : Spot) (sc : Nat) : (c.fence q sc).stops = c.stops :=
  c.acquire_stops q sc c.seen

/-! ### The return -/

/-- With no other fault pending, the lanes that waited for the delivery of the first go on with the others (R48). -/
theorem unpark_restore_eq_returned {h : Here} {v : Saved} (hs : h.c.stops = []) :
    ((h.c.fence h.spot 5).restore v).unpark v.fault = returned h v := by
  have hmore : (!((h.c.fence h.spot 5).restore v).stops.isEmpty) = false := by
    show (!(h.c.fence h.spot 5).stops.isEmpty) = false
    rw [Coach.fence_stops, hs]
    rfl
  unfold Coach.unpark
  rw [hmore]
  rfl

/-- A coach without a pending fault enters no handler. -/
theorem State.tryEntry_noStops {s : State} {team ci : Nat} (hs : ∀ t c, s.coach team ci = some (t, c) → c.stops = []) :
    s.tryEntry team ci = s := by
  unfold State.tryEntry
  split
  · rfl
  case h_2 t c e => rw [hs t c e]

/-- A coach that is changed in place is found changed, where it is found at all. -/
theorem State.coach_modCoach_map (s : State) (team ci : Nat) (g : Coach → Coach) :
    (s.modCoach team ci g).coach team ci
      = (s.coach team ci).map fun p => ({ p.1 with coaches := p.1.coaches.modify ci g }, g p.2) := by
  unfold State.coach
  rw [State.modCoach_teams, Cells.find_modify_self]
  cases Cells.find s.teams team with
  | none => rfl
  | some t => simp [Function.comp_def]

/-- The coach of a state in which it has been replaced is the new one. -/
theorem State.coach_replaced {s : State} {team ci : Nat} {c c' : Coach} {t : Team}
    (h : (s.modCoach team ci fun _ => c).coach team ci = some (t, c')) : c' = c := by
  rw [State.coach_modCoach_map] at h
  obtain ⟨p, -, e⟩ := Option.map_eq_some_iff.mp h
  exact (congrArg Prod.snd e).symm

section
variable {s : State} {h : Here} {v : Saved}

theorem returned_stops : (returned h v).stops = h.c.stops := Coach.fence_stops h.c h.spot 5

variable (hv : h.c.saved = some v) (hs : h.c.stops = [])
include hv hs

/-- A return that resumes: no other fault is pending, so that no handler is entered. -/
theorem State.rfe_resumes (ha : h.c.act = 0 ∨ h.c.act = 1 ∧ (v.replayed = true ∨ 1024 ≤ s.waitCount (h.t.core / 48))) :
    s.rfe h = (coachLeft s h (returned h v)).checkStall h.team := by
  have hentry : (coachLeft s h (returned h v)).tryEntry h.team h.ci = coachLeft s h (returned h v) :=
    State.tryEntry_noStops fun t c e => by rw [State.coach_replaced e, returned_stops, hs]
  unfold State.rfe
  rw [hv]
  dsimp only
  rw [unpark_restore_eq_returned hs]
  rcases ha with ha | ⟨ha, hgo⟩
  · rw [ha]
    exact congrArg (fun x => x.checkStall h.team) hentry
  · have hgo' : (v.replayed || decide (1024 ≤ s.waitCount (h.t.core / 48))) = true := by simpa using hgo
    rw [ha]
    exact (if_pos hgo').trans (congrArg (fun x => x.checkStall h.team) hentry)

/-- A return that parks under the wait table (R323). -/
theorem State.rfe_parks (ha : h.c.act = 1) (hr : v.replayed = false) (hw : s.waitCount (h.t.core / 48) < 1024) :
    s.rfe h = { coachLeft s h { returned h v with parked := some v.token } with
      waits := s.waits ++ [{ tower := h.t.core / 48, token := v.token, oid := h.t.oid, team := h.team, coach := h.ci,
                             addr := if v.fault.trap.cause = .pageFault then some v.fault.trap.addr else none }] } := by
  have hgo : ¬ (v.replayed || decide (1024 ≤ s.waitCount (h.t.core / 48))) = true := by simp [hr, hw]
  unfold State.rfe
  rw [hv]
  dsimp only
  rw [unpark_restore_eq_returned hs, ha]
  exact if_neg hgo

/-- A return that abandons the node (R320). -/
theorem State.rfe_abandons (ha : 2 ≤ h.c.act.toNat) :
    s.rfe h = (coachLeft s h { returned h v with parked := some v.token }).stopNode h.t.node 5 := by
  unfold State.rfe
  rw [hv]
  dsimp only
  rw [unpark_restore_eq_returned hs]
  split
  case h_1 e => omega
  case h_2 e => omega
  case h_3 => rfl

end

/-- Settles O49: the action decides, and a park finds its fault replayed, the wait table full, or room in it. -/
theorem returnFromHandlerRestores : Obligations.ReturnFromHandlerRestores := by
  refine ⟨fun s h v post wait ⟨hh, _, hw, hk, hv, hs, ha⟩ => ?_,
    fun s h v post wait ⟨hh, _, hw, hk, hv, hs, ha⟩ hn hroom => ?_,
    fun s h v post wait ⟨hh, _, hw, hk, hv, hs, ha⟩ hor => ?_,
    fun s h v post wait act ⟨hh, _, hw, hk, hv, hs, ha⟩ hact => ?_⟩
  all_goals refine (exec_runend_rfe post wait hh hw hk).trans (congrArg _ ?_)
  · exact State.rfe_resumes (h := h.post post) hv hs (.inl ha)
  · exact State.rfe_parks (h := h.post post) hv hs ha hn hroom
  · exact State.rfe_resumes (h := h.post post) hv hs (.inr ⟨ha, hor⟩)
  · exact State.rfe_abandons (h := h.post post) hv hs (ha ▸ hact)

end Sys2Proof.Machine
end

section
/-!
SUPPORT. Words made of fields (R9, R15): a word that is packed from fields holds them, and it is the only word that does; part
of a field.
-/

namespace Sys2Proof

/-- The fields `l` of a word, each given as (width, value), take `widths l` bits. -/
def widths : List (Nat × Nat) → Nat
  | [] => 0
  | (w, _) :: l => w + widths l

/-- Every value has room in its field. -/
def Fits : List (Nat × Nat) → Prop
  | [] => True
  | (w, v) :: l => v < 2 ^ w ∧ Fits l

/-- The number `n` holds the fields `l` from bit `hi - 1` down to bit 0 (R9, R15). -/
def Holds (n : Nat) : Nat → List (Nat × Nat) → Prop
  | hi, [] => hi = 0
  | hi, (w, v) :: l => w ≤ hi ∧ fld n (hi - w) w = v ∧ Holds n (hi - w) l

@[simp] theorem fb_toNat (n lo len : Nat) : (fb n lo len).toNat = fld n lo len := rfl

theorem bit_lt (b : Bool) : bit b < 2 ^ 1 := by cases b <;> decide

theorem bit_fld_one (n lo : Nat) : bit (fld n lo 1 == 1) = fld n lo 1 := by
  have hlt : fld n lo 1 < 2 := Nat.mod_lt _ (by decide)
  interval_cases fld n lo 1 <;> rfl

theorem mod_two_pow_add (n w k : Nat) : n % 2 ^ (w + k) = fld n k w * 2 ^ k + n % 2 ^ k := by
  rw [Nat.add_comm w k, Nat.pow_add, Nat.mod_mul, fld, Nat.mul_comm, Nat.add_comm]

theorem widths_cons (w v : Nat) (l : List (Nat × Nat)) : widths ((w, v) :: l) = w + widths l := rfl

theorem foldl_pack (l : List (Nat × Nat)) (acc : Nat) :
    l.foldl (fun acc p => acc * 2 ^ p.1 + p.2) acc = acc * 2 ^ widths l + pack l := by
  induction l generalizing acc with
  | nil => simp [widths, pack]
  | cons p l ih =>
    obtain ⟨w, v⟩ := p
    have hpack : pack ((w, v) :: l) = (0 * 2 ^ w + v) * 2 ^ widths l + pack l := ih _
    rw [List.foldl_cons, ih, hpack, widths_cons, Nat.pow_add]
    ring

theorem pack_cons (w v : Nat) (l : List (Nat × Nat)) : pack ((w, v) :: l) = v * 2 ^ widths l + pack l := by
  refine (foldl_pack l (0 * 2 ^ w + v)).trans ?_
  rw [Nat.zero_mul, Nat.zero_add]

theorem pack_lt {l : List (Nat × Nat)} (h : Fits l) : pack l < 2 ^ widths l := by
  induction l with
  | nil => decide
  | cons p l ih =>
    obtain ⟨w, v⟩ := p
    obtain ⟨hv, hl⟩ := h
    calc pack ((w, v) :: l) = v * 2 ^ widths l + pack l := pack_cons w v l
      _ < v * 2 ^ widths l + 2 ^ widths l := Nat.add_lt_add_left (ih hl) _
      _ = (v + 1) * 2 ^ widths l := (Nat.succ_mul ..).symm
      _ ≤ 2 ^ w * 2 ^ widths l := Nat.mul_le_mul_right _ hv
      _ = 2 ^ widths ((w, v) :: l) := by rw [widths_cons, Nat.pow_add]

theorem widths_of_holds {n : Nat} {l : List (Nat × Nat)} {hi : Nat} (h : Holds n hi l) : widths l = hi := by
  induction l generalizing hi with
  | nil => exact h.symm
  | cons p l ih =>
    obtain ⟨hw, -, hl⟩ := h
    rw [widths_cons, ih hl]
    omega

/-- The word is made of the fields that it holds. -/
theorem pack_of_holds {n : Nat} {l : List (Nat × Nat)} {hi : Nat} (h : Holds n hi l) : pack l = n % 2 ^ hi := by
  induction l generalizing hi with
  | nil => subst h; simp [pack, Nat.mod_one]
  | cons p l ih =>
    obtain ⟨w, v⟩ := p
    obtain ⟨hw, hv, hl⟩ := h
    obtain ⟨k, rfl⟩ := Nat.exists_eq_add_of_le hw
    rw [Nat.add_sub_cancel_left] at hv hl
    rw [pack_cons, widths_of_holds hl, ih hl, mod_two_pow_add, hv]

/-- A word that is made of fields holds them. -/
theorem holds_of_pack {n : Nat} {l : List (Nat × Nat)} (hf : Fits l) (h : n % 2 ^ widths l = pack l) :
    Holds n (widths l) l := by
  induction l with
  | nil => rfl
  | cons p l ih =>
    obtain ⟨w, v⟩ := p
    obtain ⟨hv, hl⟩ := hf
    rw [widths_cons, mod_two_pow_add, pack_cons] at h
    have hlow : n % 2 ^ widths l = pack l := by
      have hmod := congrArg (· % 2 ^ widths l) h
      simpa [Nat.mul_add_mod', Nat.mod_eq_of_lt (pack_lt hl)] using hmod
    have hhigh : fld n (widths l) w = v :=
      Nat.eq_of_mul_eq_mul_right (Nat.two_pow_pos _) (by omega : fld n (widths l) w * 2 ^ widths l = v * 2 ^ widths l)
    rw [widths_cons]
    refine ⟨Nat.le_add_right .., ?_, ?_⟩ <;> rw [Nat.add_sub_cancel_left]
    · exact hhigh
    · exact ih hl hlow

theorem holds_pack {l : List (Nat × Nat)} (hf : Fits l) : Holds (pack l) (widths l) l :=
  holds_of_pack hf (Nat.mod_eq_of_lt (pack_lt hf))

/-! ### Reading a field, and part of a field -/

/-- Part of a field (R9). -/
theorem fld_fld {n lo len k w : Nat} (hk : lo ≤ k) (hw : k + w ≤ lo + len) :
    fld (fld n lo len) (k - lo) w = fld n k w := by
  obtain ⟨j, rfl⟩ := Nat.exists_eq_add_of_le hk
  obtain ⟨r, rfl⟩ : ∃ r, len = j + w + r := ⟨len - (j + w), by omega⟩
  rw [Nat.add_sub_cancel_left, fld, fld, fld, Nat.add_assoc, Nat.pow_add 2 j, Nat.mod_mul_right_div_self, Nat.pow_add 2 w,
    Nat.mod_mul_right_mod, Nat.div_div_eq_div_mul, Nat.pow_add]

/-- A test of a wide field fails where part of the field holds something else. -/
theorem fld_beq_false {n lo len v k w m : Nat} (hm : fld n k w = m) (hk : lo ≤ k) (hw : k + w ≤ lo + len)
    (hne : fld v (k - lo) w ≠ m) : (fld n lo len == v) = false := by
  refine beq_false_of_ne fun h => hne ?_
  rw [← h, fld_fld hk hw, hm]

/-- A field that was packed from a bit vector reads as that. -/
theorem fld_eq_toNat {n lo len : Nat} {x : BitVec len} : fld n lo len = x.toNat ↔ x = fb n lo len := by
  rw [← fb_toNat, BitVec.toNat_inj, eq_comm]

theorem bit_beq_one (b : Bool) : (bit b == 1) = b := by cases b <;> rfl

/-- The bits `[lo + len - 1 : lo]` of the fields `l`, which stand below bit `hi`, where one field has them all. -/
def fieldPart : Nat → List (Nat × Nat) → Nat → Nat → Option Nat
  | _, [], _, _ => none
  | hi, (w, v) :: l, lo, len =>
    if hi - w ≤ lo then if lo + len ≤ hi then some (fld v (lo - (hi - w)) len) else none else fieldPart (hi - w) l lo len

theorem Holds.part {n hi lo len v : Nat} {l : List (Nat × Nat)} (h : Holds n hi l) (hp : fieldPart hi l lo len = some v) :
    fld n lo len = v := by
  induction l generalizing hi with
  | nil => nomatch hp
  | cons p l ih =>
    obtain ⟨w, u⟩ := p
    obtain ⟨hw, rfl, hl⟩ := h
    unfold fieldPart at hp
    split at hp
    · split at hp
      · rw [← Option.some.inj hp, fld_fld ‹_› (by omega)]
      · nomatch hp
    · exact ih hl hp

end Sys2Proof
end

section
/-!
SUPPORT. The encoding of native words (R166 to R187): what a decoder reads from a word has that word, group by group, and an
instruction is read back from its word.
-/

namespace Sys2Proof

open Sys2Proof.Machine

/-! ### What is decoded from a word has that word -/

theorem encodeFields_of_holds {i : Instr} {n : Nat} {l : List (Nat × Nat)} (hi : encodeFields i = some (pack l))
    (hn : n < 2 ^ 32) (h : Holds n 32 l) : encodeFields i = some n := by
  rw [hi, pack_of_holds h, Nat.mod_eq_of_lt hn]

/-- What a decoder answers for `n` has the word `n`. -/
abbrev Encodes (n : Nat) : Option Instr → Prop := SomeHas fun i => encodeFields i = some n

/-- The word `n` has these values in P, SW and MAJOR (R166). -/
def Major (p : Nat) (sw : Bool) (m n : Nat) : Prop :=
  n < 2 ^ 32 ∧ fld n 31 1 = p ∧ fld n 30 1 = bit sw ∧ fld n 24 6 = m

section
variable {i : Instr} {n p m : Nat} {sw : Bool} {l : List (Nat × Nat)}

/-- A row without a test. -/
theorem Major.all (h : Major p sw m n) (hi : encodeFields i = some (pack ((1, p) :: (1, bit sw) :: (6, m) :: l)))
    (hl : Holds n 24 l) : Encodes n (some i) := by
  obtain ⟨hn, hp, hs, hm⟩ := h
  exact encodeFields_of_holds hi hn ⟨by decide, hp, by decide, hs, by decide, hm, hl⟩

/-- A row whose test is that the fixed fields of the word hold their values, before the other rows. -/
theorem Major.row (h : Major p sw m n) {c : Bool} {x : Option Instr}
    (hi : encodeFields i = some (pack ((1, p) :: (1, bit sw) :: (6, m) :: l))) (hl : c = true → Holds n 24 l)
    (hx : Encodes n x) : Encodes n (if c then some i else x) := by
  cases c with
  | false => exact hx
  | true => exact h.all hi (hl rfl)

end

/-- What the map of the uniform pipe answers has the word (R184). -/
theorem decodeUniform_encodes {sw : Bool} {n m : Nat} (h : Major 1 sw m n) : Encodes n (decodeUniform sw n m) := by
  unfold decodeUniform decodeCtl decodeMsk decodeUls decodeUatom decodeMatx
  split
  any_goals exact h.all rfl (by simp [Holds])
  -- IMMX and RUNEND have no SW (R166).
  case h_42 =>
    cases sw with
    | true => exact trivial
    | false => exact h.all (i := .immx _) rfl (by simp [Holds])
  case h_43 =>
    cases sw with
    | true => exact trivial
    | false => exact h.row (i := .runend _ _) rfl (fun ht => by simpa [Holds] using ht) trivial
  all_goals
    repeat refine h.row rfl (fun ht => by simpa [Holds, and_assoc] using ht) ?_
    exact trivial

/-- What the map of the lane pipe answers has the word (R185). -/
theorem decodeLane_encodes {sw : Bool} {n m : Nat} (h : Major 0 sw m n) : Encodes n (decodeLane sw n m) := by
  unfold decodeLane decodePshi decodeSfn decodeLs decodePlane decodeEnv
  split
  any_goals exact h.all rfl (by simp [Holds])
  all_goals
    repeat refine h.row rfl (fun ht => by simpa [Holds, and_assoc] using ht) ?_
    exact trivial

/-- What is decoded from a word has that word. -/
theorem decodeFields_encodes {n : Nat} (hn : n < 2 ^ 32) : Encodes n (decodeFields n) := by
  unfold decodeFields
  split
  case isTrue hp => exact decodeUniform_encodes ⟨hn, by simpa using hp, (bit_fld_one n 30).symm, rfl⟩
  case isFalse hp =>
    have hlt : fld n 31 1 < 2 := Nat.mod_lt _ (by decide)
    exact decodeLane_encodes ⟨hn, by simp at hp; omega, (bit_fld_one n 30).symm, rfl⟩

/-! ### An instruction is read back from its word -/

/-- What is read back from a word follows from what the map of its pipe answers for every number that holds its fields. -/
theorem decodeFields_pack {i : Instr} {p m s : Nat} {l : List (Nat × Nat)} (hf : Fits ((1, p) :: (1, s) :: (6, m) :: l))
    (hw : widths l = 24)
    (h : ∀ n, Holds n 24 l → (if p == 1 then decodeUniform (s == 1) n m else decodeLane (s == 1) n m) = some i) :
    pack ((1, p) :: (1, s) :: (6, m) :: l) < 2 ^ 32
      ∧ decodeFields (pack ((1, p) :: (1, s) :: (6, m) :: l)) = some i := by
  have hwidths : widths ((1, p) :: (1, s) :: (6, m) :: l) = 32 := by simp only [widths_cons, hw]
  have hholds := holds_pack hf
  rw [hwidths] at hholds
  obtain ⟨-, hp, -, hs, -, hm, hl⟩ := hholds
  refine ⟨hwidths ▸ pack_lt hf, ?_⟩
  rw [← h _ hl, decodeFields, hp, hs, hm]

/-- An instruction is read back from its word (R184 to R187). A number that holds its fields passes the test of its own row, and
fails the tests before that: where these read more bits than the minor, by the bits of the minor. -/
theorem decodeFields_of_encodeFields {i : Instr} {n : Nat} (h : encodeFields i = some n) :
    n < 2 ^ 32 ∧ decodeFields n = some i := by
  cases i
  all_goals cases h
  all_goals
    refine decodeFields_pack (by simp only [Fits, bit_lt, BitVec.isLt, true_and, and_true]; decide) rfl fun n hl => ?_
  all_goals have hn := hl
  all_goals simp only [Holds, fld_eq_toNat, bit_beq_one, Nat.reduceSub, Nat.reduceLeDiff, true_and, and_true] at hn ⊢
  any_goals casesm* _ ∧ _
  all_goals subst_vars
  any_goals rfl
  case bra | call | callr | brr | ret | endLanes | trap | rfe | replayToken | replayPage | icinv | fence | opfence | waitany
      | waitall | ffrdy | rcwait | rcprobe =>
    show decodeCtl _ n = _
    simp [decodeCtl, *]
  case exrd | exwr | exld | exsv | mand | mor | mxor | mnot | mrd | mwr | mpop =>
    show decodeMsk _ n = _
    simp [decodeMsk, *]
  case uldb | uldh | uldw | uldd | uldq | ustb | usth | ustw | ustd | ustq =>
    show decodeUls _ n = _
    simp [decodeUls, *]
  case uaadd | uamin | uamax | uaand | uaor | uaxor | uaxchg | uacas =>
    show decodeUatom _ n = _
    simp [decodeUatom, *]
  case mma | mloop | mwait | mdrain | mvstack | quant2 | tidset | tidget =>
    show decodeMatx _ n = _
    simp (disch := decide) [decodeMatx, fld_beq_false (hl.part (lo := 4) (len := 4) rfl), *]
  case p8shl | p8shr | p8sar | p16shl | p16shr | p16sar =>
    show decodePshi _ n = _
    simp [decodePshi, *]
  case exp2 | log2 | rcp | rsqrt | sin | cos =>
    show decodeSfn _ n = _
    simp [decodeSfn, *]
  case ldb | ldh | ldw | ldd | ldq | stb | sth | stw | std | stq =>
    show decodeLs _ n = _
    simp [decodeLs, *]
  case pshift | prot | pspread | pfold | prefold | padd | psub | pmul | pmax | pmin | pdset | pdget =>
    show decodePlane _ n = _
    simp (disch := decide) [decodePlane, fld_beq_false (hl.part (lo := 11) (len := 4) rfl), *]
  case envclr | envins | envsum | envmax | envconv | envleg | enveval | envld | envst | envsimp =>
    show decodeEnv _ n = _
    simp (disch := decide) [decodeEnv, fld_beq_false (hl.part (lo := 4) (len := 4) rfl), *]
  -- The other majors list their rows themselves.
  case smxacc | smxfin =>
    show (if _ then some _ else _) = _
    simp (disch := decide) [fld_beq_false (hl.part (lo := 4) (len := 4) rfl), *]
  all_goals
    show (if _ then some _ else _) = _
    simp [*]

/-! ### The round trip -/

theorem decode_eq_some_iff {i : Instr} {w : Word} :
    decode w = some i ↔ decodeFields w.toNat = some i ∧ Instr.wellFormed i = true := Option.filter_eq_some_iff

theorem encode_eq_some_iff {i : Instr} {w : Word} : encode i = some w ↔ encodeFields i = some w.toNat := by
  constructor
  · intro h
    obtain ⟨n, hn, rfl⟩ := Option.map_eq_some_iff.mp h
    rw [hn, BitVec.toNat_ofNat, Nat.mod_eq_of_lt (decodeFields_of_encodeFields hn).1]
  · intro h
    rw [encode, h, Option.map_some, BitVec.ofNat_toNat, BitVec.setWidth_eq]

/-- Settles O54: the decoder's rows and the encoder's layouts name the same fields, and no two rows of a group overlap. -/
theorem nativeWordsRoundTrip : Obligations.NativeWordsRoundTrip := by
  refine ⟨fun i w hwf he => ?_, fun i w hd => ?_⟩
  · exact decode_eq_some_iff.mpr ⟨(decodeFields_of_encodeFields (encode_eq_some_iff.mp he)).2, hwf⟩
  · obtain ⟨hfields, hwf⟩ := decode_eq_some_iff.mp hd
    exact ⟨hwf, encode_eq_some_iff.mpr ((decodeFields_encodes w.isLt).of_eq hfields)⟩

/-- Settles O52: each native word is the encoding of its instruction; the others are computed. -/
theorem decodedWords : Obligations.DecodedWords := by
  obtain ⟨hdecode, -⟩ := nativeWordsRoundTrip
  exact ⟨hdecode (.uadd false 192 0 1) _ rfl rfl, hdecode (.umovi true 192 0xFFFF) _ rfl rfl,
    hdecode (.runend 1 2) _ rfl rfl, hdecode (.endLanes false) _ rfl rfl, hdecode (.iadd false 0 1 2) _ rfl rfl,
    rfl, rfl, rfl, rfl⟩

end Sys2Proof
end

section
/-!
SUPPORT. What a register write changes (R176, R177, R188, R221): a frame for one register, and for the lanes of a uniform write.
-/

namespace Sys2Proof.Machine

open Sys2Proof.Claims

/-- From `h` to `g` no other registers have changed than the V registers in `V`, the S registers in `S` and the T registers in
`T`, by the keys of their tables, and no field that is not about register writes. -/
structure WritesOnly (V S T : Nat → Prop) (h g : Here) : Prop where
  coach : SameButRegisters h.c g.c
  issuer : g = { h with c := g.c }
  vRegs : ∀ k, ¬ V k → vReg g k = vReg h k
  sRegs : ∀ k, ¬ S k → sReg g k = sReg h k
  tRegs : ∀ k, ¬ T k → tReg g k = tReg h k

section
variable {V S T : Nat → Prop} {h g k : Here}

theorem sameButRegisters_trans {a b c : Coach} (hab : SameButRegisters a b) (hbc : SameButRegisters b c) :
    SameButRegisters a c := by
  refine Eq.trans hbc ?_
  rw [hab]

theorem WritesOnly.refl (V S T : Nat → Prop) (h : Here) : WritesOnly V S T h h :=
  ⟨rfl, rfl, fun _ _ => rfl, fun _ _ => rfl, fun _ _ => rfl⟩

theorem WritesOnly.trans (hg : WritesOnly V S T h g) (gk : WritesOnly V S T g k) : WritesOnly V S T h k where
  coach := sameButRegisters_trans hg.coach gk.coach
  issuer := by
    refine gk.issuer.trans ?_
    rw [hg.issuer]
  vRegs j hj := (gk.vRegs j hj).trans (hg.vRegs j hj)
  sRegs j hj := (gk.sRegs j hj).trans (hg.sRegs j hj)
  tRegs j hj := (gk.tRegs j hj).trans (hg.tRegs j hj)

variable {n l : Nat} (x : Word) (taint : Bool)

theorem writesOnly_setV (hV : V (keyV n l)) : WritesOnly V S T h (h.setV n l x taint) where
  coach := rfl
  issuer := rfl
  vRegs k hk := by
    have hne : k ≠ keyV n l := fun e => hk (e ▸ hV)
    exact Prod.ext (Cells.get_set_ne _ _ _ hne) (Cells.get_set_ne _ _ _ hne)
  sRegs _ _ := rfl
  tRegs _ _ := rfl

theorem writesOnly_foldl_setV {ls : List Nat} (hV : ∀ l ∈ ls, V (keyV n l)) :
    WritesOnly V S T h (ls.foldl (fun h l => h.setV n l x taint) h) := by
  induction ls generalizing h with
  | nil => exact .refl V S T h
  | cons l ls ih =>
    obtain ⟨hl, hls⟩ := List.forall_mem_cons.mp hV
    exact (writesOnly_setV x taint hl).trans (ih hls)

theorem writesOnly_setS (hS : S n) : WritesOnly V S T h (h.setS n x taint) where
  coach := rfl
  issuer := rfl
  vRegs _ _ := rfl
  sRegs k hk := by
    have hne : k ≠ n := fun e => hk (e ▸ hS)
    exact Prod.ext (Cells.get_set_ne _ _ _ hne) (Cells.get_set_ne _ _ _ hne)
  tRegs _ _ := rfl

theorem writesOnly_setT (hT : T (keyV n l)) : WritesOnly V S T h (h.setT n l x taint) where
  coach := rfl
  issuer := rfl
  vRegs _ _ := rfl
  sRegs _ _ := rfl
  tRegs k hk := by
    have hne : k ≠ keyV n l := fun e => hk (e ▸ hT)
    exact Prod.ext (Cells.get_set_ne _ _ _ hne) (Prod.ext (Cells.get_set_ne _ _ _ hne) (Cells.get_set_ne false h.c.tw true hne))

end

theorem mem_lanesOf_lt {m : Word} {l : Nat} (hl : l ∈ lanesOf m) : l < 32 := List.mem_range.mp (List.mem_filter.mp hl).1

/-- A uniform write changes the V register in the active lanes, or the S register (R188). -/
theorem writesOnly_setU (h : Here) (f : Nat) (x : Word) (taint : Bool) :
    WritesOnly (fun k => f < 192 ∧ k / 32 = f) (fun k => 192 ≤ f ∧ k = f - 192) (fun _ => False) h (h.setU f x taint) := by
  unfold Here.setU
  split
  case isTrue hf =>
    refine writesOnly_foldl_setV x taint fun l hl => ⟨hf, ?_⟩
    have hlane := mem_lanesOf_lt hl
    show (32 * f + l) / 32 = f
    omega
  case isFalse hf => exact writesOnly_setS x taint ⟨Nat.le_of_not_lt hf, rfl⟩

/-- A lane write changes the V or the T register in its lane; a write to an S register does nothing (R221). -/
theorem writesOnly_setL (h : Here) (f l : Nat) (x : Word) (taint : Bool) :
    WritesOnly (fun k => f < 192 ∧ k = 32 * f + l) (fun _ => False) (fun k => 248 ≤ f ∧ k = 32 * (f - 248) + l) h
      (h.setL f l x taint) := by
  unfold Here.setL
  split
  case isTrue hf => exact writesOnly_setV x taint ⟨hf, rfl⟩
  case isFalse =>
    split
    case isTrue => exact .refl _ _ _ h
    case isFalse hf => exact writesOnly_setT x taint ⟨Nat.le_of_not_lt hf, rfl⟩

/-- A V register of which nothing is in flight reads back as it was written. -/
theorem vReg_setV {h : Here} {n l : Nat} (x : Word) (taint : Bool) (hv : Cells.rising h.c.v = true)
    (ht : Cells.rising h.c.vt = true) (hp : h.c.pending (keyV n l) = false) :
    vReg (h.setV n l x taint) (keyV n l) = (x, taint) := by
  unfold Here.setV
  rw [hp]
  exact Prod.ext (Cells.get_set_self 0 _ x hv) (Cells.get_set_self false _ taint ht)

/-- Settles O59: the frames of the two writes, and the read of what was written. -/
theorem registerWritesChangeOneRegister : Obligations.RegisterWritesChangeOneRegister := by
  refine ⟨fun h f x taint _ => ?_, fun h f l x taint _ => ?_, fun h n l x taint hv ht hp => vReg_setV x taint hv ht hp⟩
  · obtain ⟨hcoach, hissuer, hv, hs, ht⟩ := writesOnly_setU h f x taint
    exact ⟨hcoach, hissuer, fun k hk => hv k (by omega), fun k hk => hs k (by omega), fun k => ht k id⟩
  · obtain ⟨hcoach, hissuer, hv, hs, ht⟩ := writesOnly_setL h f l x taint
    exact ⟨hcoach, hissuer, fun k hk => hv k (by omega), fun k => hs k id, fun k hk => ht k (by omega)⟩

end Sys2Proof.Machine
end

section
/-!
SUPPORT. Run-closing instructions (R175): one whose trailer follows keeps its effect for that, in the words of the statements.
-/

namespace Sys2Proof.Machine

open Sys2Proof.Claims

theorem closing_issues {sw ro : Bool} {s : State} {h : Here} {f : State → Here → Except Stop Closer} {k : Closer}
    (hi : Issues ro s h) (ht : TrailerFollows s h) (hf : f s h = .ok k) :
    closing sw ro s f = .next (after s (keeps h k) sw) := by
  obtain ⟨hh, hr, hw⟩ := hi
  obtain ⟨w, hfetch, htrailer⟩ := ht
  exact closing_ok hh hr hw hf hfetch htrailer

/-- The offset of a branch counts words from the branch (R171). -/
theorem target_eq_branchTo (h : Here) (w off : Nat) : h.target w off = branchTo h w off := by
  unfold Here.target Here.offset branchTo
  cases h.run.pre <;> rfl

/-- All the active lanes take the branch where as many do (R241). -/
theorem takenLanes_eq_iff {h : Here} {d : BitVec 8} {zero : Bool} :
    takenLanes h d zero = lanesOf h.g.exec ↔ (takenLanes h d zero).length = (lanesOf h.g.exec).length :=
  ⟨congrArg List.length, List.filter_sublist.eq_of_length⟩

section
variable {s : State} {h : Here} (sw : Bool) {d : BitVec 8} (off : BitVec 16) (ht : TrailerFollows s h) (hd : Usable h d)
include ht hd

/-- BZ and BNZ keep a jump where they are taken (R201). -/
theorem uniBranch_keeps (hi : Issues true s h) {zero : Bool} {k : Closer}
    (hk : (if ((h.u d.toNat).1 == 0) == zero then .jump (branchTo h 16 off.toNat) false else .none) = k) :
    uniBranch sw d off s zero = .next (after s (keeps h k) sw) := by
  refine closing_issues hi ht (ok_then (okU_usable hd) (congrArg Except.ok ?_))
  rw [target_eq_branchTo]
  exact hk

/-- BVZ and BVNZ keep a jump where all active lanes take them, and a split where some do (R36, R241). -/
theorem laneBranch_keeps (hi : Issues false s h) (zero : Bool) :
    laneBranch sw d off s zero = .next (after s (keeps h (laneTransfer h d off zero)) sw) := by
  refine closing_issues hi ht (ok_then (okL_usable hd) (congrArg Except.ok ?_))
  unfold laneTransfer
  rw [target_eq_branchTo]
  simp only [takenLanes_eq_iff, ← List.isEmpty_iff]
  rfl

end

/-- A transfer is kept: the register that it needs passes its check, and what is computed is the effect of the statement. -/
theorem exec_transferOf {i : Instr} {s : State} {h : Here} {sw ro : Bool} {r : Option (BitVec 8)} {k : Closer}
    (hk : transferOf h i = some (sw, ro, r, k)) (hi : Issues ro s h) (ht : TrailerFollows s h)
    (hr : ∀ x, r = some x → Usable h x) : exec i s = .next (after s (keeps h k) sw) := by
  cases i
  all_goals cases hk
  case bz | bnz => exact uniBranch_keeps sw _ ht (hr _ rfl) hi (by simp)
  case bra off =>
    show execBra sw off s = _
    rw [← target_eq_branchTo]
    exact closing_issues hi ht rfl
  case call off =>
    show execCall sw off s = _
    rw [← target_eq_branchTo]
    exact closing_issues hi ht rfl
  case callr reg | brr reg | ret reg =>
    show regJump sw reg s _ = _
    exact closing_issues hi ht (ok_then (okU_usable (hr _ rfl)) rfl)
  case endLanes =>
    show execEndLanes sw s = _
    exact closing_issues hi ht rfl
  case trap reg code =>
    show execTrap sw reg code s = _
    exact closing_issues hi ht (ok_then (okU_usable (hr _ rfl)) rfl)
  case icinv sc =>
    show execIcinv sw sc s = _
    exact closing_issues hi ht rfl
  case rcwait reg k =>
    show execRcwait sw reg k s = _
    exact closing_issues hi ht (ok_then (okU_usable (hr _ rfl)) rfl)
  case bvz => exact laneBranch_keeps sw _ ht (hr _ rfl) hi true
  case bvnz => exact laneBranch_keeps sw _ ht (hr _ rfl) hi false

/-- Settles O6: a transfer is kept, and the waits and RFE, whose checks pass, keep their effects too. -/
theorem runClosingEffectsAreKept : Obligations.RunClosingEffectsAreKept := by
  refine ⟨fun i s h sw ro r k => exec_transferOf, fun s h sw r k hi ht hr hb => ?_, fun s h sw r hi ht hr hb => ?_,
    fun s h sw hi ht hs => ?_⟩
  · show execWaitany sw r k s = _
    exact closing_issues hi ht (ok_then (tagMask_below hr hb) rfl)
  · show execWaitall sw r s = _
    exact closing_issues hi ht (ok_then (tagMask_below hr hb) rfl)
  · show execRfe sw s = _
    exact closing_issues hi ht (if_pos hs)

end Sys2Proof.Machine
end

section
/-!
SUPPORT. Uniform arithmetic (R192 to R199): the shifts and compares of the model as operations on bit vectors, the two
shared shapes of uniform instructions, and the results of every instruction.
-/

namespace Sys2Proof.Machine

open Sys2Proof.Claims

/-! ### Shifts by bits [7:0] of an amount (R137, R194) -/

/-- The amount is bits [7:0], which is not reduced modulo 32. -/
theorem fld_amount (y : Word) : fld y.toNat 0 8 = y.toNat % 256 := fld_low _ _

/-- All the bits of a word are the word. -/
theorem fld_word (x : Word) : fld x.toNat 0 32 = x.toNat := (fld_low _ _).trans (Nat.mod_eq_of_lt x.isLt)

/-- Bit 31 is the sign. -/
theorem fld_top (x : Word) : fld x.toNat (32 - 1) 1 = 1 ↔ x.msb = true := fld_one_eq_one x 31

theorem shl32_eq_shiftLeft (x y : Word) : shl32 x y = x <<< (y.toNat % 256) := by
  apply BitVec.eq_of_toNat_eq
  rw [shl32, fld_amount, shlBits, BitVec.toNat_ofNat, BitVec.toNat_shiftLeft, Nat.shiftLeft_eq]
  split
  case isTrue => rw [fld_low, Nat.mod_mod]
  case isFalse hge => rw [Nat.mod_eq_zero_of_dvd (Dvd.dvd.mul_left (Nat.pow_dvd_pow 2 (Nat.le_of_not_lt hge)) _)]

theorem shr32_eq_ushiftRight (x y : Word) : shr32 x y = x >>> (y.toNat % 256) := by
  apply BitVec.eq_of_toNat_eq
  rw [shr32, fld_amount, shrBits, fld_word, BitVec.toNat_ofNat, BitVec.toNat_ushiftRight, Nat.shiftRight_eq_div_pow]
  split
  case isTrue => exact Nat.mod_eq_of_lt (Nat.lt_of_le_of_lt (Nat.div_le_self _ _) x.isLt)
  case isFalse hge =>
    have hpow : 2 ^ 32 ≤ 2 ^ (y.toNat % 256) := Nat.pow_le_pow_right (by decide) (Nat.le_of_not_lt hge)
    rw [Nat.div_eq_of_lt (Nat.lt_of_lt_of_le x.isLt hpow), Nat.zero_mod]

/-- An element of 32 bits is read as signed as the word itself is (R133). -/
theorem sext_toNat (x : Word) : sext 32 x.toNat = x.toInt := by
  rw [sext, fld_word, BitVec.toInt_eq_msb_cond]
  exact if_congr (fld_top x) rfl rfl

theorem ofNat_wrapInt (v : Int) : BitVec.ofNat 32 (wrapInt 32 v) = BitVec.ofInt 32 v := by
  apply BitVec.eq_of_toNat_eq
  rw [wrapInt, BitVec.toNat_ofNat, BitVec.toNat_ofInt]
  omega

/-- A shift by 32 or more leaves the sign alone. -/
theorem toInt_div_two_pow (x : Word) {n : Nat} (hn : 32 ≤ n) : x.toInt / ((2 ^ n : Nat) : Int) = if x.msb then -1 else 0 := by
  have hpow : 2 ^ 32 ≤ 2 ^ n := Nat.pow_le_pow_right (by decide) hn
  have hlow := x.le_toInt
  have hhigh := x.toInt_lt
  rw [BitVec.msb_eq_toInt]
  split
  case isTrue hneg => exact Int.ediv_eq_neg_one_of_neg_of_le (of_decide_eq_true hneg) (by omega)
  case isFalse hpos => exact Int.ediv_eq_zero_of_lt (by simpa using hpos) (by omega)

theorem sar32_eq_sshiftRight (x y : Word) : sar32 x y = x.sshiftRight (y.toNat % 256) := by
  rw [sar32, fld_amount, sarBits, ofNat_wrapInt, sext_toNat, BitVec.sshiftRight, Int.shiftRight_eq_div_pow]
  split
  case isTrue => rw [Nat.cast_pow, Nat.cast_ofNat]
  case isFalse hge => rw [toInt_div_two_pow x (Nat.le_of_not_lt hge), if_congr (fld_top x) rfl rfl]

/-- The amount of an immediate shift stands in bits [7:0] whole. -/
theorem zeroExtend_mod_256 (n : BitVec 6) : (n.zeroExtend 32).toNat % 256 = n.toNat := by
  rw [BitVec.toNat_setWidth]
  omega

/-! ### Compares (R195) -/

theorem ceq_eq_ite (x y : Word) : ceq x y = if x = y then 1 else 0 := by simp [ceq, flag]

theorem clt_eq_ite (x y : Word) : clt x y = if x.toInt < y.toInt then 1 else 0 := by simp [clt, flag]

theorem cltu_eq_ite (x y : Word) : cltu x y = if x.toNat < y.toNat then 1 else 0 := by simp [cltu, flag]

/-! ### The shared shapes -/

section
variable {s : State} {h : Here} (sw : Bool) {d a b : BitVec 8} {f : Word → Word → Word} (hi : Issues true s h)
  (hd : Usable h d) (ha : Usable h a)
include hi hd ha

theorem uniBin_issues (hb : Usable h b) {r : Word} (hr : f (h.u a.toNat).1 (h.u b.toNat).1 = r) :
    uniBin sw d a b s f = .next (after s (h.setU d.toNat r ((h.u a.toNat).2 || (h.u b.toNat).2)) sw) := by
  subst hr
  exact nativeHere_issues hi (ok_then (okU_usable hd) (ok_then (okU_usable ha) (ok_then (okU_usable hb) rfl)))

theorem uniImm_issues {imm : Here → Word} {r : Word} (hr : f (h.u a.toNat).1 (imm h) = r) :
    uniImm sw d a s imm f = .next (after s (h.setU d.toNat r (h.u a.toNat).2) sw) := by
  subst hr
  exact nativeHere_issues hi (ok_then (okU_usable hd) (ok_then (okU_usable ha) rfl))

end

/-! ### The results -/

theorem exec_uniformBinary {i : Instr} {s : State} {h : Here} {sw : Bool} {d a b : BitVec 8} {f : Word → Word → Word}
    (hf : uniformBinary i = some (sw, d, a, b, f)) (hi : Issues true s h) (hd : Usable h d) (ha : Usable h a)
    (hb : Usable h b) : exec i s =
      .next (after s (h.setU d.toNat (f (h.u a.toNat).1 (h.u b.toNat).1) ((h.u a.toNat).2 || (h.u b.toNat).2)) sw) := by
  cases i
  all_goals cases hf
  case uadd | usub | umul | umulh | umulhu | udiv | urem | uand | uor | uxor | umin | umax =>
    exact uniBin_issues sw hi hd ha hb rfl
  case ushl => exact uniBin_issues sw hi hd ha hb (shl32_eq_shiftLeft _ _)
  case ushr => exact uniBin_issues sw hi hd ha hb (shr32_eq_ushiftRight _ _)
  case usar => exact uniBin_issues sw hi hd ha hb (sar32_eq_sshiftRight _ _)
  case uceq => exact uniBin_issues sw hi hd ha hb (ceq_eq_ite _ _)
  case uclt => exact uniBin_issues sw hi hd ha hb (clt_eq_ite _ _)
  case ucltu => exact uniBin_issues sw hi hd ha hb (cltu_eq_ite _ _)

theorem exec_uniformImmediate {i : Instr} {s : State} {h : Here} {sw : Bool} {d a : BitVec 8} {f : Here → Word → Word}
    (hf : uniformImmediate i = some (sw, d, a, f)) (hi : Issues true s h) (hd : Usable h d) (ha : Usable h a) :
    exec i s = .next (after s (h.setU d.toNat (f h (h.u a.toNat).1) (h.u a.toNat).2) sw) := by
  cases i
  all_goals cases hf
  case uaddImm | uandImm | uorImm => exact uniImm_issues sw hi hd ha rfl
  case ushlImm n => exact uniImm_issues sw hi hd ha (by rw [shl32_eq_shiftLeft, zeroExtend_mod_256])
  case ushrImm n => exact uniImm_issues sw hi hd ha (by rw [shr32_eq_ushiftRight, zeroExtend_mod_256])
  case usarImm n => exact uniImm_issues sw hi hd ha (by rw [sar32_eq_sshiftRight, zeroExtend_mod_256])

/-- USEL writes the source that D's old value selects, with D's taint and that source's (R112, R195). -/
theorem setU_sel (h : Here) (d : Nat) (c x y : Word × Bool) :
    h.setU d (sel c.1 x.1 y.1) (c.2 || if c.1 ≠ 0 then x.2 else y.2)
      = if c.1 ≠ 0 then h.setU d x.1 (c.2 || x.2) else h.setU d y.1 (c.2 || y.2) := by
  unfold sel
  split <;> rfl

/-- Settles O1: the registers pass their checks, and the value of each instruction is that of its rule. -/
theorem uniformArithmeticResults : Obligations.UniformArithmeticResults := by
  refine ⟨fun i s h sw d a b f => exec_uniformBinary, fun i s h sw d a f => exec_uniformImmediate,
    fun s h sw d i hi hd => ?_, fun s h sw d a b hi hd ha hb => ?_, fun s h sw d a b hi hd ha hb => ?_,
    fun s h sw d a i hi hd ha => ?_⟩
  · show execUmovi sw d i s = _
    exact nativeHere_issues hi (ok_then (okU_usable hd) rfl)
  · show execUsel sw d a b s = _
    rw [← setU_sel]
    exact nativeHere_issues hi (ok_then (okU_usable hd) (ok_then (okU_usable ha) (ok_then (okU_usable hb) rfl)))
  · show execUaddp sw d a b s = _
    exact nativeHere_issues hi
      (ok_then (okUPair_usablePair hd) (ok_then (okUPair_usablePair ha) (ok_then (okU_usable hb) rfl)))
  · show execUaddpi sw d a i s = _
    exact nativeHere_issues hi (ok_then (okUPair_usablePair hd) (ok_then (okUPair_usablePair ha) rfl))

end Sys2Proof.Machine
end

section
/-!
SUPPORT. EXEC and the mask registers (R208, R209): a register that is written or read passes its check, and each
instruction leaves the issuer of its row.
-/

namespace Sys2Proof.Machine

open Sys2Proof.Claims

section
variable {h : Here} {r : BitVec 8} (hr : Usable h r)
include hr

theorem setReg_usable (x : Word) : h.setReg r x = .ok (h.setU r.toNat x false) := ok_then (okU_usable hr) rfl

theorem getReg_usable : h.getReg r = .ok (h.u r.toNat).1 := ok_then (okU_usable hr) rfl

end

theorem exec_maskEffect {i : Instr} {s : State} {h : Here} {sw : Bool} {r : Option (BitVec 8)} {f : Here → Here}
    (hf : maskEffect i = some (sw, r, f)) (hi : Issues false s h) (hr : ∀ x, r = some x → Usable h x) :
    exec i s = .next (after s (f h) sw) := by
  cases i
  all_goals cases hf
  case exrd | mrd | mpop => exact nativeHere_issues hi (setReg_usable (hr _ rfl) _)
  case exwr => exact nativeHere_issues hi (congrArg (Except.map h.setExec) (getReg_usable (hr _ rfl)))
  case mwr => exact nativeHere_issues hi (congrArg (Except.map (h.setM _)) (getReg_usable (hr _ rfl)))
  case exld ma =>
    show execExld sw ma s = _
    exact nativeHere_issues hi rfl
  case exsv ma =>
    show execExsv sw ma s = _
    exact nativeHere_issues hi rfl
  case mand ma mb mc =>
    show execMand sw ma mb mc s = _
    exact nativeHere_issues hi rfl
  case mor ma mb mc =>
    show execMor sw ma mb mc s = _
    exact nativeHere_issues hi rfl
  case mxor ma mb mc =>
    show execMxor sw ma mb mc s = _
    exact nativeHere_issues hi rfl
  case mnot ma mb =>
    show execMnot sw ma mb s = _
    exact nativeHere_issues hi rfl

/-- Settles O4: an instruction answers the effect of its row, which ANDs EXEC with the membership. -/
theorem maskInstructionResults : Obligations.MaskInstructionResults :=
  fun _ _ _ _ _ _ => exec_maskEffect

end Sys2Proof.Machine
end

section
/-!
SUPPORT. Lane arithmetic (R224 to R236): the shape and the value of each instruction in the words of the statements, and
what a shape answers.
-/

namespace Sys2Proof.Machine

open Sys2Proof.Claims

/-! ### Shifts by an immediate (R227) -/

theorem shl32_immediate (x : Word) (n : BitVec 6) : shl32 x (n.zeroExtend 32) = x <<< n.toNat := by
  rw [shl32_eq_shiftLeft, zeroExtend_mod_256]

theorem shr32_immediate (x : Word) (n : BitVec 6) : shr32 x (n.zeroExtend 32) = x >>> n.toNat := by
  rw [shr32_eq_ushiftRight, zeroExtend_mod_256]

theorem sar32_immediate (x : Word) (n : BitVec 6) : sar32 x (n.zeroExtend 32) = x.sshiftRight n.toNat := by
  rw [sar32_eq_sshiftRight, zeroExtend_mod_256]

/-! ### Compares (R233) -/

theorem fceq_eq_ite (x y : Word) : fceq x y = if (val32 x).cmp (val32 y) = some .eq then 1 else 0 := by
  simp [fceq, flag]

theorem fclt_eq_ite (x y : Word) : fclt x y = if (val32 x).cmp (val32 y) = some .lt then 1 else 0 := by
  simp [fclt, flag]

theorem fcle_eq_ite (x y : Word) :
    fcle x y = if (val32 x).cmp (val32 y) = some .lt ∨ (val32 x).cmp (val32 y) = some .eq then 1 else 0 := by
  simp [fcle, flag]

/-! ### The shape of each instruction -/

theorem exec_laneBinary {i : Instr} (s : State) {sw : Bool} {d a b : BitVec 8} {f : Word → Word → Word}
    (hf : laneBinary i = some (sw, d, a, b, f)) : exec i s = laneBin sw d a b s f := by
  cases i
  all_goals cases hf
  case ishl => exact congrArg (laneBin sw d a b s) (funext₂ shl32_eq_shiftLeft)
  case ishr => exact congrArg (laneBin sw d a b s) (funext₂ shr32_eq_ushiftRight)
  case isar => exact congrArg (laneBin sw d a b s) (funext₂ sar32_eq_sshiftRight)
  case iceq => exact congrArg (laneBin sw d a b s) (funext₂ ceq_eq_ite)
  case iclt => exact congrArg (laneBin sw d a b s) (funext₂ clt_eq_ite)
  case icltu => exact congrArg (laneBin sw d a b s) (funext₂ cltu_eq_ite)
  case fceq => exact congrArg (laneBin sw d a b s) (funext₂ fceq_eq_ite)
  case fclt => exact congrArg (laneBin sw d a b s) (funext₂ fclt_eq_ite)
  case fcle => exact congrArg (laneBin sw d a b s) (funext₂ fcle_eq_ite)
  case iadd | isub | imul | imulh | imulhu | imin | imax | iand | ior | ixor => rfl
  case p8add | p8sub | p8max | p8min | p16add | p16sub | p16mul => rfl
  case fadd | fsub | fmul | fmin | fmax | hadd2 | badd2 => rfl

theorem exec_laneMultiplyAdd {i : Instr} (s : State) {sw : Bool} {d a b : BitVec 8} {f : Word → Word → Word → Word}
    (hf : laneMultiplyAdd i = some (sw, d, a, b, f)) : exec i s = laneTern sw d a b s true f := by
  cases i
  all_goals cases hf
  case ffma | hfma2 | bfma2 => rfl

theorem exec_specialFunction {i : Instr} (s : State) {sw : Bool} {d a : BitVec 8} {fn : Nat}
    (hf : specialFunction i = some (sw, d, a, fn)) : exec i s = laneSfn sw d a s fn := by
  cases i
  all_goals cases hf
  case exp2 | log2 | rcp | rsqrt | sin | cos => rfl

/-- Lane instructions with one source: the value may depend on the issuer too, which gives the immediate. -/
def laneUnary (sw : Bool) (d a : BitVec 8) (s : State) (f : Here → Word → Word) : Host.Outcome State Fault Refusal :=
  nativeHere sw false s fun h => do
    h.okLDst d; h.okL a
    pure (h.eachLane fun k l => k.setL d.toNat l (f h (h.l a.toNat l).1) (h.l a.toNat l).2)

theorem exec_laneImmediate {i : Instr} (s : State) {sw : Bool} {d a : BitVec 8} {f : Here → Word → Word}
    (hf : laneImmediate i = some (sw, d, a, f)) : exec i s = laneUnary sw d a s f := by
  cases i
  all_goals cases hf
  case ishlImm => simp only [← shl32_immediate]; rfl
  case ishrImm => simp only [← shr32_immediate]; rfl
  case isarImm => simp only [← sar32_immediate]; rfl
  case iaddImm | iandImm | iorImm | p8shl | p8shr | p8sar | p16shl | p16shr | p16sar | cvt | cvts => rfl

/-! ### What a shape answers -/

section
variable {s : State} {h : Here} (sw : Bool) {d a b : BitVec 8} (hi : Issues false s h) (hd : LaneDest h d)
include hi hd

theorem imovi_issues (i : BitVec 16) :
    exec (.imovi sw d i) s = .next (after s (h.eachLane fun k l => k.setL d.toNat l (h.imm16 i) false) sw) := by
  show execImovi sw d i s = _
  exact nativeHere_issues hi (ok_then (okLDst_laneDest hd) rfl)

variable (ha : Usable h a)
include ha

theorem laneUnary_issues (f : Here → Word → Word) : laneUnary sw d a s f = .next (after s (h.eachLane fun k l =>
    k.setL d.toNat l (f h (h.l a.toNat l).1) (h.l a.toNat l).2) sw) :=
  nativeHere_issues hi (ok_then (okLDst_laneDest hd) (ok_then (okL_usable ha) rfl))

theorem laneSfn_issues (fn : Nat) : laneSfn sw d a s fn = .next (after s ((h.eachLane fun k l =>
    k.setL d.toNat l (sfnWord fn (h.l a.toNat l).1) (h.l a.toNat l).2).long
      ((lanesOf h.g.exec).map (laneKey d.toNat))) sw) :=
  nativeHere_issues hi (ok_then (okLDst_laneDest hd) (ok_then (okL_usable ha) rfl))

variable (hb : Usable h b)
include hb

theorem laneBin_issues (f : Word → Word → Word) : laneBin sw d a b s f = .next (after s (h.eachLane fun k l =>
    k.setL d.toNat l (f (h.l a.toNat l).1 (h.l b.toNat l).1) ((h.l a.toNat l).2 || (h.l b.toNat l).2)) sw) :=
  nativeHere_issues hi (ok_then (okLDst_laneDest hd) (ok_then (okL_usable ha) (ok_then (okL_usable hb) rfl)))

theorem laneTern_issues (f : Word → Word → Word → Word) :
    laneTern sw d a b s true f = .next (after s (h.eachLane fun k l =>
      k.setL d.toNat l (f (h.l d.toNat l).1 (h.l a.toNat l).1 (h.l b.toNat l).1)
        ((h.l d.toNat l).2 || (h.l a.toNat l).2 || (h.l b.toNat l).2)) sw) :=
  nativeHere_issues hi (ok_then (okLDst_laneDest hd) (ok_then (okL_usable ha) (ok_then (okL_usable hb) rfl)))

end

/-- ISEL writes the source that D's old value selects, with D's taint and that source's (R112, R225). -/
theorem setL_sel (k : Here) (d l : Nat) (c x y : Word × Bool) :
    k.setL d l (sel c.1 x.1 y.1) (c.2 || if c.1 ≠ 0 then x.2 else y.2)
      = if c.1 ≠ 0 then k.setL d l x.1 (c.2 || x.2) else k.setL d l y.1 (c.2 || y.2) := by
  unfold sel
  split <;> rfl

/-! ### The results -/

/-- Settles O2: each instruction has its shape, whose registers pass their checks, and the value of its rule. -/
theorem laneArithmeticResults : Obligations.LaneArithmeticResults := by
  refine ⟨fun i s h sw d a b f hf hi hd ha hb => ?_, fun i s h sw d a b f hf hi hd ha hb => ?_,
    fun s h sw d a b hi hd ha hb => ?_, fun i s h sw d a f hf hi hd ha => ?_, fun s h sw d i hi hd => imovi_issues sw hi hd i,
    fun i s h sw d a fn hf hi hd ha => ?_⟩
  · rw [exec_laneBinary s hf]
    exact laneBin_issues sw hi hd ha hb f
  · rw [exec_laneMultiplyAdd s hf]
    exact laneTern_issues sw hi hd ha hb f
  · show execIsel sw d a b s = _
    simp only [← setL_sel]
    exact nativeHere_issues hi (ok_then (okLDst_laneDest hd) (ok_then (okL_usable ha) (ok_then (okL_usable hb) rfl)))
  · rw [exec_laneImmediate s hf]
    exact laneUnary_issues sw hi hd ha f
  · rw [exec_specialFunction s hf]
    exact laneSfn_issues sw hi hd ha fn

end Sys2Proof.Machine
end

section
/-!
SUPPORT. Celud words on registers (R380 to R382): the shape and the value of each word in the words of the statements, and
what a thread that may run answers.
-/

namespace Sys2Proof.Machine

open Sys2Proof.Claims

/-! ### The shape of each word -/

theorem exec_celudBinary {i : Instr} (s : State) {l : Option (BitVec 64)} {d a b : BitVec 12} {f : Word → Word → Word}
    (hf : celudBinary i = some (l, d, a, b, f)) : exec i s = celudBin s l d a b f := by
  cases i
  all_goals cases hf
  case celudShl => exact congrArg (celudBin s l d a b) (funext₂ shl32_eq_shiftLeft)
  case celudShr => exact congrArg (celudBin s l d a b) (funext₂ shr32_eq_ushiftRight)
  case celudSar => exact congrArg (celudBin s l d a b) (funext₂ sar32_eq_sshiftRight)
  case celudCeq => exact congrArg (celudBin s l d a b) (funext₂ ceq_eq_ite)
  case celudClt => exact congrArg (celudBin s l d a b) (funext₂ clt_eq_ite)
  case celudCltu => exact congrArg (celudBin s l d a b) (funext₂ cltu_eq_ite)
  case celudFceq => exact congrArg (celudBin s l d a b) (funext₂ fceq_eq_ite)
  case celudFclt => exact congrArg (celudBin s l d a b) (funext₂ fclt_eq_ite)
  case celudFcle => exact congrArg (celudBin s l d a b) (funext₂ fcle_eq_ite)
  case celudAdd | celudSub | celudMul | celudMulh | celudMin | celudMax | celudAnd | celudOr | celudXor => rfl
  case celudFadd | celudFsub | celudFmul | celudFmin | celudFmax | celudHadd2 | celudBadd2 => rfl

theorem exec_celudTernary {i : Instr} (s : State) {l : Option (BitVec 64)} {d a b : BitVec 12}
    {f : Word → Word → Word → Word} (hf : celudTernary i = some (l, d, a, b, f)) : exec i s = celudTern s l d a b f := by
  cases i
  all_goals cases hf
  case celudFfma | celudHfma2 | celudBfma2 | celudDot2 => rfl

/-- The last source of a word of any type, as the statement reads it (R381). -/
theorem lastAs_eq_celudSource (h : CelHere) (d : BitVec 12) (l : Option (BitVec 64)) (a : BitVec 12) :
    h.lastAs d l a = celudSource h d l a := by
  cases l <;> rfl

/-! ### What a thread that may run answers -/

section
variable {s : State} {h : CelHere} (hi : CeludIssues s h)
include hi

theorem celudOp_issues {s' : State} {f : CelHere → Except Stop State} {reads : Bool} (hf : f h = .ok s') :
    celudOp s f reads = .next s' := by
  obtain ⟨hh, hactive, hnode⟩ := hi
  exact celudOp_ok hh hactive hnode hf

theorem celudReg1_issues (l : Option (BitVec 64)) (d : BitVec 12) {f : CelHere → DWord} {x : DWord} (hx : f h = x) :
    celudReg1 s l.isSome d f = .next (celudWrote s h l d x) := by
  subst hx
  exact celudOp_issues hi rfl

theorem exec_celudValue {i : Instr} {l : Option (BitVec 64)} {d : BitVec 12} {x : DWord}
    (hx : celudValue h i = some (l, d, x)) : exec i s = .next (celudWrote s h l d x) := by
  cases i
  all_goals cases hx
  case celudTid =>
    show execCeludTid d s = _
    exact celudReg1_issues hi none d rfl
  case celudNthr =>
    show execCeludNthr d s = _
    exact celudReg1_issues hi none d rfl
  case celudMov a =>
    show execCeludMov l d a s = _
    exact celudReg1_issues hi l d (lastAs_eq_celudSource h d l a)
  case celudSel a b c =>
    show execCeludSel l d a b c s = _
    exact celudReg1_issues hi l d (by rw [lastAs_eq_celudSource])
  case celudAdd64 a b =>
    show execCeludAdd64 l d a b s = _
    exact celudReg1_issues hi l d rfl
  case celudSfn a fn =>
    show execCeludSfn l d a fn s = _
    exact celudReg1_issues hi l d rfl
  case celudCvt a i8 sat =>
    show execCeludCvt l d a i8 sat s = _
    exact celudReg1_issues hi l d rfl

theorem celudDecl_issues (d : BitVec 12) (ty : BitVec 3) :
    exec (.celudDecl d ty) s = .next (s.putThread h { h.th with pc := h.th.pc + 1 }) := by
  show execCeludDecl d ty s = _
  exact celudOp_issues hi rfl

end

/-- Settles O30: each word has its shape, which writes the value of its rule and goes on past the word. -/
theorem celudRegisterWords : Obligations.CeludRegisterWords := by
  refine ⟨fun i s h l d a b f hf hi => ?_, fun i s h l d a b f hf hi => ?_, fun i s h l d x hx hi => exec_celudValue hi hx,
    fun s h d ty hi => celudDecl_issues hi d ty⟩
  · rw [exec_celudBinary s hf]
    exact celudReg1_issues hi l d rfl
  · rw [exec_celudTernary s hf]
    exact celudReg1_issues hi l d rfl

end Sys2Proof.Machine
end

section
/-!
SUPPORT. Celud control (R241, R378, R379, R382): the jumps of one thread, and what follows once a thread has come to a bar or
has ended.
-/

namespace Sys2Proof.Machine

open Sys2Proof.Claims

/-! ### Teams changed one change after another -/

theorem Cells.put_put {α : Type} (k : Nat) (x y : α) : ∀ c : Cells α, Cells.put (Cells.put c k x) k y = Cells.put c k y
  | [] => by simp [Cells.put]
  | (a, z) :: r => by
    rw [Cells.put]
    split
    case isTrue hlt => simp [Cells.put, hlt]
    case isFalse hlt =>
      split
      case isTrue ha => simp [Cells.put, ha]
      case isFalse ha => simp [Cells.put, hlt, ha, Cells.put_put k x y r]

theorem Cells.modify_modify {α : Type} (c : Cells α) (k : Nat) (f g : α → α) :
    Cells.modify (Cells.modify c k f) k g = Cells.modify c k fun x => g (f x) := by
  rw [Cells.modify, Cells.find_modify_self, Cells.modify, Cells.modify]
  cases Cells.find c k
  case none => rfl
  case some x => exact Cells.put_put k (f x) (g (f x)) c

theorem State.setCelud_setCelud (s : State) (team : Nat) (p q : Celud) :
    (s.setCelud team p).setCelud team q = s.setCelud team q :=
  congrArg (fun teams => { s with teams := teams }) (Cells.modify_modify s.teams team _ _)

theorem State.passBars_setCelud (s : State) (team : Nat) (p q : Celud) :
    (s.setCelud team p).passBars team q = s.passBars team q :=
  congrArg (fun teams => { s with teams := teams }) (Cells.modify_modify s.teams team _ _)

/-! ### Bars and ends -/

/-- The team of the thread that issues. -/
theorem State.find_team_of_celudHere {s : State} {h : CelHere} (hh : s.celudHere = some h) :
    Cells.find s.teams h.team = some h.t := by
  unfold State.celudHere at hh
  split at hh
  case h_2 => cases hh
  case h_1 team n hc =>
    split at hh
    case h_1 => cases hh
    case h_2 t ht =>
      split at hh
      case h_1 => cases hh
      case h_2 p hp =>
        obtain ⟨th, -, rfl⟩ := Option.map_eq_some_iff.mp hh
        exact ht

/-! ### What a thread that may run answers -/

section
variable {s : State} {h : CelHere} (hi : CeludIssues s h)
include hi

/-- What follows is one of the outcomes of R379, and of the open ones where the threads disagree. -/
theorem barOutcome_settleBar (l : List Thread) :
    BarOutcome s h l (s.settleBar h.team { h.p with threads := l } h.n) := by
  obtain ⟨hh, -, -⟩ := hi
  unfold State.settleBar BarOutcome
  rw [State.find_team_of_celudHere hh]
  simp only [Bool.or_eq_true, List.all_eq_true]
  split
  case isTrue =>
    split
    · exact .inl rfl
    · exact .inr (.inl (State.passBars_setCelud ..))
    · exact .inr (.inr (.inl ⟨_, State.setCelud_setCelud ..⟩))
    · exact .inr (.inr (.inr rfl))
  case isFalse => split <;> rfl

/-- A branch of the thread alone, taken where the register is 0 as `zero` says (R241, R382). -/
theorem celudBranch_issues (a : BitVec 12) (x : BitVec 64) (zero : Bool) :
    celudBranch s a x zero =
      .next (s.putThread h { h.th with pc := if (h.r32 a == 0) == zero then x.toNat else h.th.pc + 2 }) :=
  celudOp_issues hi rfl

theorem celudJmp_issues (x : BitVec 64) : exec (.celudJmp x) s = .next (s.putThread h { h.th with
    pc := x.toNat
    trail := if barsBefore h.p.words h.th.pc = barsBefore h.p.words x.toNat then h.th.trail else h.th.trail ++ [h.th.pc] }) := by
  show execCeludJmp x s = _
  refine celudOp_issues hi ?_
  simp only [ne_eq, ite_not]

theorem celudBar_issues : exec .celudBar s =
    .next (s.settleBar h.team { h.p with threads := threadsWith h { h.th with bar := some h.th.pc } } h.n) := by
  show execCeludBar s = _
  exact celudOp_issues hi rfl

end

/-- Settles O32: the jumps are the thread's own, and bar and end leave an outcome of R379. -/
theorem celudControlWords : Obligations.CeludControlWords := by
  refine ⟨fun s h x hi => celudJmp_issues hi x, fun s h a x hi => ?_, fun s h a x hi => ?_,
    fun s h hi => ⟨_, celudBar_issues hi, barOutcome_settleBar hi _⟩, fun s h hi => ⟨_, barOutcome_settleBar hi _, ?_⟩⟩
  · show execCeludBrz a x s = _
    refine (celudBranch_issues hi a x true).trans ?_
    simp only [beq_true, beq_iff_eq]
  · show execCeludBrnz a x s = _
    refine (celudBranch_issues hi a x false).trans ?_
    simp only [beq_false, Bool.not_eq_true', beq_eq_false_iff_ne, ne_eq, ite_not]
  · show execCeludEnd s = _
    exact celudOp_issues hi rfl

end Sys2Proof.Machine
end

section
/-!
SUPPORT. RCALL whose arguments and target pass their checks (R262, R263).
-/

namespace Sys2Proof.Machine

open Sys2Proof.Claims

/-! ### The answer to a call (R255, R263, R353) -/

section
variable {s : State} {h : Here} {b : BitVec 8} (ha : CallArgs s h b)
include ha

/-- The fields of the block are ones that R262 admits. -/
theorem callArgs_block : (!(callLayer h b == 1 || callLayer h b == 3 || callLayer h b == 4)
    || decide (h.t.codeLen ≤ callEntry h b) || callEntry h b % 4 != 0 || decide (8 ≤ h.c.calls.length)) = false := by
  obtain ⟨hlayer, hentry, halign, -, hcalls⟩ := ha
  have hin : (callLayer h b == 1 || callLayer h b == 3 || callLayer h b == 4) = true := by simpa [or_assoc] using hlayer
  rw [hin]
  simp [Nat.not_le.mpr hentry, halign, Nat.not_le.mpr hcalls]

/-- No swap that has begun holds the target back (R95). -/
theorem callArgs_still : ¬ (callLayer h b == 4 && s.movingIn h.t.oid (h.arg64 b 0) 1) = true := by
  obtain ⟨-, -, -, htarget, -⟩ := ha
  rw [Bool.and_eq_true, beq_iff_eq]
  exact fun hm => Bool.false_ne_true ((htarget hm.1).1.symm.trans hm.2)

/-- No walk of the target waits for a channel (R339). -/
theorem callArgs_walked : walkWaits (if callLayer h b == 4 then s.walksOf h.t.oid (h.arg64 b 0) 1 else []) = [] := by
  obtain ⟨-, -, -, htarget, -⟩ := ha
  split
  case isTrue h4 => exact (htarget (beq_iff_eq.mp h4)).2.1
  case isFalse => rfl

/-- The target is no memory of the host (R262). -/
theorem callArgs_onDevice : (callLayer h b == 4 && s.anyHost h.t.oid (h.arg64 b 0) 1) = false := by
  obtain ⟨-, -, -, htarget, -⟩ := ha
  rw [Bool.and_eq_false_iff, beq_eq_false_iff_ne]
  exact (em (callLayer h b = 4)).symm.imp_right fun h4 => (htarget h4).2.2

/-- An RCALL whose checks pass goes on with the pieces of its target. -/
theorem callArgs_then {ps : List Piece} {k : List Piece → Res} {r : Res}
    (hps : s.wholeRange h.agent (callLayer h b) .load (h.arg64 b 0) 1 = .ok ps) (hk : k ps = r) :
    (do
      badArgs (!(callLayer h b == 1 || callLayer h b == 3 || callLayer h b == 4) || decide (h.t.codeLen ≤ callEntry h b)
        || callEntry h b % 4 != 0 || decide (8 ≤ h.c.calls.length))
      if callLayer h b == 4 && s.movingIn h.t.oid (h.arg64 b 0) 1 then .error (.hold [])
      holdWalks (if callLayer h b == 4 then s.walksOf h.t.oid (h.arg64 b 0) 1 else [])
      badArgs (callLayer h b == 4 && s.anyHost h.t.oid (h.arg64 b 0) 1)
      let ps ← s.wholeRange h.agent (callLayer h b) .load (h.arg64 b 0) 1
      k ps) = r :=
  ok_then (badArgs_false (callArgs_block ha)) ((if_neg (callArgs_still ha)).trans
    (ok_then (holdWalks_free (callArgs_walked ha)) (ok_then (badArgs_false (callArgs_onDevice ha)) (ok_then hps hk))))

end

/-- Settles O17: the checks of the block and of the target pass, and the calendar gives the answer. -/
theorem remoteCallsAnswered : Obligations.RemoteCallsAnswered := by
  intro s h sw b narg nret sc ps loc ex hi ha hps hloc hex ask
  subst hex
  have hloc' : (pieceLoc ps 0).getD (.sto 0) = loc := by rw [hloc, Option.getD_some]
  constructor
  all_goals
    intro x hs
    show execRcall sw b narg nret sc s = _
    refine native_issues hi (callArgs_then ha hps ?_)
    dsimp only [ask, callLayer, callClass] at hs ⊢
    rw [hloc', hs]
    rfl

end Sys2Proof.Machine
end

section
/-!
SUPPORT. Celud words on memory (R246, R248 to R250, R252, R382, R383), where the access passes its checks.
-/

namespace Sys2Proof.Machine

open Sys2Proof.Claims

/-- An ld or ldc is a load of the fields that the statement names; an ldc acquires nothing (R248). -/
theorem exec_celudLoadOf (s : State) {i : Instr} {l : Option (BitVec 64)} {d a : BitVec 12} {sp : BitVec 3} {sz : BitVec 2}
    {acq : Option Nat} (hf : celudLoadOf i = some (l, d, a, sp, sz, acq)) : exec i s = celudLoad s l d a sp sz acq := by
  cases i
  all_goals cases hf
  case celudLd => rfl
  case celudLdc => rfl

section
variable {s : State} {h : CelHere} (hi : CeludIssues s h)
include hi

/-- A load that passes its checks writes the value (R246). -/
theorem celudLoad_issues (l : Option (BitVec 64)) (d a : BitVec 12) {sp : BitVec 3} {sz : BitVec 2} (acq : Option Nat)
    {c : Checked} (hc : s.celudCheck h sp (h.addr sp l a) (2 ^ sz.toNat) .load = .ok c) :
    celudLoad s l d a sp sz acq = .next ((celudWrote
      (celudCoach s h sp fun x => x.saw h.spot acq (s.postsAt c.loc (2 ^ sz.toNat))) h l d
      (BitVec.ofNat 64 (leNat (s.readData h.agent c.loc c.leaf (2 ^ sz.toNat))))).noteAll h.agent (sp.toNat + 1) [c]) :=
  celudOp_issues hi (ok_then hc rfl)

/-- A store that passes its checks writes the low bytes of its source (R246). -/
theorem celudSt_issues (sc : BitVec 3) (ord rev : BitVec 2) (l : Option (BitVec 64)) (a b : BitVec 12) {sp : BitVec 3}
    {sz : BitVec 2} (hint : BitVec 2) {c : Checked} {x : State}
    (hc : s.celudCheck h sp (h.addr sp l a) (2 ^ sz.toNat) .store = .ok c)
    (hx : x = (s.writeData h.agent c.loc (leBytes (2 ^ sz.toNat) (h.r b).toNat)).post c.loc (2 ^ sz.toNat)
      (h.coach.releases h.spot (ordered ord 1 sc))) :
    exec (.celudSt sc ord rev l a b sp sz hint) s = .next
      (((celudCoach x h sp fun y => y.wrote s x).putThread h
        { h.th with pc := h.th.pc + if l.isSome then 2 else 1 }).noteAll h.agent (sp.toNat + 1) [c]) := by
  subst hx
  show execCeludSt sc ord rev l a b sp sz hint s = _
  exact celudOp_issues hi (ok_then hc rfl)

/-- An atomic that passes its checks stores the word of its code and returns the old one (R249, R250). -/
theorem celudAtom_issues (sc : BitVec 3) (ord rev : BitVec 2) (l : Option (BitVec 64)) (d a b : BitVec 12) {sp : BitVec 3}
    (hint : BitVec 2) (op : BitVec 3) {c : Checked} {old : Word} {k : Coach} {x : State}
    (hc : s.celudCheck h sp (h.addr sp l a) 4 .atomic = .ok c)
    (hold : old = BitVec.ofNat 32 (leNat (s.readData h.agent c.loc c.leaf 4)))
    (hk : k = h.coach.saw h.spot (ordered ord 0 sc) (s.postsAt c.loc 4))
    (hx : x = (s.writeData h.agent c.loc (leBytes 4 (atomWord op.toNat old (h.r32 d) (h.r32 b)).toNat)).post c.loc 4
      (s.postsAt c.loc 4 ++ k.releases h.spot (ordered ord 1 sc))) :
    exec (.celudAtom sc ord rev l d a b sp hint op) s = .next
      ((celudWrote (celudCoach x h sp fun _ => k.wrote s x) h l d (old.zeroExtend 64)).noteAll h.agent (sp.toNat + 1) [c]) := by
  subst hx hk hold
  show execCeludAtom sc ord rev l d a b sp hint op s = _
  refine celudOp_issues hi (ok_then hc ?_)
  dsimp only
  split
  case h_1 hop | h_2 hop | h_3 hop | h_4 hop | h_5 hop | h_6 hop | h_7 hop =>
    rw [hop]
    rfl
  case h_8 h0 h1 h2 h3 h4 h5 h6 =>
    rw [atomWord, if_neg h0, if_neg h1, if_neg h2, if_neg h3, if_neg h4, if_neg h5, if_neg h6]
    rfl

theorem celudFence_issues (sc : BitVec 3) (kind : BitVec 2) : exec (.celudFence sc kind) s =
    .next ((s.modCoach h.team h.ci fun c => c.fenceBy kind h.spot sc.toNat).putThread h { h.th with pc := h.th.pc + 1 }) := by
  show execCeludFence sc kind s = _
  exact celudOp_issues hi rfl

end

/-- Settles O31: an access that passes its checks is performed, and the thread goes on. -/
theorem celudMemoryWords : Obligations.CeludMemoryWords := by
  refine ⟨fun i s h l d a sp sz acq c hf hi hc => ?_,
    fun s h sc ord rev l a b sp sz hint c hi hc => celudSt_issues hi sc ord rev l a b hint hc rfl,
    fun s h sc ord rev l d a b sp hint op c old hi hc hold => celudAtom_issues hi sc ord rev l d a b hint op hc hold rfl rfl,
    fun s h sc kind hi => celudFence_issues hi sc kind⟩
  exact (exec_celudLoadOf s hf).trans (celudLoad_issues hi l d a acq hc)

end Sys2Proof.Machine
end

section
/-!
SUPPORT. The events of remote calls: REMOTE_FUNCTION_START, REPLY, CALL_LOST and PROBE_ANSWER (R263 to R269, R353 to R355,
R395).
-/

namespace Sys2Proof.Machine

open Sys2Proof.Claims

/-! ### The records of a batch (R355) -/

theorem State.batchAt_eq (s : State) (node w i : Nat) : s.batchAt node w i = batchRecord s node w i := by
  rw [State.batchAt, batchRecord, fld_low]

section
variable {s : State} {c : Call} {node i : Nat} (hb : c.batch = some (node, i))
include hb

theorem State.callPayload_batch :
    s.callPayload c = (s.gBytes c.oid (batchRecord s node 6 i) 64).map fun b => bytesWords b ++ [BitVec.ofNat 32 i] := by
  rw [← State.batchAt_eq]
  unfold State.callPayload
  rw [hb]
  rfl

/-- The reply of an invocation whose argument record cannot be read names the load of its first unreadable byte. -/
theorem State.argumentFault_batch {a reason : Nat} (hf : s.gFails c.oid (batchRecord s node 6 i) 64 = some (a, reason)) :
    s.argumentFault c = [0x20, BitVec.ofNat 32 (pack [(8, 0x20), (4, reason), (4, 5), (16, 0)]), BitVec.ofNat 32 c.entry, 0, 0,
      BitVec.ofNat 32 a, BitVec.ofNat 32 (a / 2 ^ 32 % 2 ^ 24), 0] := by
  unfold State.argumentFault
  rw [hb]
  dsimp only
  rw [State.batchAt_eq, hf]
  rfl

end

theorem State.callPayload_call {s : State} {c : Call} (hb : c.batch = none) : s.callPayload c = some c.payload := by
  unfold State.callPayload
  rw [hb]

/-! ### REMOTE_FUNCTION_START (R264, R353, R355) -/

section
variable {s : State} {ex k : Nat} {rest : List Nat} {e : Executor} {c : Call} (hm : s.mode = .running)
  (hs : StartsNext s ex k rest e c)
include hm hs

/-- The call that is next starts with its payload in place. -/
theorem remoteFunctionStart_reads {p : List Word} (hp : s.callPayload c = some p) :
    exec (.remoteFunctionStart ex) s = .next ((runsCall s ex k rest e).modCall k fun x =>
      { x with started := true, startedAt := s.slot, fn := some { functionStart x.entry p with acq := x.known } }) := by
  obtain ⟨he, hrun, hq, hk, hturn, hheld, hwait⟩ := hs
  show execRemoteFunctionStart ex s = _
  unfold execRemoteFunctionStart
  rw [whenRunning_running hm]
  simp only [he, hrun, hq, hwait, hk, hturn, hheld, hp, Bool.not_true, Bool.false_eq_true, if_false]
  rfl

/-- An invocation whose argument record cannot be read ends FAULTED. -/
theorem remoteFunctionStart_faults (hp : s.callPayload c = none) :
    exec (.remoteFunctionStart ex) s = .next (((runsCall s ex k rest e).modCall k fun x =>
      { x with started := true, startedAt := s.slot }).endCall ex 2 (s.argumentFault c)) := by
  obtain ⟨he, hrun, hq, hk, hturn, hheld, hwait⟩ := hs
  show execRemoteFunctionStart ex s = _
  unfold execRemoteFunctionStart
  rw [whenRunning_running hm]
  simp only [he, hrun, hq, hwait, hk, hturn, hheld, hp, Bool.not_true, Bool.false_eq_true, if_false]
  rfl

end

/-! ### REPLY (R264, R267, R269, R355, R395) -/

/-- What the reply `r` to a call that no batch and no relay has made leaves, by its caller where there is one. -/
def State.replyTo (s : State) (call : Nat) (c : Call) (r : Nat × List Word) : Option (Team × Coach) → State
  | none => { s with calls := Cells.drop s.calls call }
  | some (_, x) =>
    if x.calls.contains call && !c.lost then s.modCall call fun y => { y with delivered := true }
    else if x.calls.contains call then (noted s c r.1 (dispFault r)).modCall call fun y => { y with result := none }
    else if c.probing then noted s c r.1 (dispFault r)
    else { noted s c r.1 (dispFault r) with calls := Cells.drop (noted s c r.1 (dispFault r)).calls call }

/-- Who hears that a call is lost: its relay where it has one, else its caller's core (R267, R395). -/
def State.tellLost (s : State) (c : Call) : Option Nat → State
  | some n => s.relayDisp n (3, 0)
  | none => s.modCoach c.team c.coach fun x => x.loseToken c.token

section
variable {s : State} {call : Nat} {c : Call} (hm : s.mode = .running) (hk : Cells.find s.calls call = some c)
include hm hk

/-- A peer answers the relay. -/
theorem reply_relay {n : Nat} (hr : c.relay = some n) :
    exec (.reply call) s = .next { s.relayDisp n s.peerAnswer with calls := Cells.drop s.calls call } := by
  show execReply call s = _
  unfold execReply
  rw [whenRunning_running hm]
  simp only [hk, hr, Option.isNone_some, Bool.false_and, Bool.false_eq_true, if_false]

section
variable (hp : Performed s c) (hr : c.relay = none) {r : Nat × List Word} (hres : c.result = some r)
include hp hr hres

/-- The reply to a call of a coach. -/
theorem reply_call (hb : c.batch = none) :
    exec (.reply call) s = .next (s.replyTo call c r (s.coach c.team c.coach)) := by
  have hp' : s.executorWaits c.ex = false := hp
  show execReply call s = _
  unfold execReply
  rw [whenRunning_running hm]
  simp only [hk, hp', hr, hres, hb, Bool.and_false, Bool.false_eq_true, if_false]
  cases s.coach c.team c.coach with
  | none => rfl
  | some q => simp only [State.replyTo, apply_ite Host.Outcome.next, noted, Coach.fillDisp]

/-- The result record of an invocation of a batch is written. -/
theorem reply_batch {node i : Nat} (hb : c.batch = some (node, i)) (hmove : s.moving c.oid = false)
    (hheld : s.gHeld c.oid (batchRecord s node 7 i) = false) {x : State}
    (hx : x = s.gStore c.oid (batchRecord s node 7 i) (wordBytes (resultRecord s.tick r))) :
    exec (.reply call) s = .next { x with
      calls := Cells.drop x.calls call
      nodes := Cells.modify x.nodes node fun n =>
        { n with batch := n.batch - 1, late := n.late || c.ranLong n.dur x.slot } } := by
  have hp' : s.executorWaits c.ex = false := hp
  subst hx
  show execReply call s = _
  unfold execReply
  rw [whenRunning_running hm]
  simp only [hk, hp', hr, hres, hb, State.batchAt_eq, hmove, hheld, Bool.and_false, Bool.or_false, Bool.false_eq_true, if_false]

end

/-! ### CALL_LOST (R267, R304, R305, R395) -/

/-- A call past its deadline that still waits is lost, and counted. -/
theorem callLost_waits (hw : s.callWaits call c = true) (hd : c.deadline ≤ s.slot) {x : State}
    (hx : x = s.modCall call fun y => { y with lost := true }) :
    exec (.callLost call) s = .next ((x.tellLost c c.relay).countLate c) := by
  subst hx
  show execCallLost call s = _
  unfold execCallLost
  rw [whenRunning_running hm]
  simp only [hk, hw, Nat.not_lt.mpr hd, Bool.not_true, Bool.false_or, decide_false, Bool.false_eq_true, if_false]
  cases c.relay with
  | none => rfl
  | some n => rfl

/-! ### PROBE_ANSWER (R268, R354) -/

/-- The caller's core records what the executor answers. -/
theorem probeAnswer_coach {x : Coach} (hx : ∃ y, s.coach c.team c.coach = some (y, x)) (hpr : c.probing = true)
    {a : Nat × Word} (ha : a = (Cells.get {} s.executors c.ex).answer c.token) {t u : State}
    (ht : t = s.modCall call fun y => { y with probing := false }) (hu : u = if a.1 = 4 then t else noted t c a.1 a.2) :
    exec (.probeAnswer call) s = .next
      (if u.callIdle call = true ∧ x.calls.contains call = false then { u with calls := Cells.drop u.calls call } else u) := by
  obtain ⟨y, hy⟩ := hx
  have hcoach : t.coach c.team c.coach = some (y, x) := by rw [ht]; exact hy
  subst ha
  show execProbeAnswer call s = _
  unfold execProbeAnswer
  rw [whenRunning_running hm]
  simp only [hk, hpr, Bool.not_true, Bool.false_eq_true, if_false, ← ht]
  simp only [hcoach, Bool.and_eq_true, Bool.not_eq_true', hu]
  rfl

/-- A probe whose caller is gone leaves nothing of the call. -/
theorem probeAnswer_noCoach (hx : s.coach c.team c.coach = none) (hpr : c.probing = true) :
    exec (.probeAnswer call) s = .next { s with
      calls := Cells.drop (s.modCall call fun y => { y with probing := false }).calls call } := by
  have hcoach : (s.modCall call fun y => { y with probing := false }).coach c.team c.coach = none := hx
  show execProbeAnswer call s = _
  unfold execProbeAnswer
  rw [whenRunning_running hm]
  simp only [hk, hpr, hcoach, Bool.not_true, Bool.false_eq_true, if_false]
  rfl

end

/-- Settles O35: a call starts with its payload, its reply goes to whoever awaits it, a call past its deadline is lost, and a
probe is answered by the executor's record. -/
theorem remoteCallEventsComplete : Obligations.RemoteCallEventsComplete := by
  refine ⟨fun s ex k rest e c hm hs hb => remoteFunctionStart_reads hm hs (State.callPayload_call hb),
    fun s ex k rest e c node i b hm hs hb hread => remoteFunctionStart_reads hm hs ?_,
    fun s ex k rest e c node i a reason hm hs hb hread hf => ?_,
    fun s call c x r hm hc hp hr hb hres => ?_,
    fun s call c x r hm hc hp hr hb hres => ?_,
    fun s call c r hm hk hx hp hr hb hres => ?_,
    fun s call c r node i x hm hk hp hr hb hres hmove hheld hx => reply_batch hm hk hp hr hres hb hmove hheld hx,
    fun s call c n hm hk hr => reply_relay hm hk hr,
    fun s call c x hm hc hr hdel hlost hd => ?_,
    fun s call c n x hm hk hr hlost hd hx => ?_,
    fun s call c x a t u hm hk hx hpr ha ht hu => probeAnswer_coach hm hk hx hpr ha ht hu,
    fun s call c hm hk hx hpr => probeAnswer_noCoach hm hk hx hpr⟩
  · rw [State.callPayload_batch hb, hread]
    rfl
  · rw [remoteFunctionStart_faults hm hs (by rw [State.callPayload_batch hb, hread]; rfl), State.argumentFault_batch hb hf]
  · obtain ⟨hk, ⟨t, hx⟩, hin⟩ := hc
    have h := reply_call hm hk hp hr hres hb
    rw [hx] at h
    refine ⟨fun hlost => h.trans ?_, fun hlost => h.trans ?_⟩
    · simp only [State.replyTo, hin, hlost, Bool.not_false, Bool.and_true, if_true]
    · simp only [State.replyTo, hin, hlost, Bool.not_true, Bool.and_false, Bool.false_eq_true, if_false, if_true]
      rfl
  · obtain ⟨hk, ⟨t, hx⟩, hout⟩ := hc
    refine (reply_call hm hk hp hr hres hb).trans ?_
    rw [hx]
    simp only [State.replyTo, hout, Bool.false_and, Bool.false_eq_true, if_false]
    rfl
  · rw [reply_call hm hk hp hr hres hb, hx]
    rfl
  · obtain ⟨hk, ⟨t, hx⟩, hin⟩ := hc
    have hw : s.callWaits call c = true := by simp [-List.contains_eq_mem, State.callWaits, hlost, hr, hx, hin, hdel]
    rw [callLost_waits hm hk hw hd rfl, hr]
    rfl
  · have hw : s.callWaits call c = true := by simp [State.callWaits, hlost, hr]
    rw [callLost_waits hm hk hw hd hx, hr]
    rfl

end Sys2Proof.Machine
end

section
/-!
SUPPORT. Element arithmetic on planes: PADD, PSUB, PMUL, PMAX and PMIN on descriptors that pass the checks of R67.
-/

namespace Sys2Proof.Machine

open Sys2Proof.Claims

/-- The greater of two integer elements, or the lesser: the order of the values decides (R65). -/
theorem elemPick_int (wantMax : Bool) (w x y : Nat) : elemPick wantMax (.int w) x y
    = if sext w x ≤ sext w y then (if wantMax then y else x) else if wantMax then x else y := by
  by_cases hle : sext w x ≤ sext w y <;> cases wantMax <;> simp [elemPick, hle]

/-- Operations that agree on integer elements of every width and on those of every float format are one operation. -/
theorem planeBin_congr {sw : Bool} {d a b : BitVec 3} {s : State} {f f' : Elem → Nat → Nat → Nat}
    (hint : ∀ w x y, f (.int w) x y = f' (.int w) x y) (hfloat : ∀ fmt x y, f (.float fmt) x y = f' (.float fmt) x y) :
    planeBin sw d a b s f = planeBin sw d a b s f' := by
  refine congrArg (planeBin sw d a b s) (funext fun k => funext₂ fun x y => ?_)
  cases k with
  | int w => exact hint w x y
  | float fmt => exact hfloat fmt x y

/-- Each instruction of R272 combines its planes by its operation. -/
theorem exec_planeArith {i : Instr} {s : State} {sw : Bool} {d a b : BitVec 3} {f : Elem → Nat → Nat → Nat}
    (hf : planeArith i = some (sw, d, a, b, f)) : exec i s = planeBin sw d a b s f := by
  unfold planeArith at hf
  split at hf
  case h_6 => cases hf
  all_goals cases hf
  case h_1 =>
    show planeBin sw d a b s (elemArith (· + ·) FVal.add) = _
    exact planeBin_congr (fun _ _ _ => rfl) fun _ _ _ => rfl
  case h_2 =>
    show planeBin sw d a b s (elemArith (· - ·) fun x y => x.add y.neg) = _
    exact planeBin_congr (fun _ _ _ => rfl) fun _ _ _ => rfl
  case h_3 =>
    show planeBin sw d a b s (elemArith (· * ·) FVal.mul) = _
    exact planeBin_congr (fun _ _ _ => rfl) fun _ _ _ => rfl
  case h_4 =>
    show planeBin sw d a b s (elemPick true) = _
    exact planeBin_congr (elemPick_int true) fun _ _ _ => rfl
  case h_5 =>
    show planeBin sw d a b s (elemPick false) = _
    exact planeBin_congr (elemPick_int false) fun _ _ _ => rfl

/-- Settles O22: the descriptors pass their checks, and the operation is taken element by element. -/
theorem planeArithmeticResults : Obligations.PlaneArithmeticResults :=
  fun _ _ _ _ _ _ _ _ hf hi hp =>
    (exec_planeArith hf).trans (nativeHere_issues hi (ok_then (okPlanes_ready hp) rfl))

end Sys2Proof.Machine
end

section
/-!
SUPPORT. The collective matrix jobs, MMA and MLOOP: the checks that they share, and the arrival at their rendezvous.
-/

namespace Sys2Proof.Machine

open Sys2Proof.Claims

/-! ### The arrival at a rendezvous (R281, R282) -/

/-- An arrival that opens a rendezvous takes a number for it, and nothing else of the state (R281). -/
theorem State.exists_fresh_eq (s : State) (found : Bool) :
    ∃ n, (if found then s else { s with fresh := s.fresh + 1 }) = { s with fresh := n } := by
  cases found
  · exact ⟨_, rfl⟩
  · exact ⟨_, rfl⟩

/-- An instruction whose checks pass and which then arrives does what a collective instruction does. -/
theorem meets_arriveRendezvous {i : Instr} {s : State} {h : Here} {sw : Bool} {fresh : Rendezvous} {arr : Arrival}
    {unseen : List Nat} {vf vr : Option (Nat × Nat)} {body : State → Here → Res} (he : exec i s = native sw false s body)
    (hi : Issues false s h) (hb : body s h = arriveRendezvous s h fresh arr unseen vf vr) :
    Meets i s h sw fresh arr unseen vf vr := by
  unfold Meets
  intro r s1 g others hloop hblock
  obtain ⟨n, hn⟩ : ∃ n, s1 = { s with fresh := n } := State.exists_fresh_eq s _
  have harrive : arriveRendezvous s h fresh arr unseen vf vr
      = if r.arrived.length = maskCount r.pm then
          .ok ({ s1 with
            jobs := s1.jobs ++ [r.job h.team h.t (((Cells.find s1.nodes h.t.node).map Node.deadline).getD 0)]
            teams := Cells.modify s1.teams h.team fun t => { t with coaches := t.coaches.map fun c => c.unmeet r.id } },
            { g with t := { h.t with rdvs := others } })
        else .ok (s1, { g.setRun { h.run with after := h.run.after ++ [.rendezvous r.id] } with
          t := { h.t with rdvs := others ++ [r] } }) := by
    refine if_neg ?_
    rw [Bool.or_eq_true, decide_eq_true_eq, decide_eq_true_eq, not_or, not_not, not_not]
    exact ⟨hloop, hblock⟩
  rw [harrive] at hb
  refine ⟨fun hlast => ?_, fun hmore => ?_⟩
  · rw [if_pos hlast] at hb
    rw [he.trans (native_issues hi hb), hn]
  · rw [if_neg hmore] at hb
    exact he.trans (native_issues hi hb)

/-! ### The checks (R276 to R281) -/

/-- A whole coach passes MATRIX-PARTIAL. -/
theorem okWhole_whole {h : Here} (hw : Whole h) : h.okWhole = .ok () := by
  obtain ⟨hsubs, hexec⟩ := hw
  simp [Here.okWhole, hsubs, hexec]

/-- Arguments that keep R276 and R280 pass the checks that MMA and MLOOP share. -/
theorem badCollective_collectiveArgs {h : Here} {b : BitVec 8} (hc : CollectiveArgs h b) :
    badCollective h (h.arg b 1) (matA h b) (matB h b) = false := by
  obtain ⟨hin, hmask, hcount, hpair, ha, hb, hk, -, -⟩ := hc
  simp only [badCollective, okCount, Bool.or_eq_false_iff, Bool.not_eq_false', decide_eq_false_iff_not, bne_eq_false_iff_eq,
    List.contains_iff_mem, Nat.not_le, Nat.not_lt, and_assoc]
  exact ⟨hin, hmask, hcount, hpair, ha, hb, hk⟩

theorem tidOk_collectiveArgs {h : Here} {b : BitVec 8} (hc : CollectiveArgs h b) :
    tidOk (matA h b) = true ∧ tidOk (matB h b) = true := by
  obtain ⟨-, -, -, -, -, -, -, ha, hb⟩ := hc
  exact ⟨ha, hb⟩

/-- A fragment has registers: at most 32 coaches take part. -/
theorem fragment_pos {h : Here} {b : BitVec 8} (hc : CollectiveArgs h b) : 0 < fragment h b := by
  obtain ⟨-, -, hcount, -⟩ := hc
  have hle : maskCount (h.arg b 1) ≤ 128 ∧ 0 < maskCount (h.arg b 1) := by
    simp only [List.mem_cons, List.not_mem_nil, or_false] at hcount
    omega
  exact Nat.div_pos hle.1 hle.2

/-- An operand fragment at a multiple of its length, within the allotment, passes the checks of the form (R170, R283). -/
theorem fragment_fits {h : Here} {b f : BitVec 8} (hc : CollectiveArgs h b) (hmul : f.toNat % fragment h b = 0)
    (hv : f.toNat < 192) (hend : f.toNat + fragment h b ≤ h.c.allot) :
    ¬ ((decide (192 ≤ f.toNat) || decide (h.c.allot ≤ f.toNat) || (okCount (maskCount (h.arg b 1))
      && (decide (f.toNat % fragment h b ≠ 0) || decide (h.c.allot < f.toNat + fragment h b)))) = true) := by
  have hstart : ¬ h.c.allot ≤ f.toNat := by
    have hpos := fragment_pos hc
    omega
  simp [hmul, Nat.not_le.mpr hv, Nat.not_lt.mpr hend, hstart]

/-- Result registers that are asked for lie in the allotment, clear of the operand fragment (R280, R284). -/
theorem results_clear {h : Here} {b f : BitVec 8} {rb : BitVec 1}
    (hres : rb = 1 → resultBase h b + resultRegs h b ≤ h.c.allot
      ∧ (f.toNat + fragment h b ≤ resultBase h b ∨ resultBase h b + resultRegs h b ≤ f.toNat)) :
    (rb == 1 && (decide (h.c.allot < resultBase h b + resultRegs h b)
      || (decide (resultBase h b < f.toNat + fragment h b) && decide (f.toNat < resultBase h b + resultRegs h b))))
      = false := by
  by_cases hrb : rb = 1
  · simp only [hrb, beq_self_eq_true, Bool.true_and, Bool.or_eq_false_iff, Bool.and_eq_false_iff, decide_eq_false_iff_not,
      Nat.not_lt]
    exact hres hrb
  · rw [beq_eq_false_iff_ne.mpr hrb, Bool.false_and]

/-- Settles O18: the checks of each instruction pass, and its arrival is the last of the rendezvous or one before. -/
theorem collectiveJobsMeet : Obligations.CollectiveJobsMeet := by
  refine ⟨fun s h sw b f rb za rm sa sb hi hacc hw hc hmul hv hend hfree hk hres hsa hsb => ?_,
    fun s h sw b za rm ra rb sa sb hi hacc hw hc hne hmax hk hra hrb hsa hsb => ?_⟩
  · obtain ⟨hta, htb⟩ := tidOk_collectiveArgs hc
    have hclear := results_clear fun hrb => let ⟨hallot, _, hdisj⟩ := hres hrb; ⟨hallot, hdisj⟩
    have hargs := Bool.or_eq_false_iff.mpr ⟨Bool.or_eq_false_iff.mpr ⟨badCollective_collectiveArgs hc,
      decide_eq_false (Nat.not_lt.mpr hk)⟩, hclear⟩
    refine meets_arriveRendezvous (by unfold execMma; rfl : execMma sw b f rb za rm s = native sw false s _) hi ?_
    refine ok_then (okAccu_store hacc) ((if_neg (fragment_fits hc hmul hv hend)).trans (ok_then (okWhole_whole hw)
      (ok_then (badArgs_false hargs) (ok_then (okTid_ok hta) (ok_then (okTid_ok htb) (ok_then hsa (ok_then hsb
      (ok_then (okVs_vsFree hfree) ?_))))))))
    by_cases hrb : rb = 1
    · obtain ⟨-, hvr, -⟩ := hres hrb
      simp only [hrb, beq_self_eq_true, if_true]
      exact ok_then (okVs_vsFree hvr) rfl
    · simp only [hrb, beq_eq_false_iff_ne.mpr hrb, Bool.false_eq_true, if_false]
      rfl
  · obtain ⟨hta, htb⟩ := tidOk_collectiveArgs hc
    have hargs := Bool.or_eq_false_iff.mpr ⟨Bool.or_eq_false_iff.mpr ⟨Bool.or_eq_false_iff.mpr
      ⟨badCollective_collectiveArgs hc, beq_eq_false_iff_ne.mpr hne⟩, decide_eq_false (Nat.not_lt.mpr hmax)⟩,
      decide_eq_false (Nat.not_le.mpr hk)⟩
    refine meets_arriveRendezvous (by unfold execMloop; rfl : execMloop sw b za rm s = native sw false s _) hi ?_
    exact ok_then (okAccu_store hacc) (ok_then (okWhole_whole hw) (ok_then (badArgs_false hargs) (ok_then (okTid_ok hta)
      (ok_then (okTid_ok htb) (ok_then hra (ok_then hrb (ok_then hsa (ok_then hsb rfl))))))))

end Sys2Proof.Machine
end

section
/-!
SUPPORT. The events of teams and queues: stop orders, acknowledgements, resumption and the switching of queues (R306 to R311,
R326).
-/

namespace Sys2Proof.Machine

open Sys2Proof.Claims

/-! ### Stopping (R306 to R310) -/

theorem Team.here_resident {t : Team} (h : t.state = .resident) : t.here = true := by
  unfold Team.here
  rw [h]

/-- The eviction of a resident team (R310): its node and the requests that are stopped already lose their bounds, and every
engine that holds work of it is to stop. -/
theorem State.evictTeam_resident {s : State} {team : Nat} {t : Team} (hf : Cells.find s.teams team = some t)
    (h : t.state = .resident) :
    s.evictTeam team = (State.stopRequests
      { s with nodes := Cells.modify s.nodes t.node fun n => { n with bounded := false } } team true t.stopped).stopTeam
        team true true := by
  unfold State.evictTeam
  simp only [hf, h]

/-- A class that holds work of a team and can stop now acknowledges (R306). -/
theorem engineAcknowledgement_team {s : State} {team : Nat} {t : Team} {ev all : Bool} {acked : List EngineClass}
    {e : EngineClass} (hm : s.mode = .running) (hf : Cells.find s.teams team = some t) (h : t.state = .stopping ev all acked)
    (hnew : acked.contains e = false) (hw : s.holdsWork team t all e = true) (hs : s.stoppedAt team t all acked e = true) :
    exec (.engineAcknowledgement team e) s = .next (acknowledged s team t ev all acked e) := by
  show execEngineAcknowledgement team e s = _
  unfold execEngineAcknowledgement
  rw [whenRunning_running hm]
  simp only [hf, h]
  exact if_pos (by rw [hnew, hw, hs]; rfl)

/-- The drays of a kernel node that is out or evicted acknowledge (R306, R348). -/
theorem engineAcknowledgement_drays {s : State} {node : Nat} {n : Node} (hm : s.mode = .running)
    (ht : Cells.find s.teams node = none) (hf : Cells.find s.nodes node = some n) (hout : n.out = true ∨ n.stop = some 6)
    (heng : n.eng = 1) : exec (.engineAcknowledgement node .drays) s = .next (s.saveDrays node) := by
  show execEngineAcknowledgement node .drays s = _
  unfold execEngineAcknowledgement
  rw [whenRunning_running hm]
  simp only [ht, hf]
  exact if_pos (by simpa [heng] using hout)

/-! ### Resumption (R309 to R311, R326) -/

/-- What the calendars say to a saved team that returns: after an eviction its contexts, its node and its stopped requests are
admitted again (R310). -/
def State.admitReturn (s : State) (t : Team) (core : Nat) (ev : Bool) : Except Nat State :=
  if ev then (s.renewNode t core).bind fun x => x.readmitAll core t.stopped else .ok s

/-- A team that may return is restored where the calendars have room for it; else the refusal is counted. -/
theorem teamResume_returns {s : State} {team core : Nat} {t : Team} {ev : Bool} {ks : List Nat}
    (hr : Returns s team core t ev ks) (hu : ev = true → s.ucie.any id = true) :
    exec (.teamResume team core) s = .next (match s.admitReturn t core ev with
      | .ok y => y.restoreTeam team t core ks
      | .error c => s.count (0x300 + c)) := by
  obtain ⟨hm, hf, hst, ⟨n, hn, hout, hstop⟩, hmay, hks⟩ := hr
  have hgo : (n.out || n.stop.isSome || !s.mayReturn team t core || (ev && !s.ucie.any id)) = false := by
    rw [hout, hstop, hmay]
    cases ev with
    | false => rfl
    | true => rw [hu rfl]; rfl
  show execTeamResume team core s = _
  unfold execTeamResume
  rw [whenRunning_running hm]
  simp only [hf, hst, hn]
  rw [if_neg (Bool.eq_false_iff.mp hgo)]
  split
  case h_1 hnone => cases hks.symm.trans hnone
  case h_2 ks' hsome =>
    cases hks.symm.trans hsome
    rfl

/-- Settles O39: the conditions of each event are those that its rule asks, and a team returns as the calendars answer. -/
theorem teamEventsComplete : Obligations.TeamEventsComplete := by
  refine ⟨fun s team t hm hf hst hsl hlate hw => ?_, fun s team t hm hf hst => ?_, fun s team t hm hf hst => ?_,
    fun s team t ev all acked e hm hf hst hnew hw hs => engineAcknowledgement_team hm hf hst hnew hw hs,
    fun s node n hm ht hf hout heng => engineAcknowledgement_drays hm ht hf hout heng,
    fun s team core t ks hr => teamResume_returns hr nofun, fun s team core t ks x y hr hu hx hy => ?_,
    fun s team core t ks c hr hu hc => ?_, fun s q x hm hq hst hx => ?_, fun s q hm hst => ?_⟩
  · show execSliceExpiry team s = _
    unfold execSliceExpiry
    rw [whenRunning_running hm, hf]
    exact if_pos (by simp [Team.here_resident hst, hsl, hlate, hw])
  · show execStopOrder team s = _
    unfold execStopOrder
    rw [whenRunning_running hm, hf]
    exact if_pos (Team.here_resident hst)
  · rw [← State.evictTeam_resident hf hst]
    exact whenRunning_running hm
  · have ha : s.admitReturn t core true = .ok y := by simp [State.admitReturn, hx, hy, Except.bind]
    rw [teamResume_returns hr fun _ => hu, ha]
  · have ha : s.admitReturn t core true = .error c := by
      rcases hc with hc | ⟨x, hx, hc⟩
      · simp [State.admitReturn, hc, Except.bind]
      · simp [State.admitReturn, hx, hc, Except.bind]
    rw [teamResume_returns hr fun _ => hu, ha]
  · subst hx
    show execQueueSwitchOut q s = _
    unfold execQueueSwitchOut
    rw [whenRunning_running hm]
    exact if_neg (by simp; omega)
  · show execQueueResume q s = _
    unfold execQueueResume
    rw [whenRunning_running hm]
    exact if_neg (not_not.mpr hst)

end Sys2Proof.Machine
end

section
/-!
SUPPORT. The requests of fabric peers and of the relay (R302, R345, R394, R395, R405), and the events of hardware errors (R304,
R389, R393, R402).
-/

namespace Sys2Proof.Machine

open Sys2Proof.Claims

/-! ### Requests of a peer (R345, R394) -/

/-- What this part answers a peer: it does `go` where its calendars have room for the request, and else refuses with their
hint, and counts. -/
def State.answerPeer (s : State) (cls : Nat) (go : State → State) : Except Nat State → State
  | .ok s' => go s'
  | .error k => { s with life := counted s (0x300 + cls), peerHint := some k }

/-- Arguments of a copy that R394 admits pass its checks. -/
theorem fabCopyOk_passes {va xf sf df cls : Nat} {bytes : List Byte} (hok : FabCopyOk va xf sf df cls bytes) :
    (decide (fabLen xf sf df bytes = 0) || decide (2 ^ 24 < fabLen xf sf df bytes) || decide (6 < xf) || decide (7 < cls)
      || (decide (xf ≠ 0) && (!xfFmt sf || !xfFmt df || decide (10 < sf) || decide (10 < df)))
      || decide (va % fabDst xf df ≠ 0)) = false := by
  obtain ⟨hpos, hmax, hxf, hcls, hfmt, hal⟩ := hok
  have hfmts : (decide (xf ≠ 0) && (!xfFmt sf || !xfFmt df || decide (10 < sf) || decide (10 < df))) = false := by
    by_cases h0 : xf = 0
    · simp [h0]
    · obtain ⟨hs, hd, hsf, hdf⟩ := hfmt h0
      simp [hs, hd, Nat.not_lt.mpr hsf, Nat.not_lt.mpr hdf]
  rw [hfmts]
  simp [-Nat.reducePow, Nat.ne_of_gt hpos, Nat.not_lt.mpr hmax, Nat.not_lt.mpr hxf, Nat.not_lt.mpr hcls, hal]

/-- A copy that is valid is performed where the calendars have room for it. -/
theorem fabricRequest_copy {s : State} {oid va xf sf df cls : Nat} {bytes : List Byte} {dst : List Piece}
    {x : Except Nat State} (scalar : Word) (hm : s.mode = .running) (hfab : s.fabricOn = true)
    (hok : FabCopyOk va xf sf df cls bytes)
    (hdst : s.wholeRange (peerAgent oid) 4 .store va (fabLen xf sf df bytes) = .ok dst) (hheld : s.heldChannels dst = [])
    (hx : s.tryAdmit oid cls 16 (s.pagesOf oid va (fabLen xf sf df bytes))
      (byteNeeds [] dst ++ [.spread 0x19 bytes.length] ++ if xf = 0 then [] else drayNeeds dst) = x) :
    exec (.fabricRequest (.copy oid va xf sf df scalar cls bytes)) s = .next (s.answerPeer cls (fun s' =>
      { s'.fabricCopy oid xf (fabSrc xf sf) (fabDst xf df) sf df scalar dst bytes with peerHint := none }) x) := by
  show execFabricRequest (.copy oid va xf sf df scalar cls bytes) s = _
  unfold execFabricRequest
  rw [whenRunning_running hm, hfab]
  refine (if_neg (Bool.eq_false_iff.mp (fabCopyOk_passes hok))).trans ?_
  unfold fabLen fabSrc fabDst at hdst hx
  dsimp only
  rw [hdst]
  refine (if_neg (by rw [hheld]; exact Bool.false_ne_true)).trans ?_
  rw [hx]
  cases x with
  | error k => rfl
  | ok s' => rfl

/-- Arguments of a call that are valid by R262 and R394 pass its checks. -/
theorem fabCallOk_passes {s : State} {oid len entry layer target nret cls : Nat} {payload : List Word}
    (hok : FabCallOk s oid len entry layer target nret cls payload) :
    (decide (16 < payload.length) || decide (8 < nret) || decide (7 < cls) || decide (len ≤ entry) || decide (entry % 4 ≠ 0)
      || !(decide (layer = 3) || decide (layer = 4))
      || (decide (layer = 4) && (s.anyHost oid target 1 || s.movingIn oid target 1))) = false := by
  obtain ⟨hpay, hret, hcls, hentry, hal, hlayer⟩ := hok
  have htarget : (!(decide (layer = 3) || decide (layer = 4))
      || (decide (layer = 4) && (s.anyHost oid target 1 || s.movingIn oid target 1))) = false := by
    rcases hlayer with h3 | ⟨h4, hhost, hmove⟩
    · simp [h3]
    · simp [h4, hhost, hmove]
  rw [Bool.or_assoc, htarget]
  simp [Nat.not_lt.mpr hpay, Nat.not_lt.mpr hret, Nat.not_lt.mpr hcls, Nat.not_le.mpr hentry, hal]

/-- A call that is valid is queued at the executor of its target where the calendars have room for it. -/
theorem fabricRequest_call {s : State} {oid len entry layer target nret cls : Nat} {payload : List Word}
    {ps : List Piece} {loc : Loc} {x : Except Nat State} (base : Nat) (hm : s.mode = .running) (hfab : s.fabricOn = true)
    (hok : FabCallOk s oid len entry layer target nret cls payload)
    (hps : s.wholeRange (peerAgent oid) layer .load target 1 = .ok ps) (hloc : pieceLoc ps 0 = some loc)
    (hx : s.tryAdmit oid cls 32 [] (callNeeds (executorOf layer 0 loc) cls payload.length nret
      ++ [.spread 0x19 (4 * payload.length), .spread 0x18 (4 * nret)]) = x) :
    exec (.fabricRequest (.call oid base len entry layer target nret cls payload)) s = .next (s.answerPeer cls (fun s' =>
      (State.addCall { s' with peerHint := none }
        { token := 0, ex := executorOf layer 0 loc, team := 0, coach := 0, oid := oid,
          deadline := s'.slot + 16 * 4 ^ cls, nret := nret, payload := payload, entry := entry,
          caller := { oid := oid, code := base, codeLen := len } }).1) x) := by
  have hloc' : (pieceLoc ps 0).getD (.sto 0) = loc := by rw [hloc, Option.getD_some]
  show execFabricRequest (.call oid base len entry layer target nret cls payload) s = _
  unfold execFabricRequest
  rw [whenRunning_running hm, hfab]
  refine (if_neg (Bool.eq_false_iff.mp (fabCallOk_passes hok))).trans ?_
  rw [hps]
  dsimp only
  rw [hloc', hx]
  cases x with
  | error k => rfl
  | ok s' => rfl

/-- What becomes of a packet (R345), in the words of the statements. -/
theorem State.takePacket_eq (s : State) (p : Packet) : s.takePacket p = packetTaken s p := by
  have hfull : ((s.keepsPacket p).any fun d => decide (64 ≤ d.packets.length)) = true
      ↔ ∃ d, s.keepsPacket p = some d ∧ 64 ≤ d.packets.length := by
    simp only [Option.any_eq_true, decide_eq_true_eq]
  unfold State.takePacket packetTaken
  exact if_congr Iff.rfl rfl (if_congr hfull rfl rfl)

theorem fabricRequest_reduce {s : State} {oid pa fmt op : Nat} {elems : List Byte} (hm : s.mode = .running)
    (hfab : s.fabricOn = true) (hok : PacketOk pa fmt op elems) :
    exec (.fabricRequest (.reduce oid pa fmt op elems)) s = .next
      (packetTaken s { oid := oid, sector := pa, fmt := fmt, op := op, elems := elems }) := by
  rw [← State.takePacket_eq]
  show execFabricRequest (.reduce oid pa fmt op elems) s = _
  unfold execFabricRequest
  rw [whenRunning_running hm, hfab]
  exact (if_neg Bool.false_ne_true).trans (if_pos (by simpa [-Nat.reducePow, PacketOk, and_assoc] using hok))

/-! ### Requests of the relay (R302, R394, R395, R405) -/

/-- What the relay does with the answer `x` of this part's calendars to a request: it sends the request where the peer admits it
too, and else counts the refusal and keeps the larger hint. -/
def State.answerRelay (s : State) (req : FabricReq) (ps : List Piece) (x : Except Nat State) : State :=
  let refused (k : Nat) : State := { s with life := counted s (0x300 + (fabricShape req).2.1), relayHint := some k }
  match x with
  | .error k => refused (max k (peerRefusal s))
  | .ok s' =>
    if peerRefusal s ≠ 0 then refused (peerRefusal s)
    else s'.relaySend (fabricCarrying (s.readPieces (fabricShape req).1 ps 0 (relayLen req)) req) (relayNumber s req)

theorem fabricRelayRequest_asks {s : State} {src : Nat} {req : FabricReq} {ps : List Piece} {x : Except Nat State}
    (hr : Relays s src req ps) (hx : relayAsks s src req ps = x) :
    exec (.fabricRelayRequest { src := src, req := req }) s = .next (s.answerRelay req ps x) := by
  obtain ⟨hm, hfab, hcls, hfree, hps, hheld⟩ := hr
  have htaken : (fabricIsCall req && s.calls.any fun p => p.2.relay = some (relayNumber s req)) = false := by
    simpa using hfree
  show execFabricRelayRequest { src := src, req := req } s = _
  unfold execFabricRelayRequest
  rw [whenRunning_running hm]
  unfold relayAsks relayLen at hx
  unfold State.answerRelay
  unfold relayLen at hps ⊢
  unfold relayNumber at htaken ⊢
  dsimp only
  generalize fabricShape req = shape at *
  obtain ⟨oid, cls, out, back⟩ := shape
  dsimp only at hcls hps hx ⊢
  rw [if_neg (by rw [hfab, htaken]; simp [Nat.not_lt.mpr hcls]), hps]
  refine (if_neg (by rw [hheld]; exact Bool.false_ne_true)).trans ?_
  rw [hx]
  cases x with
  | error k => rfl
  | ok s' => exact (apply_ite Host.Outcome.next _ _ _).symm

/-! ### Errors and retrains (R304, R389, R393, R402) -/

/-- A table whose values are all changed. -/
theorem Cells.find_map {α β : Type} (c : Cells α) (f : α → β) (k : Nat) :
    Cells.find (c.map fun p => (p.1, f p.2)) k = (Cells.find c k).map f := by
  induction c with
  | nil => rfl
  | cons p r ih =>
    obtain ⟨a, y⟩ := p
    simp only [List.map_cons, Cells.find]
    split
    · rfl
    · exact ih

/-- A node under the excuse of a hardware fault (R304). -/
def Node.excuse (n : Node) : Node := if n.admitted.isSome then { n with excused := true } else n

@[simp] theorem Node.excuse_admitted (n : Node) : n.excuse.admitted = n.admitted := by
  unfold Node.excuse
  split <;> rfl

theorem State.excuse_find_node (s : State) (node : Nat) :
    Cells.find s.excuse.nodes node = (Cells.find s.nodes node).map Node.excuse :=
  Cells.find_map s.nodes Node.excuse node

/-- An uncorrectable error stops its node where the node is admitted and the part runs: in recovery no node reads data
(R321). -/
theorem softError_uncorrected {s x : State} {r : Nat} (node : Nat) (hp : Powered s) (hr : r ≤ 14)
    (hx : x = State.excuse { s with life := counted s (0x20 + r) }) :
    exec (.softError r false node) s = .next
      (if ((Cells.find s.nodes node).any fun n => n.admitted.isSome) && decide (s.mode = .running) then x.stopNode node 5
        else x) := by
  have hmode : x.mode = s.mode := by rw [hx]; rfl
  have hfind : Cells.find x.nodes node = (Cells.find s.nodes node).map Node.excuse := by
    rw [hx]
    exact State.excuse_find_node _ node
  show execSoftError r false node s = _
  unfold execSoftError
  rw [whenPowered_powered hp, if_neg (Nat.not_lt.mpr hr), if_neg Bool.false_ne_true]
  dsimp only
  rw [show (s.count (0x20 + r)).excuse = x from hx.symm, hfind, hmode]
  cases Cells.find s.nodes node with
  | none => rfl
  | some n => simp only [Option.map_some, Option.any_some, Node.excuse_admitted]

/-- Settles O42: the checks of a request pass and the calendars give the answer; an event of a part that has power counts, and
does what its rule says. -/
theorem fabricAndErrorEventsComplete : Obligations.FabricAndErrorEventsComplete := by
  refine ⟨fun s oid va xf sf df scalar cls bytes dst s' hm hfab hok hdst hheld hx =>
      fabricRequest_copy scalar hm hfab hok hdst hheld hx,
    fun s oid pa fmt op elems hm hfab hok => fabricRequest_reduce hm hfab hok,
    fun s oid base len entry layer target nret cls payload ps loc s' hm hfab hok hps hloc hx =>
      fabricRequest_call base hm hfab hok hps hloc hx,
    fun s req cls k hm hfab hno => ?_, fun s src req ps s' hr hpeer hx => ?_, fun s src req ps s' hr hpeer hx => ?_,
    fun s src req ps k hr hx => fabricRelayRequest_asks hr hx, fun s m tr hp hlt => ?_, fun s l hp hl => ?_,
    fun s r node hp hr => ?_, fun s r node n hm hr hn ha => ?_, fun s r node hno hr => ?_, fun s mv hp hv => ?_⟩
  · cases req with
    | copy oid va xf sf df scalar c bytes =>
      obtain ⟨hok, rfl, dst, hdst, hheld, hx⟩ := hno
      exact fabricRequest_copy scalar hm hfab hok hdst hheld hx
    | reduce => exact hno.elim
    | call oid base len entry layer target nret c payload =>
      obtain ⟨hok, rfl, ps, loc, hps, hloc, hx⟩ := hno
      exact fabricRequest_call base hm hfab hok hps hloc hx
  · exact (fabricRelayRequest_asks hr hx).trans (congrArg _ (if_neg (not_not.mpr hpeer)))
  · exact (fabricRelayRequest_asks hr hx).trans (congrArg _ (if_pos hpeer))
  · exact if_pos (by simpa [Powered, hlt] using hp)
  · exact (whenPowered_powered hp).trans (if_pos hl)
  · exact (whenPowered_powered hp).trans (if_neg (Nat.not_lt.mpr hr))
  · exact (softError_uncorrected node (.inl hm) hr rfl).trans (congrArg _ (if_pos (by simp [hn, ha, hm])))
  · refine (softError_uncorrected node (hno.elim .inr fun h => .inl h.1) hr rfl).trans (congrArg _ (if_neg ?_))
    rcases hno with hrec | ⟨-, hpool⟩
    · simp [hrec]
    · cases hn : Cells.find s.nodes node with
      | none => simp
      | some n => simp [hpool n hn]
  · exact (whenPowered_powered hp).trans (if_pos hv)

end Sys2Proof.Machine
end

section
/-!
SUPPORT. The encodings of dray words (R333 to R336) and of Celud words (R380 to R382): what a decoder reads from a word has that
word, and an operation is read back from its word.
-/

namespace Sys2Proof

open Sys2Proof.Machine Sys2Proof.Claims

/-! ### Dray words -/

section
variable {i : Instr} {w : Word} {x op : Nat} {l : List (Nat × Nat)}

theorem ofNat_pack_of_holds (h : Holds w.toNat 32 l) : BitVec.ofNat 32 (pack l) = w := by
  rw [pack_of_holds h, Nat.mod_eq_of_lt w.isLt, BitVec.ofNat_toNat, BitVec.setWidth_eq]

/-- The word has these values in the bit of its thread and in OP (R333). -/
def DrayHead (x op : Nat) (w : Word) : Prop := fld w.toNat 31 1 = x ∧ fld w.toNat 26 5 = op

/-- A row of a thread's map: its operation has the word, if the fields that the row tests hold their values. -/
theorem DrayHead.row (h : DrayHead x op w) {c : Bool}
    (hi : encodeDray i = some (BitVec.ofNat 32 (pack ((1, x) :: (5, op) :: l)))) (hl : c = true → Holds w.toNat 26 l) :
    SomeHas (fun i => encodeDray i = some w) (if c then some i else none) := by
  cases c with
  | false => exact trivial
  | true =>
    obtain ⟨hx, hop⟩ := h
    exact hi.trans (congrArg some (ofNat_pack_of_holds ⟨by decide, hx, by decide, hop, hl rfl⟩))

/-- What the map of the address thread answers has the word (R334). -/
theorem decodeDrayA_encodes (h : DrayHead 0 op w) : SomeHas (fun i => encodeDray i = some w) (decodeDrayA w.toNat op) := by
  unfold decodeDrayA
  split
  case h_3 => exact h.row (c := true) rfl (by simp [Holds])
  case h_10 => exact trivial
  all_goals exact h.row rfl (fun ht => by simpa [Holds, and_assoc] using ht)

/-- What the map of the arithmetic thread answers has the word (R336). -/
theorem decodeDrayX_encodes (h : DrayHead 1 op w) : SomeHas (fun i => encodeDray i = some w) (decodeDrayX w.toNat op) := by
  unfold decodeDrayX
  split
  case h_13 => exact trivial
  all_goals exact h.row rfl (fun ht => by simpa [Holds, and_assoc] using ht)

end

theorem encodeDray_of_decodeDray {i : Instr} {w : Word} (h : decodeDray w = some i) : encodeDray i = some w := by
  unfold decodeDray at h
  split at h
  case isTrue hx => exact (decodeDrayX_encodes ⟨by simpa using hx, rfl⟩).of_eq h
  case isFalse hx =>
    have hlt : fld w.toNat 31 1 < 2 := Nat.mod_lt _ (by decide)
    exact (decodeDrayA_encodes ⟨by simp at hx; omega, rfl⟩).of_eq h

/-- What is read back from a dray word follows from what the map of its thread answers for every number that holds its fields. -/
theorem decodeDray_pack {i : Instr} {x op : Nat} {l : List (Nat × Nat)} (hf : Fits ((1, x) :: (5, op) :: l)) (hw : widths l = 26)
    (h : ∀ n, Holds n 26 l → (if x == 1 then decodeDrayX n op else decodeDrayA n op) = some i) :
    decodeDray (BitVec.ofNat 32 (pack ((1, x) :: (5, op) :: l))) = some i := by
  have hwidths : widths ((1, x) :: (5, op) :: l) = 32 := by simp only [widths_cons, hw]
  have hholds := holds_pack hf
  rw [hwidths] at hholds
  have hlt : pack ((1, x) :: (5, op) :: l) < 2 ^ 32 := hwidths ▸ pack_lt hf
  obtain ⟨-, hx, -, hop, hl⟩ := hholds
  rw [← h _ hl, decodeDray, BitVec.toNat_ofNat, Nat.mod_eq_of_lt hlt, hx, hop]

/-- What the statements name for an instruction of a dray `y`: its command, or the dray after an address or an arithmetic word. -/
def drayMeaning (y : Dray) (i : Instr) : Option RowCmd × Option Dray × Option Dray :=
  (commandOf y i, addressAfter y i, arithmeticAfter y i)

theorem drayMeaning_eq_none {y : Dray} {i : Instr} (h : drayMeaning y i = (none, none, none)) :
    commandOf y i = none ∧ addressAfter y i = none ∧ arithmeticAfter y i = none := by
  simpa [drayMeaning] using h

/-- The words of a dray, one by one, and the instructions that are none. -/
theorem drayCases {motive : Instr → Prop}
    (aend : motive .aend) (jmovi : ∀ d v, motive (.jmovi d v)) (jaddi : ∀ d a v, motive (.jaddi d a v))
    (jadd : ∀ d a b, motive (.jadd d a b)) (jloop : ∀ d o, motive (.jloop d o)) (drayOpen : ∀ r, motive (.drayOpen r))
    (drayRead : ∀ r c n, motive (.drayRead r c n)) (drayWback : ∀ k r c f, motive (.drayWback k r c f))
    (drayClose : ∀ r, motive (.drayClose r))
    (xend : motive .xend) (xpop : ∀ d f, motive (.xpop d f)) (xadd : ∀ d a b f, motive (.xadd d a b f))
    (xmul : ∀ d a b f, motive (.xmul d a b f)) (xfma : ∀ d a b f, motive (.xfma d a b f))
    (xmax : ∀ d a b f, motive (.xmax d a b f)) (xmin : ∀ d a b f, motive (.xmin d a b f))
    (xset : ∀ k a, motive (.xset k a)) (xacc : ∀ k a, motive (.xacc k a)) (xrel : ∀ k, motive (.xrel k))
    (xcmovi : ∀ d v, motive (.xcmovi d v)) (xloop : ∀ d o, motive (.xloop d o))
    (other : ∀ i, encodeDray i = none → (∀ y, drayMeaning y i = (none, none, none)) → motive i) (i : Instr) : motive i := by
  cases i
  case aend => exact aend
  case jmovi => exact jmovi ..
  case jaddi => exact jaddi ..
  case jadd => exact jadd ..
  case jloop => exact jloop ..
  case drayOpen => exact drayOpen ..
  case drayRead => exact drayRead ..
  case drayWback => exact drayWback ..
  case drayClose => exact drayClose ..
  case xend => exact xend
  case xpop => exact xpop ..
  case xadd => exact xadd ..
  case xmul => exact xmul ..
  case xfma => exact xfma ..
  case xmax => exact xmax ..
  case xmin => exact xmin ..
  case xset => exact xset ..
  case xacc => exact xacc ..
  case xrel => exact xrel ..
  case xcmovi => exact xcmovi ..
  case xloop => exact xloop ..
  all_goals exact other _ rfl fun _ => rfl

/-- An operation of a dray is read back from its word: a number that holds its fields passes the test of its row. -/
theorem decodeDray_of_encodeDray {i : Instr} {w : Word} (h : encodeDray i = some w) : decodeDray w = some i := by
  induction i using drayCases
  case other hi _ => exact absurd (hi.symm.trans h) nofun
  all_goals cases h
  all_goals
    refine decodeDray_pack (by simp only [Fits, BitVec.isLt, true_and, and_true]; decide) rfl fun n hl => ?_
    simp only [Holds, fld_eq_toNat, Nat.reduceSub, Nat.reduceLeDiff, true_and, and_true] at hl
    simp [decodeDrayA, decodeDrayX, hl]

/-! ### Celud words -/

/-- The fields of a Celud word (R381). -/
def celudFields (opc scope ord rev : Nat) (lit : Option (BitVec 64)) (d a b c : Nat) : List (Nat × Nat) :=
  [(8, opc), (3, scope), (2, ord), (2, rev), (1, bit lit.isSome), (12, d), (12, a), (12, b), (12, c)]

/-- The number `n` holds the fields before the registers, from bit 63 to bit 48 (R381). -/
def CeludHead (n opc scope ord rev : Nat) (lit : Option (BitVec 64)) : Prop :=
  fld n 56 8 = opc ∧ fld n 53 3 = scope ∧ fld n 51 2 = ord ∧ fld n 49 2 = rev ∧ fld n 48 1 = bit lit.isSome

/-- The number `n` holds `v` in the register field at bit `lo`, if the row uses that field, and else zero or none (R381). -/
def CeludField (used : Bool) (n lo v : Nat) : Prop := if used then fld n lo 12 = v else celudUnused n lo = true

/-- The number `n` holds the register fields that the row of `opc` uses (R382). -/
def CeludRegs (n opc d a b c : Nat) : Prop :=
  CeludField (celudUses opc).1 n 36 d ∧ CeludField (celudUses opc).2.1 n 24 a ∧ CeludField (celudUses opc).2.2.1 n 12 b
    ∧ CeludField (celudUses opc).2.2.2 n 0 c

theorem fld_div (n k lo len : Nat) : fld (n / 2 ^ k) lo len = fld n (k + lo) len := by
  rw [fld, fld, Nat.div_div_eq_div_mul, Nat.pow_add]

/-- Adjacent fields read together (R15). -/
theorem fld_eq_pack {n lo len : Nat} {l : List (Nat × Nat)} (h : Holds (n / 2 ^ lo) len l) : fld n lo len = pack l :=
  (pack_of_holds h).symm

/-- A field holds smaller fields, packed, if the bits above them are zero and it holds each of them. -/
theorem fld_zero_eq_pack {n len : Nat} {l : List (Nat × Nat)} (hf : Fits l) (hw : widths l ≤ len) :
    fld n 0 len = pack l ↔ fld n (widths l) (len - widths l) = 0 ∧ Holds n (widths l) l := by
  obtain ⟨j, hj⟩ := Nat.exists_eq_add_of_le hw
  have hlow : fld n 0 len = fld n (widths l) j * 2 ^ widths l + n % 2 ^ widths l := by
    rw [hj, Nat.add_comm, ← mod_two_pow_add, fld, pow_zero, Nat.div_one]
  rw [hlow, hj, Nat.add_sub_cancel_left]
  constructor
  · intro h
    have hz : fld n (widths l) j = 0 := by
      by_contra hne
      have hle := Nat.mul_le_mul_right (2 ^ widths l) (Nat.one_le_iff_ne_zero.mpr hne)
      have hlt := pack_lt hf
      omega
    rw [hz, Nat.zero_mul, Nat.zero_add] at h
    exact ⟨hz, holds_of_pack hf h⟩
  · rintro ⟨hz, hl⟩
    rw [hz, Nat.zero_mul, Nat.zero_add, pack_of_holds hl]

theorem pack_lt_two_pow {len : Nat} {l : List (Nat × Nat)} (hf : Fits l) (hw : widths l ≤ len) : pack l < 2 ^ len :=
  Nat.lt_of_lt_of_le (pack_lt hf) (Nat.pow_le_pow_right (by decide) hw)

/-! ### Field C of a Celud word (R382): a code of 3 bits, the options of a memory word, those of an atomic, a conversion -/

section
variable {n : Nat} {sat : Bool} {hint size : BitVec 2} {op space code : BitVec 3} {codes : BitVec 8}

theorem pack_celudCode (code : BitVec 3) : pack [(3, code.toNat)] = code.toNat := by simp [pack]

theorem fits_celudCode : Fits [(3, code.toNat)] := ⟨code.isLt, trivial⟩

theorem fits_celudOptions : Fits [(2, hint.toNat), (2, size.toNat), (3, space.toNat)] :=
  ⟨hint.isLt, size.isLt, space.isLt, trivial⟩

theorem fits_celudAtomic : Fits [(3, op.toNat), (2, hint.toNat), (2, 0), (3, space.toNat)] :=
  ⟨op.isLt, hint.isLt, by decide, space.isLt, trivial⟩

theorem fits_celudConversion : Fits [(1, bit sat), (8, codes.toNat)] := ⟨bit_lt sat, codes.isLt, trivial⟩

theorem celudCode_lt : code.toNat < 2 ^ 12 := pack_celudCode code ▸ pack_lt_two_pow fits_celudCode (by simp [widths])

theorem celudOptions_lt : pack [(2, hint.toNat), (2, size.toNat), (3, space.toNat)] < 2 ^ 12 :=
  pack_lt_two_pow fits_celudOptions (by simp [widths])

theorem celudAtomic_lt : pack [(3, op.toNat), (2, hint.toNat), (2, 0), (3, space.toNat)] < 2 ^ 12 :=
  pack_lt_two_pow fits_celudAtomic (by simp [widths])

theorem celudConversion_lt : pack [(1, bit sat), (8, codes.toNat)] < 2 ^ 12 :=
  pack_lt_two_pow fits_celudConversion (by simp [widths])

theorem fld_eq_celudCode : fld n 0 12 = code.toNat ↔ fld n 3 9 = 0 ∧ code = fb n 0 3 := by
  rw [← fld_eq_toNat, ← pack_celudCode, fld_zero_eq_pack fits_celudCode (by simp [widths])]
  simp [Holds, widths, pack_celudCode]

theorem fld_eq_celudOptions : fld n 0 12 = pack [(2, hint.toNat), (2, size.toNat), (3, space.toNat)]
    ↔ fld n 7 5 = 0 ∧ hint = fb n 5 2 ∧ size = fb n 3 2 ∧ space = fb n 0 3 := by
  rw [fld_zero_eq_pack fits_celudOptions (by simp [widths])]
  simp [Holds, widths, fld_eq_toNat]

theorem fld_eq_celudAtomic : fld n 0 12 = pack [(3, op.toNat), (2, hint.toNat), (2, 0), (3, space.toNat)]
    ↔ fld n 10 2 = 0 ∧ op = fb n 7 3 ∧ hint = fb n 5 2 ∧ fld n 3 2 = 0 ∧ space = fb n 0 3 := by
  rw [fld_zero_eq_pack fits_celudAtomic (by simp [widths])]
  simp [Holds, widths, fld_eq_toNat]

theorem fld_eq_celudConversion : fld n 0 12 = pack [(1, bit sat), (8, codes.toNat)]
    ↔ fld n 9 3 = 0 ∧ sat = (fld n 8 1 == 1) ∧ codes = fb n 0 8 := by
  have hsat : fld n 8 1 = bit sat ↔ sat = (fld n 8 1 == 1) :=
    ⟨fun h => by rw [h, bit_beq_one], fun h => by rw [h, bit_fld_one]⟩
  rw [fld_zero_eq_pack fits_celudConversion (by simp [widths]), ← hsat]
  simp [Holds, widths, fld_eq_toNat]

end

theorem fld_celudHead (n : Nat) :
    fld n 48 16 = pack [(8, fld n 56 8), (3, fld n 53 3), (2, fld n 51 2), (2, fld n 49 2), (1, fld n 48 1)] :=
  fld_eq_pack (by simp [Holds, fld_div, -Nat.reducePow])

section
variable {i : Instr} {w next : BitVec 64} {opc scope ord rev d a b c n m lo v : Nat} {lit : Option (BitVec 64)} {used : Bool}

theorem CeludHead.agree (hn : CeludHead n opc scope ord rev lit) (hm : CeludHead m opc scope ord rev lit) :
    fld n 48 16 = fld m 48 16 := by
  obtain ⟨hopc, hscope, hord, hrev, hbit⟩ := hn
  obtain ⟨hopc', hscope', hord', hrev', hbit'⟩ := hm
  rw [fld_celudHead, fld_celudHead, hopc, hscope, hord, hrev, hbit, hopc', hscope', hord', hrev', hbit']

theorem CeludField.agree (hn : CeludField used n lo v) (hm : fld m lo 12 = v) : celudField used n m lo = true := by
  cases used with
  | false => exact hn
  | true => exact beq_iff_eq.mpr (Eq.trans hn hm.symm)

/-- A Celud word holds its fields. -/
theorem celudWord_holds (hf : Fits (celudFields opc scope ord rev lit d a b c)) :
    Holds (celudWord opc scope ord rev lit d a b c).1.toNat 64 (celudFields opc scope ord rev lit d a b c) := by
  have hlt : pack (celudFields opc scope ord rev lit d a b c) < 2 ^ 64 := pack_lt hf
  have hn : (celudWord opc scope ord rev lit d a b c).1.toNat = pack (celudFields opc scope ord rev lit d a b c) :=
    (BitVec.toNat_ofNat _ _).trans (Nat.mod_eq_of_lt hlt)
  exact hn ▸ holds_pack hf

theorem isCelud_eq {e : BitVec 64 × Option (BitVec 64)} (he : encodeCelud i = some e) (ho : fld e.1.toNat 56 8 = opc) :
    isCelud i w next = (i.wellFormed && fld w.toNat 48 16 == fld e.1.toNat 48 16 && (e.2 == none || e.2 == some next)
      && celudField (celudUses opc).1 w.toNat e.1.toNat 36 && celudField (celudUses opc).2.1 w.toNat e.1.toNat 24
      && celudField (celudUses opc).2.2.1 w.toNat e.1.toNat 12 && celudField (celudUses opc).2.2.2 w.toNat e.1.toNat 0) := by
  subst ho
  unfold isCelud
  rw [he]

/-- A word is taken for an instruction if it holds the fields of the instruction's own word that the row uses. -/
theorem isCelud_of_fields (he : encodeCelud i = some (celudWord opc scope ord rev lit d a b c)) (hwf : i.wellFormed = true)
    (hf : Fits (celudFields opc scope ord rev lit d a b c)) (hhead : CeludHead w.toNat opc scope ord rev lit)
    (hlit : lit = none ∨ lit = some next) (hregs : CeludRegs w.toNat opc d a b c) : isCelud i w next = true := by
  have hm := celudWord_holds hf
  simp only [Holds, celudFields, Nat.reduceSub, Nat.reduceLeDiff, true_and, and_true] at hm
  obtain ⟨hopc, hscope, hord, hrev, hbit, hd', ha', hb', hc'⟩ := hm
  obtain ⟨hd, ha, hb, hc⟩ := hregs
  rw [isCelud_eq he hopc, hwf, hd.agree hd', ha.agree ha', hb.agree hb', hc.agree hc',
    hhead.agree ⟨hopc, hscope, hord, hrev, hbit⟩]
  simpa [celudWord] using hlit

end

/-- A word that is no memory word holds zero in SCOPE, ORD and REV (R381). -/
theorem celudPlain_eq_true {n : Nat} : celudPlain n = true ↔ fld n 53 3 = 0 ∧ fld n 51 2 = 0 ∧ fld n 49 2 = 0 := by
  have h : fld n 49 7 = pack [(3, fld n 53 3), (2, fld n 51 2), (2, fld n 49 2)] :=
    fld_eq_pack (by simp [Holds, fld_div, -Nat.reducePow])
  simp only [celudPlain, h, pack, List.foldl, beq_iff_eq]
  omega

/-- What a decoder reads from the word `w` and the word after it is what the machine takes them for, if it is well formed. -/
abbrev TakenFor (w next : BitVec 64) : Option Instr → Prop := SomeHas fun i => i.wellFormed = true → isCelud i w next = true

/-- The word with OPC `opc` whose literal is `lit`. -/
def CeludReads (w next : BitVec 64) (opc : Nat) (lit : Option (BitVec 64)) : Prop :=
  fld w.toNat 56 8 = opc ∧ fld w.toNat 48 1 = bit lit.isSome ∧ (lit = none ∨ lit = some next)

section
variable {i : Instr} {w next : BitVec 64} {opc scope ord rev d a b c : Nat} {lit lit' : Option (BitVec 64)}

/-- A row of the map of Celud words: the test of the row says that the word holds the fields of the instruction's own word. -/
theorem CeludReads.row (h : CeludReads w next opc lit) {t : Bool}
    (he : encodeCelud i = some (celudWord opc scope ord rev lit' d a b c))
    (hf : Fits [(8, opc), (3, scope), (2, ord), (2, rev), (12, d), (12, a), (12, b), (12, c)])
    (ht : t = true → (fld w.toNat 53 3 = scope ∧ fld w.toNat 51 2 = ord ∧ fld w.toNat 49 2 = rev) ∧ lit = lit'
      ∧ CeludRegs w.toNat opc d a b c) : TakenFor w next (if t then some i else none) := by
  cases t with
  | false => exact trivial
  | true =>
    obtain ⟨hopc, hbit, hlit⟩ := h
    obtain ⟨⟨hscope, hord, hrev⟩, rfl, hregs⟩ := ht rfl
    obtain ⟨fo, fs, fr, fv, fregs⟩ := hf
    exact fun hwf =>
      isCelud_of_fields he hwf ⟨fo, fs, fr, fv, bit_lt _, fregs⟩ ⟨hopc, hscope, hord, hrev, hbit⟩ hlit hregs

/-- A row whose field C holds smaller fields (R382). -/
theorem CeludReads.rowOptions (h : CeludReads w next opc lit) {t : Bool}
    (he : encodeCelud i = some (celudWord opc scope ord rev lit' d a b c))
    (hf : Fits [(8, opc), (3, scope), (2, ord), (2, rev), (12, d), (12, a), (12, b)])
    (ht : t = true → (fld w.toNat 53 3 = scope ∧ fld w.toNat 51 2 = ord ∧ fld w.toNat 49 2 = rev) ∧ lit = lit'
      ∧ CeludField (celudUses opc).1 w.toNat 36 d ∧ CeludField (celudUses opc).2.1 w.toNat 24 a
      ∧ CeludField (celudUses opc).2.2.1 w.toNat 12 b)
    (hu : (celudUses opc).2.2.2 = true) (hc : t = true → fld w.toNat 0 12 = c) :
    TakenFor w next (if t then some i else none) := by
  cases t with
  | false => exact trivial
  | true =>
    obtain ⟨fo, fs, fr, fv, fd, fa, fb, -⟩ := hf
    refine h.row he ⟨fo, fs, fr, fv, fd, fa, fb, hc rfl ▸ Nat.mod_lt _ (by decide), trivial⟩ fun _ => ?_
    obtain ⟨hhead, hlit, hd, ha, hb⟩ := ht rfl
    exact ⟨hhead, hlit, hd, ha, hb, by rw [hu]; exact hc rfl⟩

/-- A row of three register fields, with the last perhaps replaced by the literal (R382). -/
theorem CeludReads.threeRegs (h : CeludReads w next opc lit) (hf : opc < 256)
    (hu : celudUses opc = (true, true, true, false))
    (he : encodeCelud i = some (celudWord opc 0 0 0 lit (fld w.toNat 36 12) (fld w.toNat 24 12) (fld w.toNat 12 12) 0)) :
    TakenFor w next (if celudPlain w.toNat && celudUnused w.toNat 0 then some i else none) := by
  refine h.row he ⟨hf, by decide, by decide, by decide, Nat.mod_lt _ (by decide), Nat.mod_lt _ (by decide),
    Nat.mod_lt _ (by decide), by decide, trivial⟩ fun ht => ?_
  obtain ⟨hp, hc⟩ := Bool.and_eq_true_iff.mp ht
  refine ⟨celudPlain_eq_true.mp hp, rfl, ?_⟩
  unfold CeludRegs
  rw [hu]
  exact ⟨rfl, rfl, rfl, hc⟩

/-- What the map of Celud words answers is what the machine takes the words for (R382). -/
theorem decodeCeludFields_takenFor (h : CeludReads w next opc lit) : TakenFor w next (decodeCeludFields w.toNat lit opc) := by
  unfold decodeCeludFields
  split
  any_goals exact h.threeRegs (by decide) rfl rfl
  case h_48 => exact trivial
  -- The field C holds the type, the function or the options.
  case h_1 | h_31 | h_32 | h_38 | h_39 | h_40 | h_41 =>
    refine h.rowOptions rfl (by simp [Fits, fld, Nat.mod_lt]) (fun ht => ?_) rfl fun ht => ?_
    all_goals simp only [Bool.and_eq_true, beq_iff_eq, celudPlain_eq_true, Option.isNone_iff_eq_none] at ht
    · simp [CeludField, celudUses, ht]
    · simp [-fb_toNat, fld_eq_celudCode, fld_eq_celudConversion, fld_eq_celudOptions, fld_eq_celudAtomic, ht]
  -- The target of a branch is its literal.
  case h_44 | h_45 | h_46 =>
    cases lit with
    | none =>
      rw [Option.map_none, ite_self]
      exact trivial
    | some t =>
      refine h.row rfl (by simp [Fits, fld, Nat.mod_lt]) fun ht => ?_
      simpa [CeludRegs, CeludField, celudUses, celudPlain_eq_true, and_assoc] using ht
  case h_4 =>
    refine h.row rfl (by simp only [Fits]; split <;> simp [fld, Nat.mod_lt]) fun ht => ?_
    simpa [CeludRegs, CeludField, celudUses, celudPlain_eq_true, and_assoc] using ht
  all_goals
    refine h.row rfl (by simp [Fits, fld, Nat.mod_lt]) fun ht => ?_
    simpa [CeludRegs, CeludField, celudUses, celudPlain_eq_true, and_assoc, Option.isNone_iff_eq_none] using ht

theorem decodeCelud_eq_some_iff : decodeCelud w next = some i ↔
    decodeCeludFields w.toNat (if fld w.toNat 48 1 == 1 then some next else none) (fld w.toNat 56 8) = some i
      ∧ Instr.wellFormed i = true := Option.filter_eq_some_iff

theorem isSome_ite_none {α : Type} (b : Bool) (x : α) : (if b then some x else none).isSome = b := by cases b <;> rfl

theorem isCelud_of_decodeCelud (h : decodeCelud w next = some i) : isCelud i w next = true := by
  obtain ⟨hfields, hwf⟩ := decodeCelud_eq_some_iff.mp h
  have hreads : CeludReads w next (fld w.toNat 56 8) (if fld w.toNat 48 1 == 1 then some next else none) := by
    refine ⟨rfl, ?_, ?_⟩
    · rw [isSome_ite_none, bit_fld_one]
    · split <;> simp
  exact (decodeCeludFields_takenFor hreads).of_eq hfields hwf

/-- What is read back from a Celud word follows from what the map answers for every number that holds its fields. -/
theorem decodeCelud_celudWord (hf : Fits (celudFields opc scope ord rev lit d a b c)) (hwf : i.wellFormed = true)
    (hlit : lit = none ∨ lit = some next)
    (h : ∀ n, Holds n 64 (celudFields opc scope ord rev lit d a b c) → decodeCeludFields n lit opc = some i) :
    decodeCelud (celudWord opc scope ord rev lit d a b c).1 next = some i := by
  have hm := celudWord_holds hf
  refine decodeCelud_eq_some_iff.mpr ⟨?_, hwf⟩
  rw [← h _ hm]
  obtain ⟨-, hopc, -, -, -, -, -, -, -, hbit, -⟩ := hm
  have hread : (if bit lit.isSome == 1 then some next else none) = lit := by
    rcases hlit with rfl | rfl <;> rfl
  rw [hopc, hbit, hread]

/-- A word of three register fields is read back, with the last perhaps replaced by the literal (R382). -/
theorem decodeCelud_threeRegs {d a b : BitVec 12} {mk : BitVec 12 → BitVec 12 → BitVec 12 → Instr} (ho : opc < 256)
    (hwf : (mk d a b).wellFormed = true) (hlit : lit = none ∨ lit = some next)
    (h : ∀ n, decodeCeludFields n lit opc =
      if celudPlain n && celudUnused n 0 then some (mk (fb n 36 12) (fb n 24 12) (fb n 12 12)) else none) :
    decodeCelud (celudWord opc 0 0 0 lit d.toNat a.toNat b.toNat 0).1 next = some (mk d a b) := by
  refine decodeCelud_celudWord
    ⟨ho, by decide, by decide, by decide, bit_lt _, d.isLt, a.isLt, b.isLt, by decide, trivial⟩ hwf hlit fun n hl => ?_
  simp only [Holds, celudFields, fld_eq_toNat, Nat.reduceSub, Nat.reduceLeDiff, true_and, and_true] at hl
  simp [h, celudPlain_eq_true, celudUnused, hl]

/-- A well-formed Celud instruction is read back from its words (R381, R382): a number that holds its fields passes the test of
its row. -/
theorem decodeCelud_of_encodeCelud (hwf : i.wellFormed = true) :
    SomeHas (fun e => e.2 = none ∨ e.2 = some next → decodeCelud e.1 next = some i) (encodeCelud i) := by
  cases i
  any_goals exact trivial
  case celudAdd | celudSub | celudMul | celudMulh | celudMin | celudMax | celudAnd | celudOr | celudXor | celudShl | celudShr
      | celudSar | celudCeq | celudClt | celudCltu | celudAdd64 | celudFadd | celudFsub | celudFmul | celudFfma | celudFmin
      | celudFmax | celudFceq | celudFclt | celudFcle | celudHadd2 | celudHfma2 | celudBadd2 | celudBfma2 | celudDot2 =>
    exact fun hlit => decodeCelud_threeRegs (by decide) hwf hlit fun _ => rfl
  case' celudMov lit d a => cases lit
  all_goals
    refine fun hlit => decodeCelud_celudWord ?_ hwf hlit fun n hl => ?_
    · simp only [Fits, celudFields, bit_lt, celudCode_lt, celudOptions_lt, celudAtomic_lt, celudConversion_lt,
        BitVec.isLt, Option.isSome_some, if_true, true_and, and_true]
      decide
    · simp only [Holds, celudFields, fld_eq_toNat, fld_eq_celudCode, fld_eq_celudConversion, fld_eq_celudOptions,
        fld_eq_celudAtomic, Nat.reduceSub, Nat.reduceLeDiff, true_and, and_true] at hl
      show (if _ then _ else _) = some _
      simp [celudPlain_eq_true, celudUnused, hl]

end

/-- Settles O55: as for native words, the decoders' rows and the encoders' layouts name the same fields; a Celud word is compared
with the fields that its row uses, and the others hold zero or none. -/
theorem drayAndCeludWordsRoundTrip : Obligations.DrayAndCeludWordsRoundTrip := by
  refine ⟨fun i w => decodeDray_of_encodeDray, fun i w => encodeDray_of_decodeDray, fun i w lit next hwf he hlit => ?_,
    fun i w next => isCelud_of_decodeCelud⟩
  have hdecode : decodeCelud w next = some i := (decodeCelud_of_encodeCelud hwf).of_eq he hlit
  exact ⟨hdecode, isCelud_of_decodeCelud hdecode⟩

end Sys2Proof
end

section
/-!
TESTS. A word of each row of the dray maps (R334, R336) and words of the Celud map (R381, R382), with the fields where the
tables place them.
-/

namespace Sys2Proof

theorem encodeDray_aend : encodeDray .aend = some 0x00000000 := by decide +kernel
theorem encodeDray_jmovi : encodeDray (.jmovi 3 0x2A) = some 0x04C0002A := by decide +kernel
theorem encodeDray_jaddi : encodeDray (.jaddi 3 4 0x3FFFF) = some 0x08D3FFFF := by decide +kernel
theorem encodeDray_jadd : encodeDray (.jadd 1 2 3) = some 0x0C48C000 := by decide +kernel
theorem encodeDray_jloop : encodeDray (.jloop 5 0x3FFFC) = some 0x1143FFFC := by decide +kernel
theorem encodeDray_drayOpen : encodeDray (.drayOpen 6) = some 0x14180000 := by decide +kernel
theorem encodeDray_drayRead : encodeDray (.drayRead 6 7 3) = some 0x1819C003 := by decide +kernel
theorem encodeDray_drayWback : encodeDray (.drayWback 2 6 7 1) = some 0x1C99C001 := by decide +kernel
theorem encodeDray_drayClose : encodeDray (.drayClose 6) = some 0x20180000 := by decide +kernel
theorem encodeDray_xend : encodeDray .xend = some 0x80000000 := by decide +kernel
theorem encodeDray_xpop : encodeDray (.xpop 4 1) = some 0x85000001 := by decide +kernel
theorem encodeDray_xadd : encodeDray (.xadd 1 2 3 1) = some 0x8848E000 := by decide +kernel
theorem encodeDray_xmul : encodeDray (.xmul 1 2 3 0) = some 0x8C48C000 := by decide +kernel
theorem encodeDray_xfma : encodeDray (.xfma 1 2 3 1) = some 0x9048E000 := by decide +kernel
theorem encodeDray_xmax : encodeDray (.xmax 1 2 3 0) = some 0x9448C000 := by decide +kernel
theorem encodeDray_xmin : encodeDray (.xmin 1 2 3 1) = some 0x9848E000 := by decide +kernel
theorem encodeDray_xset : encodeDray (.xset 5 6) = some 0x9D580000 := by decide +kernel
theorem encodeDray_xacc : encodeDray (.xacc 5 6) = some 0xA1580000 := by decide +kernel
theorem encodeDray_xrel : encodeDray (.xrel 5) = some 0xA5400000 := by decide +kernel
theorem encodeDray_xcmovi : encodeDray (.xcmovi 7 0x40) = some 0xA9C00040 := by decide +kernel
theorem encodeDray_xloop : encodeDray (.xloop 7 0x1FFB) = some 0xADC01FFB := by decide +kernel
theorem encodeCelud_celudMov : encodeCelud (.celudMov (some 7) 9 8) = some (0x0401009008FFF000, some 7) := by decide +kernel
theorem encodeCelud_celudAdd : encodeCelud (.celudAdd none 9 8 7) = some (0x1000009008007000, none) := by decide +kernel

end Sys2Proof
end

section
/-!
SUPPORT. The words of a dray (R331 to R337): what a thread does whose word goes on, stalls or faults.
-/

namespace Sys2Proof.Machine

open Sys2Proof.Claims

/-! ### The frame of a word -/

/-- The dray after a word of its address thread (`addr`) or of its arithmetic thread that did this (R334, R335). -/
def DrayRes.leaves (d : Dray) (addr : Bool) : DrayRes → Dray
  | .stall => d
  | .fault => { d with faulted := true, endA := d.endA || addr, endX := d.endX || !addr }
  | .ok y => y

theorem DrayRes.leaves_fault_address (d : Dray) : leaves d true .fault = { d with faulted := true, endA := true } := by
  simp [leaves]

theorem DrayRes.leaves_fault_arithmetic (d : Dray) : leaves d false .fault = { d with faulted := true, endX := true } := by
  simp [leaves]

/-- The boundary that the dray may have reached is counted with the word (R340). -/
theorem drayOp_leaves {s : State} {ch : Nat} {addr : Bool} {d d' : Dray} {f : Dray → DrayRes} (hi : DrayIssues s ch addr d)
    (hf : (f d).leaves d addr = d') : drayOp addr s f = .next (withDray s ch d'.reach) := by
  obtain ⟨hh, hr⟩ := hi
  subst hf
  simp only [drayOp, hh, hr, ne_eq, not_true_eq_false, if_false, Bool.not_true, Bool.false_eq_true]
  cases f d <;> rfl

/-! ### Loops -/

theorem drayTarget_eq (len pc : Nat) (off : Int) : drayTarget len pc off =
    if 0 ≤ (pc : Int) + off ∧ (pc : Int) + off < len then some ((pc : Int) + off).toNat else none := by
  simp [drayTarget]

section
variable {s : State} {ch : Nat} {y : Dray}

theorem addressAfter_jloop (d : BitVec 4) (o : BitVec 18) : addressAfter y (.jloop d o) =
    if y.J d = 1 then some (aStep (y.setJ d 0))
    else if 0 ≤ (y.pcA : Int) + o.toInt ∧ (y.pcA : Int) + o.toInt < y.progA.length then
      some { (y.setJ d (y.J d - 1)) with pcA := ((y.pcA : Int) + o.toInt).toNat }
    else none := rfl

theorem arithmeticAfter_xloop (d : BitVec 4) (o : BitVec 13) : arithmeticAfter y (.xloop d o) =
    if Cells.get 0 y.c d.toNat = 1 then some (xStep { y with c := Cells.set 0 y.c d.toNat 0 })
    else if 0 ≤ (y.pcX : Int) + o.toInt ∧ (y.pcX : Int) + o.toInt < y.progX.length then
      some { y with c := Cells.set 0 y.c d.toNat (Cells.get 0 y.c d.toNat - 1), pcX := ((y.pcX : Int) + o.toInt).toNat }
    else none := rfl

/-- A JLOOP faults where the statements name no dray after it. -/
theorem execJloop_issues (hi : DrayIssues s ch true y) (d : BitVec 4) (o : BitVec 18) : exec (.jloop d o) s =
    .next (withDray s ch (((addressAfter y (.jloop d o)).map DrayRes.ok |>.getD .fault).leaves y true).reach) := by
  refine drayOp_leaves hi (congrArg (DrayRes.leaves y true) ?_)
  rw [addressAfter_jloop]
  simp only [drayTarget_eq, sub_eq_zero]
  by_cases h1 : y.J d = 1
  · simp only [h1, if_true, Option.map_some, Option.getD_some]
    rfl
  · simp only [h1, if_false]
    by_cases ht : 0 ≤ (y.pcA : Int) + o.toInt ∧ (y.pcA : Int) + o.toInt < y.progA.length
    · rw [if_pos ht, if_pos ht]
      rfl
    · rw [if_neg ht, if_neg ht]
      rfl

/-- An XLOOP faults where the statements name no dray after it. -/
theorem execXloop_issues (hi : DrayIssues s ch false y) (d : BitVec 4) (o : BitVec 13) : exec (.xloop d o) s =
    .next (withDray s ch (((arithmeticAfter y (.xloop d o)).map DrayRes.ok |>.getD .fault).leaves y false).reach) := by
  refine drayOp_leaves hi (congrArg (DrayRes.leaves y false) ?_)
  rw [arithmeticAfter_xloop]
  simp only [drayTarget_eq, sub_eq_zero]
  by_cases h1 : Cells.get 0 y.c d.toNat = 1
  · simp only [h1, if_true, Option.map_some, Option.getD_some]
    rfl
  · simp only [h1, if_false]
    by_cases ht : 0 ≤ (y.pcX : Int) + o.toInt ∧ (y.pcX : Int) + o.toInt < y.progX.length
    · rw [if_pos ht, if_pos ht]
      rfl
    · rw [if_neg ht, if_neg ht]
      rfl

/-! ### Row commands -/

/-- The words that enqueue a command (R334). -/
def CommandWord (i : Instr) : Prop :=
  ∃ r, i = .drayOpen r ∨ i = .drayClose r ∨ (∃ c n, i = .drayRead r c n) ∨ ∃ k c f, i = .drayWback k r c f

theorem commandOf_drayRead (r c : BitVec 4) (n : BitVec 2) : commandOf y (.drayRead r c n) =
    if (y.J r).toNat < y.rows.length ∧ (y.J c).toNat + (n.toNat + 1) ≤ 64 then
      some (.read (y.J r).toNat (y.J c).toNat (n.toNat + 1)) else none := rfl

theorem commandOf_drayWback (k r c : BitVec 4) (f : BitVec 1) : commandOf y (.drayWback k r c f) =
    if (y.J r).toNat < y.rows.length ∧ (y.J c).toNat + (if f = 1 then 2 else 1) ≤ 64 then
      some (.wback (y.J r).toNat (y.J c).toNat k.toNat (f == 1)) else none := rfl

theorem exec_commandWord {i : Instr} (s : State) (hi : CommandWord i) : exec i s = enqueue s (commandOf · i) := by
  obtain ⟨r, rfl | rfl | ⟨c, n, rfl⟩ | ⟨k, c, f, rfl⟩⟩ := hi
  · rfl
  · rfl
  · exact congrArg (enqueue s) (funext fun y => by rw [commandOf_drayRead]; simp)
  · exact congrArg (enqueue s) (funext fun y => by rw [commandOf_drayWback]; simp)

theorem commandWord_of_commandOf {i : Instr} {c : RowCmd} (h : commandOf y i = some c) : CommandWord i := by
  induction i using drayCases
  case drayOpen r => exact ⟨r, .inl rfl⟩
  case drayClose r => exact ⟨r, .inr (.inl rfl)⟩
  case drayRead r c n => exact ⟨r, .inr (.inr (.inl ⟨c, n, rfl⟩))⟩
  case drayWback k r c f => exact ⟨r, .inr (.inr (.inr ⟨k, c, f, rfl⟩))⟩
  case other hi => exact nomatch (drayMeaning_eq_none (hi y)).1.symm.trans h
  all_goals exact nomatch h

/-- A command joins the row queue while that holds fewer than 16 (R332, R334). -/
theorem exec_commandOf {i : Instr} {c : RowCmd} (hi : DrayIssues s ch true y) (hc : commandOf y i = some c) : exec i s =
    .next (withDray s ch (if 16 ≤ y.rowq.length then y else aStep { y with rowq := y.rowq ++ [c] }).reach) := by
  rw [exec_commandWord s (commandWord_of_commandOf hc)]
  refine drayOp_leaves hi ?_
  simp only [hc]
  split <;> rfl

end

/-! ### The obligations on the address thread and on faults -/

/-- Settles O27: each word leaves the dray that the statement names, and a full queue stalls a command. -/
theorem drayAddressWords : Obligations.DrayAddressWords := by
  refine ⟨fun i s ch d d' hi ha => ?_, fun i s ch d c hi hc hq => ?_, fun i s ch d c hi hc hq => ?_⟩
  · induction i using drayCases
    case aend => cases ha; exact (drayOp_leaves hi rfl : execAend s = _)
    case jmovi r v => cases ha; exact (drayOp_leaves hi rfl : execJmovi r v s = _)
    case jaddi r a v => cases ha; exact (drayOp_leaves hi rfl : execJaddi r a v s = _)
    case jadd r a b => cases ha; exact (drayOp_leaves hi rfl : execJadd r a b s = _)
    case jloop r o => rw [execJloop_issues hi, ha]; rfl
    case other ho => exact nomatch (drayMeaning_eq_none (ho d)).2.1.symm.trans ha
    all_goals exact nomatch ha
  · rw [exec_commandOf hi hc, if_neg (Nat.not_le.mpr hq)]
  · rw [exec_commandOf hi hc, if_pos hq]

/-- Settles O29: a loop without a target and a command without its row or columns fault their thread. -/
theorem drayThreadFaults : Obligations.DrayThreadFaults := by
  refine ⟨fun s ch d r o hi ha => ?_, fun s ch d i hi hc hcmd => ?_, fun s ch d r o hi ha => ?_⟩
  · rw [execJloop_issues hi, ha, ← DrayRes.leaves_fault_address]
    rfl
  · rw [exec_commandWord s hcmd, ← DrayRes.leaves_fault_address]
    exact drayOp_leaves hi (by simp only [hc])
  · rw [execXloop_issues hi, ha, ← DrayRes.leaves_fault_arithmetic]
    rfl

/-! ### The arithmetic thread -/

section
variable {s : State} {ch : Nat} {y : Dray}

/-- The words on H registers: with BF = 1 the second source is F[b] in every lane (R336). -/
theorem drayArith_issues (hi : DrayIssues s ch false y) (d a b : BitVec 4) (f : BitVec 1) (op : Word → Word → Word → Word) :
    drayArith d a b f s op = .next (withDray s ch (setH y d fun i => op (y.H d i) (y.H a i) (laneB y b f i)).reach) :=
  drayOp_leaves hi (by simp only [DrayRes.leaves, beq_iff_eq]; rfl)

theorem arithmeticAfter_xpop (d : BitVec 4) (f : BitVec 1) : arithmeticAfter y (.xpop d f) =
    if f = 0 then
      match y.dataq with
      | e :: rest => some (setH { y with dataq := rest } d fun i => round32 (fval bf16 (entryElem e 2 i)))
      | [] => none
    else
      match y.dataq with
      | e :: g :: rest => some (setH { y with dataq := rest } d fun i =>
          BitVec.ofNat 32 (if i < 8 then entryElem e 4 i else entryElem g 4 (i - 8)))
      | _ => none := rfl

/-- XPOP stalls where the statements name no dray after it. -/
theorem execXpop_issues (hi : DrayIssues s ch false y) (d : BitVec 4) (f : BitVec 1) :
    exec (.xpop d f) s = .next (withDray s ch ((arithmeticAfter y (.xpop d f)).getD y).reach) := by
  refine drayOp_leaves hi ?_
  rw [arithmeticAfter_xpop]
  simp only [beq_iff_eq]
  by_cases hf : f = 0
  · simp only [hf, if_true]
    cases y.dataq <;> rfl
  · simp only [hf, if_false]
    rcases y.dataq with _ | ⟨e, _ | ⟨g, rest⟩⟩ <;> rfl

theorem arithmeticAfter_xpop_none {d : BitVec 4} {f : BitVec 1} (hq : y.dataq.length < if f = 0 then 1 else 2) :
    arithmeticAfter y (.xpop d f) = none := by
  rw [arithmeticAfter_xpop]
  split at hq
  · rw [if_pos ‹_›, List.length_eq_zero_iff.mp (Nat.lt_one_iff.mp hq)]
  · rw [if_neg ‹_›]
    rcases hd : y.dataq with _ | ⟨e, _ | ⟨g, rest⟩⟩
    · rfl
    · rfl
    · simp [hd] at hq

theorem arithmeticAfter_xset (k a : BitVec 4) : arithmeticAfter y (.xset k a) =
    if Cells.get 0 y.rel k.toNat = 0 then some (xStep { y with ba := setLanes y.ba k.toNat (y.H a) }) else none := rfl

theorem arithmeticAfter_xacc (k a : BitVec 4) : arithmeticAfter y (.xacc k a) =
    if Cells.get 0 y.rel k.toNat = 0 then some (xStep { y with ba := setLanes y.ba k.toNat (accLane y k a) }) else none := rfl

/-- XSET stalls while the bank accumulator is to be written back. -/
theorem execXset_issues (hi : DrayIssues s ch false y) (k a : BitVec 4) :
    exec (.xset k a) s = .next (withDray s ch ((arithmeticAfter y (.xset k a)).getD y).reach) := by
  refine drayOp_leaves hi ?_
  rw [arithmeticAfter_xset]
  simp only [ne_eq, ite_not]
  split <;> rfl

/-- XACC stalls while the bank accumulator is to be written back. -/
theorem execXacc_issues (hi : DrayIssues s ch false y) (k a : BitVec 4) :
    exec (.xacc k a) s = .next (withDray s ch ((arithmeticAfter y (.xacc k a)).getD y).reach) := by
  refine drayOp_leaves hi ?_
  rw [arithmeticAfter_xacc]
  simp only [ne_eq, ite_not]
  split <;> rfl

end

/-- Settles O28: each word leaves the dray that the statement names, and one that cannot go on leaves it as it was. -/
theorem drayArithmeticWords : Obligations.DrayArithmeticWords := by
  refine ⟨fun i s ch y d' hi ha => ?_, fun s ch y r f hi hq => ?_, fun s ch y k a hi hk => ?_⟩
  · induction i using drayCases
    case xend => cases ha; exact (drayOp_leaves hi rfl : execXend s = _)
    case xpop r f => rw [execXpop_issues hi, ha]; rfl
    case xadd r a b f => cases ha; exact (drayArith_issues hi r a b f _ : execXadd r a b f s = _)
    case xmul r a b f => cases ha; exact (drayArith_issues hi r a b f _ : execXmul r a b f s = _)
    case xfma r a b f => cases ha; exact (drayArith_issues hi r a b f _ : execXfma r a b f s = _)
    case xmax r a b f => cases ha; exact (drayArith_issues hi r a b f _ : execXmax r a b f s = _)
    case xmin r a b f => cases ha; exact (drayArith_issues hi r a b f _ : execXmin r a b f s = _)
    case xset k a => rw [execXset_issues hi, ha]; rfl
    case xacc k a => rw [execXacc_issues hi, ha]; rfl
    case xrel k => cases ha; exact (drayOp_leaves hi rfl : execXrel k s = _)
    case xcmovi r v => cases ha; exact (drayOp_leaves hi rfl : execXcmovi r v s = _)
    case xloop r o => rw [execXloop_issues hi, ha]; rfl
    case other ho => exact nomatch (drayMeaning_eq_none (ho y)).2.2.symm.trans ha
    all_goals exact nomatch ha
  · rw [execXpop_issues hi, arithmeticAfter_xpop_none hq]
    rfl
  · constructor
    · rw [execXset_issues hi, show arithmeticAfter y (.xset k a) = none from if_neg hk]
      rfl
    · rw [execXacc_issues hi, show arithmeticAfter y (.xacc k a) = none from if_neg hk]
      rfl

end Sys2Proof.Machine
end

section
/-!
SUPPORT. The events of drays (R334 to R347): the commands of the row queue, windows, the end of a kernel, clock ratios.
-/

namespace Sys2Proof.Machine

open Sys2Proof.Claims

/-! ### The dray of a channel -/

theorem Cells.modify_put {α : Type} (c : Cells α) (k : Nat) (x : α) (f : α → α) :
    Cells.modify (Cells.put c k x) k f = Cells.put c k (f x) := by
  simp only [Cells.modify, Cells.find_put_self, Cells.put_put]

theorem Cells.modify_of_find {α : Type} {c : Cells α} {k : Nat} {x : α} (f : α → α) (h : Cells.find c k = some x) :
    Cells.modify c k f = Cells.put c k (f x) := by
  simp only [Cells.modify, h]

theorem Dray.reach_eq (d : Dray) :
    d.reach = { d with counted := d.reach.counted, boundaries := d.reach.boundaries, columns := d.reach.columns } := by
  unfold Dray.reach
  split <;> rfl

@[simp] theorem Dray.reach_oid (d : Dray) : d.reach.oid = d.oid := by rw [Dray.reach_eq]

@[simp] theorem Dray.reach_node (d : Dray) : d.reach.node = d.node := by rw [Dray.reach_eq]

@[simp] theorem Dray.reach_rowq (d : Dray) : d.reach.rowq = d.rowq := by rw [Dray.reach_eq]

/-! ### Row commands -/

section
variable {s : State} {ch : Nat} {d : Dray} {c : RowCmd} {rest : List RowCmd}

/-- The boundary that the dray may reach with a command is counted (R340). -/
theorem modify_reach_withDray (x : State) (ch : Nat) (e : Dray) :
    ({ withDray x ch e with drays := Cells.modify (withDray x ch e).drays ch Dray.reach } : State) = withDray x ch e.reach := by
  unfold withDray
  rw [Cells.modify_put]

/-- A command at the head of the row queue is carried out (R334, R335). -/
theorem rowCommand_carried {f : State → Dray → RowCmd → Option State} {x : State} (hc : Commands s ch d c rest)
    (hf : f (withDray s ch d.reach) (taken d rest) c = some x) :
    rowCommand ch s f = .next { x with drays := Cells.modify x.drays ch Dray.reach } := by
  obtain ⟨hm, hd, ha, hq, hw, hh, hdr, hn⟩ := hc
  rw [← Dray.reach_node d] at hn
  rw [← Dray.reach_rowq d] at hq
  unfold rowCommand
  rw [whenRunning_running hm, hd]
  simp only [ha, hw, hh, hdr, hn, hq, Bool.not_true, Bool.false_eq_true, if_false, Bool.or_false]
  exact congrArg (fun o : Option State => Host.Outcome.next (match o with
    | some x => { x with drays := Cells.modify x.drays ch Dray.reach }
    | none => withDray s ch d.reach)) hf

/-- A command that leaves its dray as `e` and everything else as `x` (R340). -/
theorem rowCommand_leaves {f : State → Dray → RowCmd → Option State} {x : State} {e : Dray} (hc : Commands s ch d c rest)
    (hf : f (withDray s ch d.reach) (taken d rest) c = some (withDray x ch e)) :
    rowCommand ch s f = .next (withDray x ch e.reach) := by
  rw [rowCommand_carried hc hf, modify_reach_withDray]

theorem readCommand_open {j k n : Nat} (hc : Commands s ch d (.read j k n) rest) (ho : (taken d rest).isOpen j = true) :
    exec (.readCommand ch) s = .next (withDray (withDray s ch d.reach) ch (Dray.reach { taken d rest with
      dataq := (taken d rest).dataq
        ++ (List.range n).map fun i => s.readStoN d.oid (sectorAddr (taken d rest) ch j (k + i)) 32
      columns := (taken d rest).columns + n })) := by
  have hoid : (taken d rest).oid = d.oid := Dray.reach_oid d
  show execReadCommand ch s = _
  refine rowCommand_leaves hc ?_
  simp only [ho, hoid, Bool.not_true, Bool.false_eq_true, if_false]
  rfl

theorem wbackCommand_open {j k b : Nat} {fp : Bool} {x : State} (hc : Commands s ch d (.wback j k b fp) rest)
    (ho : (taken d rest).isOpen j = true)
    (hx : x = (withDray s ch d.reach).writeLocs d.oid (.sto (sectorAddr (taken d rest) ch j k))
      (wbackBytes (taken d rest) b fp)) :
    exec (.wbackCommand ch) s = .next (withDray x ch (Dray.reach { taken d rest with
      rel := Cells.set 0 (taken d rest).rel b (Cells.get 0 (taken d rest).rel b - 1)
      columns := (taken d rest).columns + if fp then 2 else 1 })) := by
  have hoid : (taken d rest).oid = d.oid := Dray.reach_oid d
  show execWbackCommand ch s = _
  refine rowCommand_leaves hc ?_
  simp only [ho, hoid, hx, Bool.not_true, Bool.false_eq_true, if_false]
  rfl

theorem openCommand_carried {j : Nat} {e : Dray} (hc : Commands s ch d (.open j) rest)
    (he : e = { taken d rest with opened := Cells.put (taken d rest).opened ((taken d rest).bank j) j }) :
    exec (.openCommand ch) s = .next (released (withDray s ch d.reach) ch e ((taken d rest).bank j)) := by
  subst he
  show execOpenCommand ch s = _
  exact rowCommand_carried hc rfl

theorem closeCommand_open {j : Nat} {e : Dray} (hc : Commands s ch d (.close j) rest) (ho : (taken d rest).isOpen j = true)
    (he : e = { taken d rest with opened := Cells.drop (taken d rest).opened ((taken d rest).bank j) }) :
    exec (.closeCommand ch) s = .next (released (withDray s ch d.reach) ch e ((taken d rest).bank j)) := by
  subst he
  show execCloseCommand ch s = _
  exact rowCommand_carried hc (if_pos ho)

end

/-! ### Windows, the end of a kernel and clock ratios -/

section
variable {s : State} {ch : Nat} {d : Dray}

theorem windowExpiry_served (hm : s.mode = .running) (hd : Cells.find s.drays ch = some d)
    (hs : ∀ w ∈ s.arrivals, w.chan ≠ ch) :
    exec (.windowExpiry ch) s = .next (withDray s ch { d with window := false }) := by
  have hnone : ¬ (s.arrivals.any fun w => decide (w.chan = ch)) = true := by simpa using hs
  show execWindowExpiry ch s = _
  unfold execWindowExpiry withDray
  rw [whenRunning_running hm, if_neg hnone, Cells.modify_of_find _ hd]

theorem drayKernelEnd_leaves (hm : s.mode = .running) (hd : Cells.find s.drays ch = some d) (hr : s.drayRuns ch d = true)
    (he : (d.endA = true ∧ d.endX = true ∧ d.rowq = []) ∨ (d.atBoundary = true ∧ s.drayNodeFaulted d.node = true)) :
    exec (.drayKernelEnd ch) s = .next (left s ch d) := by
  have hend : ((d.endA && d.endX && d.rowq.isEmpty) || (d.atBoundary && s.drayNodeFaulted d.node)) = true := by
    simpa [and_assoc] using he
  show execDrayKernelEnd ch s = _
  unfold execDrayKernelEnd
  rw [whenRunning_running hm, hd]
  simp only [hr, hend, Bool.not_true, Bool.false_eq_true, if_false, if_true]
  rfl

end

/-- Settles O40: the head command is carried out on the dray that has reached its boundary; the other events ask what the
statement supposes. -/
theorem drayEventsComplete : Obligations.DrayEventsComplete := by
  refine ⟨fun s ch d j rest e => openCommand_carried, fun s ch d j k n rest => readCommand_open,
    fun s ch d j k b fp rest x => wbackCommand_open, fun s ch d j rest e => closeCommand_open,
    fun s ch d hm hd ha hw hdr => ?_, fun s ch d => windowExpiry_served, fun s ch d => drayKernelEnd_leaves,
    fun s oid pa fmt op elems hm hfab hok => ?_, fun s st num den hm hst hden hf => ?_, fun s st num den r hm hf hdr => ?_⟩
  · show execArbitrationWindow ch s = _
    unfold execArbitrationWindow
    rw [whenRunning_running hm, hd]
    simp only [ha, hw, hdr, Bool.not_false, Bool.and_true, if_true]
  · show execReductionPacket oid pa fmt op elems s = _
    unfold execReductionPacket
    rw [whenRunning_running hm, hfab, ← State.takePacket_eq]
    exact if_pos (by simpa [-Nat.reducePow, PacketOk, and_assoc] using hok)
  · show execClockRatioChange st num den s = _
    unfold execClockRatioChange
    rw [whenRunning_running hm, hf]
    exact if_pos (by simp [hst, hden])
  · show execClockRatioChange st num den s = _
    unfold execClockRatioChange
    rw [whenRunning_running hm, hf]
    exact if_pos hdr

end Sys2Proof.Machine
end

section
/-!
SUPPORT. The envelope unit (R356 to R374): its checks on operands that pass them, and the instructions.
-/

namespace Sys2Proof.Machine

open Sys2Proof.Claims

section
variable {s : State} {h : Here}

/-- A map of the members that pass a test. -/
theorem filterMap_ite_some {α β : Type} (p : α → Bool) (f : α → β) (l : List α) :
    (l.filterMap fun x => if p x then some (f x) else none) = (l.filter p).map f := by
  induction l with
  | nil => rfl
  | cons x l ih => cases hx : p x <;> simp [hx, ih]

/-! ### Checks -/

theorem okEnvu_unit (hu : h.t.envu = true) : h.okEnvu = .ok () := if_pos hu

/-- A result of at most CAP lines is written (R360). -/
theorem setEnv_within {d : BitVec 4} {e : Env} (hc : e.lines.length ≤ h.c.ecap.toNat) : h.setEnv d e = .ok (withEnv h d e) :=
  if_neg (Nat.not_lt.mpr hc)

/-- An instruction of the unit whose body writes one result. -/
theorem nativeHere_setEnv {sw : Bool} {d : BitVec 4} {e e' : Env} (hi : Issues false s h) (hu : h.t.envu = true)
    (hc : e.lines.length ≤ h.c.ecap.toNat) (he : e' = e) {body : Here → Except Stop Here}
    (hb : body h = (do h.okEnvu; h.setEnv d e')) : nativeHere sw false s body = .next (after s (withEnv h d e) sw) := by
  subst he
  exact nativeHere_issues hi (hb.trans (ok_then (okEnvu_unit hu) (setEnv_within hc)))

/-! ### Results -/

/-- An operation of the unit on registers writes its result. -/
theorem exec_envelopeResult {i : Instr} {sw : Bool} {d : BitVec 4} {e : Env} (he : envelopeResult h i = some (sw, d, e))
    (hi : Issues false s h) (hu : h.t.envu = true) (hc : e.lines.length ≤ h.c.ecap.toNat) :
    exec i s = .next (after s (withEnv h d e) sw) := by
  unfold envelopeResult at he
  split at he
  case h_1 sw' d' r =>
    cases he
    exact (nativeHere_setEnv hi hu hc rfl rfl : execEnvclr sw d r 0 s = _)
  case h_2 sw' a d' b =>
    cases he
    exact (nativeHere_setEnv hi hu hc rfl rfl : execEnvsum sw a d b s = _)
  case h_3 sw' a d' b =>
    cases he
    exact (nativeHere_setEnv hi hu hc rfl rfl : execEnvmax sw a d b s = _)
  case h_4 sw' a d' b =>
    cases he
    exact (nativeHere_setEnv hi hu hc (by simp) rfl : execEnvconv sw a d b s = _)
  case h_5 sw' a d' =>
    cases he
    exact (nativeHere_setEnv hi hu hc rfl rfl : execEnvleg sw a d s = _)
  case h_6 sw' a d' =>
    cases he
    exact (nativeHere_setEnv hi hu hc (by simp) rfl : execEnvsimp sw a d s = _)
  case h_7 => cases he

end

/-- Settles O24: the checks pass, and each body writes the function that the statement names, or in ENVEVAL its values. -/
theorem envelopeResults : Obligations.EnvelopeResults := by
  refine ⟨fun i s h sw d e => exec_envelopeResult, fun s h sw d r hi hu hr hp hdom => ?_,
    fun s h sw d a new e hi hu ha hnew he hc => ?_, fun s h sw d x a hi hu hd hv hx => ?_⟩
  · show execEnvclr sw d r 1 s = _
    exact nativeHere_issues hi (ok_then (okEnvu_unit hu) ((if_neg (Nat.not_le.mpr hr)).trans
      (ok_then (okUPair_usablePair hp) ((if_neg (by simp [hdom])).trans (setEnv_within (Nat.zero_le _))))))
  · obtain ⟨heven, hlt, hfree⟩ := ha
    have hpair : ¬ ((decide (a.toNat % 2 ≠ 0) || decide (192 ≤ a.toNat)) = true) := by simp [heven, hlt]
    show execEnvins sw d a s = _
    refine nativeHere_issues hi (ok_then (okEnvu_unit hu) ((if_neg hpair).trans (ok_then (okVs_vsFree hfree) ?_)))
    by_cases hx : h.g.exec = 0
    · rw [if_pos hx, if_pos hx]
      rfl
    · rw [if_neg hx, if_neg hx, filterMap_ite_some, ← hnew]
      have hcap : e.lines.length ≤ h.c.ecap.toNat := hc.resolve_left hx
      subst he
      exact (apply_ite (h.setEnv d) _ _ _).symm.trans (setEnv_within hcap)
  · show execEnveval sw d x a s = _
    refine nativeHere_issues hi (ok_then (okEnvu_unit hu) ((if_neg (Nat.not_le.mpr hd)).trans (ok_then (okV_vFree hv)
      (ok_then (okL_usable hx) (congrArg Except.ok ?_)))))
    simp only [List.isEmpty_iff]
    by_cases hl : lanesOf h.g.exec = []
    · rw [if_pos hl, if_pos hl, Here.eachLane, hl]
      rfl
    · rw [if_neg hl, if_neg hl]

/-! ### Images -/

theorem envBase_ok {h : Here} {space ea : Nat} {r : BitVec 8} (hb : EnvBase h space r ea) : h.envBase space r = .ok ea := by
  obtain ⟨hr, hblock, hea, hal⟩ := hb
  refine (if_neg (Nat.not_le.mpr hr)).trans (ok_then (okUBlock_uniBlock hblock) ?_)
  rw [hea] at hal ⊢
  exact if_neg (not_not.mpr hal)

/-- Settles O25: the base, the header and the lines pass their checks; the units are read and written as the statement says. -/
theorem envelopeImagesComplete : Obligations.EnvelopeImagesComplete := by
  refine ⟨fun s h sw wh d r ea head w body ls hi hu hb hhead hw hgood hbody hls hfin hcap => ?_,
    fun s h sw wh d r ea cs hi hu hb hcs => ?_⟩
  · subst hw hls
    have hlines : ¬ (!(pairsOf (s.unitWords h body)).all fun l => finite32 l.1 && finite32 l.2) = true := by
      simpa using hfin
    show execEnvld sw wh d r s = _
    exact native_issues hi (ok_then (okEnvu_unit hu) (ok_then (envBase_ok hb) (ok_then hhead
      ((if_neg (by rw [hgood]; exact Bool.false_ne_true)).trans (ok_then hbody ((if_neg hlines).trans
        (ok_then (setEnv_within hcap) rfl)))))))
  · show execEnvst sw wh d r s = _
    exact native_issues hi (ok_then (okEnvu_unit hu) (ok_then (envBase_ok hb) (ok_then hcs rfl)))

end Sys2Proof.Machine
end

section
/-!
SUPPORT. Reset, boot and the commands of the axle mailbox (R397 to R404).
-/

namespace Sys2Proof.Machine

open Sys2Proof.Claims

/-- Settles O53: the reset state is the state of default values, and empty storage has the canonical form. -/
theorem resetState : Obligations.ResetState :=
  ⟨reset_memory_wf, rfl, rfl, rfl, rfl, rfl, rfl, rfl, rfl, rfl, rfl⟩

/-! ### Boot (R397, R401) -/

section
variable {s : State}

/-- The part after a boot with the configuration block `b`. -/
def State.booted (s : State) (b : List Byte) : State :=
  { s.cold with
    meas := extend (extend (extend [] 0 s.found.axle) 1 b) 2 s.found.coachwork
    fabricOn := decide (fld (blockNat b 0x20 4) 0 1 = 1)
    ucie := (List.range 4).map fun i => decide (fld (blockNat b 0x20 4) (1 + i) 1 = 1)
    mgmt := { s.cold.mgmt with powerCap := blockNat b 0x24 4 }
    mode := .running }

theorem powerOn_boots {b : List Byte} (hm : s.mode = .inReset ∨ s.mode = .off) (hg : ImagesGood s.found b) :
    exec .powerOn s = .next (s.booted b) := by
  obtain ⟨hkey, haxle, hblock, hcoach⟩ := hg
  have hcold : s.cold.found.block = some b := hblock
  have hmeas : s.cold.meas = [] := rfl
  show execPowerOn s = _
  unfold execPowerOn
  rcases hm with hm | hm
  all_goals
    simp only [hm, hkey, haxle, hblock, hcoach]
    simp [State.booted, State.powerLimit, hcold, hmeas]

/-- The boot ROM finds images that do not verify (R397). -/
theorem powerOn_recovers (hm : s.mode = .inReset ∨ s.mode = .off) (hbad : ∀ b, ¬ ImagesGood s.found b) :
    ∃ t, exec .powerOn s = .next t ∧ t.mode = .recovery ∧ t.mem = {} ∧ t.life = s.lifeMram ∧ t.teams = []
      ∧ t.nodes = [] ∧ t.keys = [] := by
  have hon : ¬ (!(decide (s.mode = .inReset) || decide (s.mode = .off))) = true := by
    rcases hm with hm | hm <;> simp [hm]
  show ∃ t, execPowerOn s = .next t ∧ _
  unfold execPowerOn
  rw [if_neg hon]
  dsimp only
  split
  case isTrue => exact ⟨_, rfl, rfl, rfl, rfl, rfl, rfl, rfl⟩
  case isFalse hsig =>
    split
    case h_1 => exact ⟨_, rfl, rfl, rfl, rfl, rfl, rfl, rfl⟩
    case h_2 b hblock =>
      split
      case isTrue => exact ⟨_, rfl, rfl, rfl, rfl, rfl, rfl, rfl⟩
      case isFalse hcoach =>
        simp only [Bool.or_eq_true, decide_eq_true_eq, Bool.not_eq_true', not_or, not_not, Bool.not_eq_false] at hsig hcoach
        exact absurd ⟨hsig.1, hsig.2, hblock, hcoach⟩ (hbad b)

/-- A boot clears the part, and whether the images verify decides whether it runs (R397). -/
theorem powerOn_clears (hm : s.mode = .inReset ∨ s.mode = .off) : ∃ t, exec .powerOn s = .next t ∧ t.mem = {}
    ∧ t.life = s.lifeMram ∧ t.teams = [] ∧ t.nodes = [] ∧ t.keys = []
    ∧ (∀ b, ImagesGood s.found b → t.mode = .running ∧ t.mgmt.powerCap = blockNat b 0x24 4
      ∧ t.meas = extend (extend (extend [] 0 s.found.axle) 1 b) 2 s.found.coachwork
      ∧ t.fabricOn = decide (blockNat b 0x20 4 % 2 = 1))
    ∧ ((∀ b, ¬ ImagesGood s.found b) → t.mode = .recovery) := by
  by_cases hg : ∃ b, ImagesGood s.found b
  · obtain ⟨b, hb⟩ := hg
    refine ⟨_, powerOn_boots hm hb, rfl, rfl, rfl, rfl, rfl, fun b' hb' => ?_, fun hbad => absurd hb (hbad b)⟩
    obtain ⟨-, -, hblock, -⟩ := hb
    obtain ⟨-, -, hblock', -⟩ := hb'
    obtain rfl : b = b' := Option.some.inj (hblock.symm.trans hblock')
    exact ⟨rfl, rfl, rfl, by simp [State.booted, fld_low]⟩
  · have hbad := not_exists.mp hg
    obtain ⟨t, ht, hmode, hmem, hlife, hteams, hnodes, hkeys⟩ := powerOn_recovers hm hbad
    exact ⟨t, ht, hmem, hlife, hteams, hnodes, hkeys, fun b hb => absurd hb (hbad b), fun _ => hmode⟩

/-! ### The mailbox (R398 to R400) -/

theorem command_atHand {k : Word} {f : State → Host.Outcome State Fault Refusal} (hc : s.mailbox.command = k)
    (hs : s.mailbox.status = 1) (hm : s.mode = .running ∨ s.mode = .recovery ∧ k = 1) : command k s f = f s :=
  if_pos (by simpa [hc, hs] using hm)

theorem command_running {k : Word} {f : State → Host.Outcome State Fault Refusal} (hc : CommandAtHand k s) :
    command k s f = f s := by
  obtain ⟨hcmd, hs, hm⟩ := hc
  exact command_atHand hcmd hs (.inl hm)

/-- What LOADKEY answers for a key of `oid` that unwraps to this (R398). -/
def State.keyLoaded (s : State) (oid : Nat) : Option (BitVec 512) → State
  | none => s.answer 0x80000002 []
  | some k => State.answer { s with keys := oid :: s.keys, keyBits := Cells.put s.keyBits (s.keyOf oid) k } 2 []

/-- LOADKEY for an owner whose identifier is in range and has no key yet. -/
theorem loadkey_free {oid : Nat} {x : Option (BitVec 512)} (hc : CommandAtHand 3 s) (ho : oid = leNat (s.requestBytes 0 4))
    (h0 : 0 < oid) (hmax : oid < 0xFFF) (hk : oid ∉ s.keys)
    (hx : Config.unwrap (s.requestBytes 4 1568) (s.requestBytes 1572 72) = x) :
    exec .loadkey s = .next (s.keyLoaded oid x) := by
  subst ho
  show execLoadkey s = _
  refine (command_running hc).trans ?_
  dsimp only
  rw [if_neg (by simp [Nat.ne_of_gt h0, hmax, hk]), hx]
  cases x <;> rfl

end

/-- Settles O43: the boot ROM takes one branch for each way in which the images can be; each command is at hand and its checks
pass or fail as the statement supposes. -/
theorem bootAndMailboxEventsComplete : Obligations.BootAndMailboxEventsComplete := by
  refine ⟨fun s => powerOn_clears, fun s hc hs hp => ?_, fun s hc => (command_running hc : execGetek s = _),
    fun s oid k => loadkey_free, fun s oid => loadkey_free, fun s oid hc ho hbad => ?_,
    fun s oid x hc ho hfree hx => ?_, fun s hp => ?_, fun s hp => ?_,
    fun s => ⟨_, rfl, rfl, rfl, rfl, rfl, rfl, rfl, rfl, rfl⟩⟩
  · exact (command_atHand hc hs (hp.imp_right fun h => ⟨h, rfl⟩) : execAttest s = _)
  · subst ho
    show execLoadkey s = _
    refine (command_running hc).trans (if_pos ?_)
    simpa [or_assoc] using hbad
  · subst ho hx
    show execWithdraw s = _
    refine (command_running hc).trans (if_neg ?_)
    simpa using hfree
  · exact if_pos (by simpa [Powered] using hp)
  · exact if_pos (by simpa [Powered] using hp)

end Sys2Proof.Machine
end
